-- ==== Sys2Proof/Word.lean ====
section
/-! DEFINITION. The words of the machine: widths of registers and the sparse tables that hold large stores. -/

namespace Sys2Proof

/-- A byte of memory (R3). -/
abbrev Byte := BitVec 8

/-- A 64-bit scalar register of the x, y, a and e files. -/
abbrev Word := BitVec 64

/-- A 2,048-bit vector register (R195). -/
abbrev VWord := BitVec 2048

/-- A 256-bit mask register (R196). -/
abbrev MaskWord := BitVec 256

/-- A large store as the list of its entries that differ from the store's default, keys strictly rising. -/
abbrev Sparse (α : Type) := List (Nat × α)

end Sys2Proof
end

