-- ==== Sys2Proof/Syntax.lean ====
section
/-! DEFINITION. The steps of the machine: one constructor of `Instr` per row of spec/opcode_table.json, with
the operands of the slot operations (R91 to R95) and the inputs and events of the other parties. -/

namespace Sys2Proof

/-! ### Faults -/

/-- The fault codes of R180. -/
inductive FaultCode where
  | illegalOp | illegalBank | accBankConflict | reservedField | dictRange | codeReserved | nonuniform
  | targetEmpty | fuseDiverge | watchdog | latchLost | softwareTrap | retstack
  | fetchFault | handleInvalid | handlePending | permission | misaligned | scratchRange | handleRange
  | chaseCycle | frontierAbandoned | tidemarkRewind | regionShape | berthOverrun | streamFault
  | mmaShape | sparseMeta | projEmpty | routeInvalid
  | tableStale | tableIndex | tableEmpty
  | pinLimit | maskRange | pageState
  | manifestStale | collOverlap | linkDown | layoutPair
  | depUnderflow | bollardOverflow | hawserBroken | crewUnplaceable
  deriving DecidableEq, Repr

/-- The 8-bit code of a fault (R180). -/
def FaultCode.code : FaultCode → Nat
  | .illegalOp => 0x01 | .illegalBank => 0x02 | .accBankConflict => 0x03 | .reservedField => 0x04
  | .dictRange => 0x05 | .codeReserved => 0x06 | .nonuniform => 0x07 | .targetEmpty => 0x08
  | .fuseDiverge => 0x09 | .watchdog => 0x0A | .latchLost => 0x0B | .softwareTrap => 0x0C | .retstack => 0x0D
  | .fetchFault => 0x20 | .handleInvalid => 0x21 | .handlePending => 0x22 | .permission => 0x23
  | .misaligned => 0x24 | .scratchRange => 0x25 | .handleRange => 0x26
  | .chaseCycle => 0x40 | .frontierAbandoned => 0x41 | .tidemarkRewind => 0x42 | .regionShape => 0x43
  | .berthOverrun => 0x44 | .streamFault => 0x45
  | .mmaShape => 0x60 | .sparseMeta => 0x61 | .projEmpty => 0x62 | .routeInvalid => 0x63
  | .tableStale => 0x70 | .tableIndex => 0x71 | .tableEmpty => 0x72
  | .pinLimit => 0x80 | .maskRange => 0x81 | .pageState => 0x82
  | .manifestStale => 0x90 | .collOverlap => 0x91 | .linkDown => 0x92 | .layoutPair => 0x93
  | .depUnderflow => 0xA0 | .bollardOverflow => 0xA1 | .hawserBroken => 0xA2 | .crewUnplaceable => 0xA3

/-! ### Operands of the slot operations -/

/-- The guard of an operation (R96): none, or a test of one condition register (or, with CK, of a mask). -/
inductive Guard where
  | always
  | on (neg : Bool) (idx : Fin 8)
  deriving DecidableEq, Repr

/-- A source field of an S or V slot (R98). -/
inductive Src where
  | reg (r : Fin 32)
  | latch (n : Fin 4)
  | zero
  deriving DecidableEq, Repr

/-- The seven slots of a bundle, in the order S0, S1, M, V0, V1, E, B. -/
inductive Slot where
  | s0 | s1 | m | v0 | v1 | e | b
  deriving DecidableEq, Repr

/-- An S-slot operation (R91). `second` is set in S1. `imm` holds IMM16, or IMM22 for LI, LIH and LIX.
`sub` holds the condition code of CMP and CMPI and the file code of COPY. -/
structure SOp where
  second : Bool := false
  g : Guard := .always
  d : Fin 32 := 0
  nd : Bool := false
  a : Src := .reg 0
  b : Src := .reg 0
  imm : BitVec 22 := 0
  sub : Fin 8 := 0
  deriving DecidableEq, Repr

/-- The register classes of an M operation (R92), CLS 0 to 6. -/
inductive RegClass where
  | a | x | y | v | w | e | h
  deriving DecidableEq, Repr

/-- An M-slot operation (R92). -/
structure MOp where
  g : Guard := .always
  reg : Fin 32 := 0
  cls : RegClass := .a
  base : Fin 16 := 0
  sp : Bool := false
  idx : Fin 16 := 0
  imm : BitVec 16 := 0
  deriving DecidableEq, Repr

/-- The element types of the V slots (R195), ETYPE 0 to 7. -/
inductive ETy where
  | i8 | i16 | i32 | bf16 | fp16 | fp32 | e4m3 | e5m2
  deriving DecidableEq, Repr

/-- The rounding modes (R60), codes 0 to 4. -/
inductive RMode where
  | rne | rtz | rdn | rup | sr
  deriving DecidableEq, Repr

/-- A V-slot operation (R93). `second` is set in V1. `imm` holds an SB field used as an immediate, or VLI's IMM16.
Mask numbers of MAND, MPOPC, MANY and TCQW stand in `a` and `b` as register numbers. -/
structure VOp where
  second : Bool := false
  g : Guard := .always
  mask : Fin 8 := 0
  mz : Bool := false
  d : Fin 32 := 0
  nd : Bool := false
  a : Src := .reg 0
  b : Src := .reg 0
  c : Src := .reg 0
  imm : BitVec 16 := 0
  tag : Fin 16 := 0
  ety : ETy := .i8
  rm : RMode := .rne
  func : Fin 16 := 0
  deriving DecidableEq, Repr

/-- An E-slot operation (R94). -/
structure EOp where
  g : Guard := .always
  pa : Fin 16 := 0
  pb : Fin 16 := 0
  da : Fin 256 := 0
  db : Fin 256 := 0
  tm : Fin 64 := 0
  bol : Fin 64 := 0
  tag : Fin 16 := 0
  var : Fin 8 := 0
  func : BitVec 8 := 0
  deriving DecidableEq, Repr

/-- A B-slot operation (R95). -/
structure BOp where
  g : Guard := .always
  ck : Bool := false
  t : Fin 8 := 0
  imm : BitVec 17 := 0
  deriving DecidableEq, Repr

/-! ### What events and inputs carry -/

/-- A page mapping of a tenant slice (R133): size code 0 is 64 KiB, 1 is 2 MiB, 2 is 1 GiB. -/
structure Mapping where
  slice : Nat
  va : Nat
  pa : Nat
  size : Nat
  r : Bool
  w : Bool
  x : Bool
  deriving DecidableEq, Repr

/-- The id of a collective block (R392). -/
structure BlockId where
  tensor : Nat
  owner : Nat
  num : Nat
  deriving DecidableEq, Repr

/-- The descriptor flit of a coded packet (R407). -/
structure CodedDesc where
  a : BlockId
  b : BlockId
  recvA : Nat
  recvB : Nat
  lenA : Nat
  lenB : Nat
  idxB : Nat
  genB : Nat
  idxA : Nat
  genA : Nat
  deriving DecidableEq, Repr

/-- A collective packet as the receiver meets it: an uncoded block, or a coded payload with its descriptor. `perm` and
`dir` give the walk order of the sending region, in which the block was cut; `terms` tells of each element of a running
value which special values its contributions held: 1 a NaN, 2 +infinity, 4 -infinity (R75); `lit` tells that a lighter has decoded
the block (R408). -/
structure CollPacket where
  slot : Nat
  gen : Nat
  src : Nat
  srcQuay : Nat
  id : BlockId
  data : List Byte
  coded : Option CodedDesc
  perm : Nat
  dir : Nat
  terms : List Nat := []
  lit : Bool := false
  deriving DecidableEq, Repr

/-- A collective packet at the port through which it arrives (R395). -/
structure PacketAt where
  port : Fin 18
  packet : CollPacket
  deriving DecidableEq, Repr

/-- What kind of payload lands on a quay (R17). -/
inductive LandingKind where
  | cph | sendh | routed
  deriving DecidableEq, Repr

/-- One landing, or one beat of one, at a receiving quay (R17, R145, R253, R282). `cells` are byte
offsets from the landing address `addr` with their bytes; the whole landing reaches from `low` bytes below `addr` to
`extent` bytes from it; the beat holds the elements from walk index `first` to before `upto`; `attempt` counts the times
that the sending command has begun anew, `ident` is the quay and the number under which the landing began; `via` is the port at
which the beat came from another device. -/
structure Landing where
  kind : LandingKind
  quay : Nat
  srcDev : Nat
  srcQuay : Nat
  srcSeq : Nat
  srcCtx : Nat
  srcPc : Nat
  srcCrew : Nat
  slice : Nat
  addr : Nat
  extent : Nat
  swizzled : Bool
  cells : List (Int × Byte)
  upto : Nat
  last : Bool
  handler : Option Nat
  bytes : Nat
  x3 : Word
  x4 : Word
  x5 : Word
  via : Option (Fin 18) := none
  low : Nat := 0
  first : Nat := 0
  attempt : Nat := 0
  ident : Nat × Nat := (0, 0)
  deriving DecidableEq, Repr

/-- The operation and element type of a memory-side reduction (R138, R254). -/
inductive RedOp where
  | add | and | or | xor | min | max | minu | maxu | fadd
  deriving DecidableEq, Repr

/-- The element a memory-side reduction combines: a 64-bit or 32-bit integer of RED and VRED, or a record format. -/
inductive RedTy where
  | u64 | sat32 | f32 | fmt (code : Nat)
  deriving DecidableEq, Repr

/-- A memory-side reduction on its way to its home (R402): the tag and the elements with their addresses. `upto` is, for
a command's, the walk index after its last element; `sentAt` is the quay cycle at which it was sent, `owner` its strand, `det` tells
that its crew runs in deterministic mode (R403). -/
structure Reduction where
  dev : Nat
  quay : Nat
  seq : Nat
  ctx : Nat
  cmd : Option Nat
  op : RedOp
  ty : RedTy
  elems : List (Nat × BitVec 64)
  upto : Nat := 0
  sentAt : Nat := 0
  owner : Nat := 0
  det : Bool := false
  deriving DecidableEq, Repr

/-- What an acknowledgement reports: a beat of a landing (R253, R282), a block of a collective (R397), a memory-side
reduction (R402), holdings (R414), a cancel (R416). -/
inductive Ack where
  | beat (quay seq upto : Nat)
  | block (slot gen receiver : Nat) (id : BlockId)
  | holdings (slot receiver : Nat)
  | cancel (slot gen receiver : Nat)
  | reduction (quay seq : Nat) (flags : BitVec 5)
  deriving DecidableEq, Repr

/-- A refused landing returns to its sender (R17). -/
inductive Refused where
  | command (quay seq : Nat) (code : FaultCode)
  | sendh (quay ctx crew born : Nat) (pc : Nat) (code : FaultCode)
  deriving DecidableEq, Repr

/-- The states of a Halham port (R385). -/
inductive PortState where
  | down | training | up | degraded
  deriving DecidableEq, Repr

/-- Who meets an unusable trunk (R385, R398). -/
inductive LinkUser where
  | access (quay ctx : Nat)
  | command (quay seq : Nat)
  | collective (slot : Nat)
  deriving DecidableEq, Repr

/-- A function that finishes training (R431). -/
inductive DevFunction where
  | quay (n : Nat)
  | stack (n : Nat)
  | port (n : Nat) (lanes : Nat)
  deriving DecidableEq, Repr

/-- The state and value of a global tidemark of another device, with its writer record's bytes as a number (R245). -/
structure RemoteMark where
  value : Nat
  state : Nat
  endv : Nat
  record : BitVec 512
  broken : Bool := false
  deriving DecidableEq, Repr

/-- Bytes that a memory request carries to another device's HBM: physical addresses with their bytes, none for a read. -/
abbrev MemCells := List (Nat × Byte)

/-- The operation of AMO, CAS and BMSET at the home of its 8 bytes (R38): AMO's code and operand, the value that CAS compares and the
one it writes, the bits that BMSET sets. -/
inductive AtomicOp where
  | amo (code : Nat) (v : Word)
  | cas (old new : Word)
  | bits (v : Word)
  deriving DecidableEq, Repr

/-- What one device sends to another, by the kinds of packet of R384: a beat of a landing, a collective packet, the
messages of the collective engine, acknowledgements and refusals, a memory-side reduction, a published global tidemark,
a memory request, which reads, writes or does both in one step, with its response, and the notice that a packet met an
unusable trunk. -/
inductive NetMsg where
  | landing (l : Landing)
  | data (p : CollPacket)
  | digest (slot gen : Nat) (d : Word)
  | holdings (slot first count : Nat) (t : List (Nat × BlockId × Nat))
  | completion (slot gen : Nat)
  | cancel (slot gen : Nat)
  | nack (slot : Nat) (id : BlockId)
  | refusal (slot gen : Nat)
  | landingRefused (r : Refused)
  | ack (a : Ack)
  | reduction (r : Reduction)
  | tidemark (g : Nat) (m : RemoteMark)
  | memRead (quay ctx age : Nat) (addrs : List Nat)
  | memWrite (quay ctx age : Nat) (cells : MemCells)
  | memAtomic (quay ctx age : Nat) (addr : Nat) (op : AtomicOp)
  | memResponse (quay ctx age : Nat) (cells : MemCells)
  | undeliverable (header : Word)
  deriving DecidableEq, Repr

/-- The steps of the machine, one per row of spec/opcode_table.json: the slot operations, then the events and inputs. -/
inductive Instr where
  -- S slots
  | add (o : SOp) | sub (o : SOp) | addi (o : SOp) | mul (o : SOp) | mulh (o : SOp) | mulhu (o : SOp)
  | div (o : SOp) | divu (o : SOp) | rem (o : SOp) | remu (o : SOp)
  | and (o : SOp) | or (o : SOp) | xor (o : SOp) | andi (o : SOp) | ori (o : SOp) | xori (o : SOp)
  | shl (o : SOp) | shr (o : SOp) | sha (o : SOp) | shli (o : SOp) | shri (o : SOp) | shai (o : SOp)
  | min (o : SOp) | max (o : SOp) | minu (o : SOp) | maxu (o : SOp)
  | sel (o : SOp) | clz (o : SOp) | ctz (o : SOp) | popc (o : SOp) | bext (o : SOp) | bins (o : SOp)
  | clmul (o : SOp) | clmulh (o : SOp) | li (o : SOp) | lih (o : SOp) | lix (o : SOp)
  | cmp (o : SOp) | cmpi (o : SOp) | copy (o : SOp) | stat (o : SOp) | statw (o : SOp)
  -- M slot
  | ldB (o : MOp) | ldBu (o : MOp) | ldH (o : MOp) | ldHu (o : MOp) | ldW (o : MOp) | ldWu (o : MOp) | ldD (o : MOp)
  | stB (o : MOp) | stH (o : MOp) | stW (o : MOp) | stD (o : MOp)
  | vld (o : MOp) | vst (o : MOp) | vlds (o : MOp) | vsts (o : MOp) | vldb (o : MOp)
  | xlate (o : MOp) | hrel (o : MOp) | hstat (o : MOp)
  | amo (o : MOp) | cas (o : MOp) | red (o : MOp) | vred (o : MOp)
  | fence (o : MOp) | rinv (o : MOp) | lrfence (o : MOp) | dictld (o : MOp) | bmwait (o : MOp) | bmset (o : MOp)
  | bldset (o : MOp) | bldrd (o : MOp) | bpost (o : MOp) | tmw (o : MOp) | sendh (o : MOp)
  -- B slot
  | prep (o : BOp) | prepi (o : BOp) | go (o : BOp) | call (o : BOp) | ret (o : BOp) | loop (o : BOp)
  | lpset (o : BOp) | lpsetReg (o : BOp) | trap (o : BOp) | halt (o : BOp) | susp (o : BOp)
  | tcqgo (o : BOp) | rrb (o : BOp) | faultret (o : BOp)
  -- V slots
  | vadd (o : VOp) | vsub (o : VOp) | vmul (o : VOp) | vmulh (o : VOp) | vmac (o : VOp) | vmacw (o : VOp)
  | vabs (o : VOp) | vneg (o : VOp) | vmin (o : VOp) | vmax (o : VOp) | vadds (o : VOp) | vsubs (o : VOp)
  | vavg (o : VOp) | vand (o : VOp) | vor (o : VOp) | vxor (o : VOp) | vnot (o : VOp) | vshl (o : VOp)
  | vshr (o : VOp) | vsha (o : VOp) | vshli (o : VOp) | vclmul (o : VOp) | vclmulh (o : VOp) | vpopc (o : VOp)
  | vclz (o : VOp) | vfadd (o : VOp) | vfsub (o : VOp) | vfmul (o : VOp) | vfma (o : VOp) | vfmin (o : VOp)
  | vfmax (o : VOp) | vfabs (o : VOp) | vfneg (o : VOp) | vexp2 (o : VOp) | vrcp (o : VOp) | vrsq (o : VOp)
  | vfcmp (o : VOp) | vicmp (o : VOp) | vcvt (o : VOp) | vpackp (o : VOp) | vunpkp (o : VOp) | vscale (o : VOp)
  | vamax (o : VOp) | vrsum (o : VOp) | vrmax (o : VOp) | vperm (o : VOp) | vshuf (o : VOp) | vbcast (o : VOp)
  | vslide (o : VOp) | vscan (o : VOp) | vcomp (o : VOp) | vsel (o : VOp) | mand (o : VOp) | mpopc (o : VOp)
  | many (o : VOp) | acrd (o : VOp) | acwr (o : VOp) | acrdc (o : VOp) | tcqw (o : VOp) | vmov (o : VOp)
  | vli (o : VOp) | vcopyx (o : VOp) | vidx (o : VOp)
  -- E slot: crane, tidemarks and streams
  | cp (o : EOp) | cpmm (o : EOp) | cpg (o : EOp) | cps (o : EOp) | cpf (o : EOp) | cph (o : EOp) | cpr (o : EOp)
  | cpt (o : EOp) | tmsetAdv (o : EOp) | tmsetAbandon (o : EOp) | tmrst (o : EOp) | tmglbPub (o : EOp)
  | tmglbFol (o : EOp) | tmglbUnb (o : EOp) | tmq (o : EOp) | tmqGlb (o : EOp) | sbind (o : EOp) | sunb (o : EOp)
  | sidx (o : EOp)
  -- E slot: matrix engine
  | mma (o : EOp) | mmas (o : EOp)
  | acz (o : EOp) | epi (o : EOp)
  | pjld (o : EOp) | rteset (o : EOp) | rtesetClr (o : EOp) | bthset (o : EOp) | bthsetRel (o : EOp) | bthpop (o : EOp)
  -- E slot: table engine
  | tbld (o : EOp) | tlk (o : EOp) | tspl (o : EOp) | tfil (o : EOp) | tinv (o : EOp) | tstat (o : EOp)
  -- E slot: KV page engine
  | pfxh (o : EOp) | pfxm (o : EOp) | pfxi (o : EOp) | pgpin (o : EOp) | pgunp (o : EOp) | pgfork (o : EOp)
  | pgmaskClr (o : EOp) | pgmaskSet (o : EOp) | pgmaskExport (o : EOp) | pgcmp (o : EOp) | pgalloc (o : EOp)
  | pgfree (o : EOp) | pgfreeReclaim (o : EOp)
  -- E slot: collective engine
  | cldef (o : EOp) | clgo (o : EOp) | clarm (o : EOp) | cldis (o : EOp) | mfpub (o : EOp) | clstat (o : EOp)
  | clstatLink (o : EOp) | clcan (o : EOp)
  -- E slot: harbourmaster
  | spawn (o : EOp) | depset (o : EOp) | depdec (o : EOp)
  | futw (o : EOp) | futr (o : EOp)
  | launch (o : EOp) | pilot (o : EOp) | pnext (o : EOp) | dqpush (o : EOp)
  -- messages of the on-die fabric
  | memoryReductionApply (r : Reduction)
  | arrivalLanding (l : Landing)
  | arrivalRefusalReturn (r : Refused)
  | acknowledgementArrive (a : Ack)
  -- the front end and the context
  | bundleDispatch
  | codeFetch (line : Nat)
  | headerWait (bol : Fin 64) (n : Nat)
  | headerPost (bol : Fin 64) (n : Nat)
  | yieldLeg
  | decouple
  | rejoin
  | storePerform (k : Nat)
  | loadDataLand (ctx : Fin 8) (k : Nat)
  | xlateResult (ctx : Fin 8) (k : Nat)
  | pagerWaiterImageWrite (ctx : Fin 8)
  | asyncFaultTaken
  | watchdog
  | headerWaitHaltTimeout
  -- streams, the dock and the crane's events
  | streamReadElement (ctx : Fin 8) (k : Fin 8)
  | streamWriteElement (ctx : Fin 8) (k : Fin 8)
  | commandDockEntry (seq : Nat)
  | commandStart (seq : Nat)
  | commandComplete (seq : Nat)
  | craneBeatCommit (seq : Nat)
  | chaseCycleWalk (seq : Nat)
  | haltWaitRelease (seq : Nat)
  | globalFollowerUpdate (tm : Fin 64) (remote : Option RemoteMark)
  -- events of the matrix engine
  | mmaGroupStart (seq : Nat)
  | mmaKtileRetire (seq : Nat)
  | epiBeatCommit (seq : Nat)
  -- events of the KV page engine
  | kvHomeStep (quay : Nat) (seq : Nat)
  -- collective and link events
  | clarmFiring (bol : Fin 64)
  | coderPacket (slot : Fin 64)
  | collectivePacketArrive (p : PacketAt)
  | lighterDecode (k : Nat)
  | nackArrive (slot : Fin 64) (receiver : Nat) (id : BlockId)
  | holdingsArrive (slot : Fin 64) (src : Nat) (first count : Nat) (triples : List (Nat × BlockId × Nat))
  | digestArrive (slot : Fin 64) (src : Nat) (gen : Nat) (digest : Word)
  | completionReportArrive (slot : Fin 64) (src : Nat) (gen : Nat)
  | cancelArrive (slot : Fin 64) (src : Nat) (gen : Nat)
  | collectiveRefusal (slot : Fin 64) (src : Nat) (gen : Nat)
  | credit (port : Fin 18)
  | flitReceive (port : Nat) (header : Word) (payload : BitVec 512)
  | portStateChange (port : Nat) (st : PortState) (lanes : Nat)
  | linkDown (u : LinkUser)
  | endToEndReplay (k : Nat)
  | arrivalHandlerStart (k : Nat)
  -- events of the counters and futures
  | depCounterApply (k : Nat)
  | futureOpApply (k : Nat)
  -- harbourmaster events
  | queueTakeRecord (q : Fin 64)
  | crewPlace (q : Fin 64) (ship : Nat) (crew : Nat)
  | crewRetire (id : Nat)
  | crewEnd (id : Nat)
  | crewPreempt (id : Nat)
  | crewRestore (id : Nat)
  | recordPickup
  | quantumExpiry (slice : Fin 16)
  | energyWindow (spent : List (Nat × Nat))
  | systemEndStrand (ctx : Fin 8)
  | systemResumeStrand (ctx : Fin 8)
  | systemResumeCommand (seq : Nat)
  | pagerBatchClose
  | pagerLogDeliver
  | faultAnswerWrite (v : Word) (maps : List Mapping)
  -- host, bring-up, power and security
  | doorbellWrite (g : Fin 4096) (v : Word)
  | havenMaskWrite (v : Word)
  | fwlenWrite (v : Word)
  | firmwareCheck (fetched : Bool)
  | functionReady (f : DevFunction) (ok : Bool)
  | powerWake
  | clampWrite (v : Word)
  | bandThresholdWrite (v : Word)
  | thermalSample (t0 t1 : Nat)
  | clockStretch
  | railUndervoltage
  | ucieModuleFail (m : Fin 4)
  | attestReqWrite (v : Word)
  | attestReportDone
  | bar0RegisterWrite (off : Nat) (size : Nat) (v : Word)
  | forkBlockSend (slot : Fin 64)
  | localCopyWrite (slot : Fin 64)
  | cxlMemAccess (write : Bool) (addr : Nat) (data : List Byte)
  | poolEnable (slice : Fin 16) (pool : Fin 4)
  | recordCacheRefill (d : Fin 256) (w : Fin 8)
  deriving DecidableEq, Repr

end Sys2Proof
end

