-- ==== Sys2Proof/Config.lean ====
section
/-! DEFINITION. What the spec leaves to the device or leaves open: constants with no value that a proof could see. -/

namespace Sys2Proof.Config

/-- A value the spec does not state, one for each number the step draws (log 20). -/
opaque freeWord : Nat → Word

/-- The flit payloads that carry a message whose layout the spec does not state (R384; log 102). -/
opaque messagePayload : NetMsg → BitVec 512 × List (BitVec 512)

/-- The message that the flit payloads of a packet of a TYPE carry, where the spec does not state their layout (log 102). -/
opaque messageOf : Nat → List (BitVec 512) → Option NetMsg

/-- The TYPE of the packets for which R384 names none (log 102). -/
opaque messageType : NetMsg → Fin 11

/-- Where the device's HBM begins in the host's physical address space (R428). -/
opaque hdmBase : Nat

/-- The stepping of the device, which its report names (R437). -/
opaque stepping : BitVec 16

/-- The SHAKE256-256 digest of some bytes (R436, R437), a standard that the spec names and does not define. -/
opaque shake256 : List Byte → BitVec 256

/-- The fused 64-byte device secret (R436). -/
opaque deviceSecret : BitVec 512

/-- The fused SHAKE256-256 digest of Oliore's firmware public key (R436). -/
opaque fusedKeyDigest : BitVec 256

/-- The fused floor of firmware versions (R431, R435). -/
opaque firmwareFloor : Nat

/-- The XMSS public key of the pair that a secret gives (R436); how it is derived the spec does not state. -/
opaque deriveKey : BitVec 512 → BitVec 544

/-- The device's public key, which Plidon derives from the fused secret at each boot: always the same (R436). -/
def deviceKey : BitVec 544 := deriveKey deviceSecret

/-- The XMSS signature that the key of a secret makes under a signing index over the bytes of a report (R436, R437). -/
opaque xmssSign : BitVec 512 → Nat → List Byte → BitVec 22560

/-- Whether a signature over a firmware image holds under a public key (R431, R436). -/
opaque xmssVerify : BitVec 544 → List Byte → BitVec 22560 → Bool

/-- The firmware public key that an image carries, its signature and its version: the image's layout is not stated (R431; log 132). -/
opaque imageKey : List Byte → BitVec 544
opaque imageSignature : List Byte → BitVec 22560
opaque imageVersion : List Byte → Nat

/-- Where Plidon's own fixed 256 MiB window of HBM begins (R435; the address is not stated: log 133). -/
opaque plidonBase : Nat

end Sys2Proof.Config
end

