-- ==== Sys2Proof/Decode.lean ====
section
/-! DEFINITION. Decoding of code words, bundles and slots (R77, R87 to R108), total on any bits, with the fault of
R101 for what is no instruction, and after it the encoder of slot words, from the same tables. -/

namespace Sys2Proof

/-! ### Bit fields -/

/-- The field of `w` bits at bit `lo` of `n`. -/
def field (n lo w : Nat) : Nat := n / 2 ^ lo % 2 ^ w

/-- The low `k` bytes of `n`, lowest first (R3). -/
def leBytes : Nat → Nat → List Byte
  | 0, _ => []
  | k + 1, n => BitVec.ofNat 8 n :: leBytes k (n / 256)

/-- The number whose bytes, lowest first, are `bs` (R3). -/
def ofLeBytes : List Byte → Nat
  | [] => 0
  | b :: bs => b.toNat + 256 * ofLeBytes bs

/-- The signed value of the low `w` bits of `n`. -/
def signedField (w n : Nat) : Int := (BitVec.ofNat w n).toInt

/-- A GUARD field (R96). A field with EN = 0 and a nonzero rest is reserved; see `guardBad`. -/
def Guard.ofBits (n : Nat) : Guard :=
  if n / 16 % 2 = 0 then .always else .on (n / 8 % 2 == 1) (Fin.ofNat 8 n)

/-- The reserved GUARD fields (R96). -/
def guardBad (n : Nat) : Bool := n / 16 % 2 == 0 && n % 16 != 0

def Guard.bits : Guard → Nat
  | .always => 0
  | .on neg i => 16 + 8 * neg.toNat + i.val

/-- A source field (R98); 37 to 63 are reserved. -/
def Src.ofBits (n : Nat) : Src :=
  if n < 32 then .reg (Fin.ofNat 32 n) else if n < 36 then .latch (Fin.ofNat 4 (n - 32)) else .zero

def Src.bits : Src → Nat
  | .reg r => r.val
  | .latch n => 32 + n.val
  | .zero => 36

/-- Two register sources of one bank (R100): the numbers as encoded, both even or both odd. -/
def bankClash : Src → Src → Bool
  | .reg a, .reg b => a.val % 2 == b.val % 2
  | _, _ => false

/-- The number of bits that a mask allows beyond `m`: true when `n` has a one bit outside `m`. -/
def outside (n m : Nat) : Bool := n &&& m != n

/-- Whether the set of numbers given as a bit mask has `n`. -/
def inSet (m n : Nat) : Bool := m.testBit n

/-! ### S slots (R91, R102, R119 to R129) -/

/-- The operand shapes of the S operations. -/
inductive SShape where
  | rr | ri | sh | un | sel | bext | bins | li | lix | cmp | cmpi | copy | stat | statw
  deriving DecidableEq, Repr

/-- The fields of an S slot besides OPC (R91). -/
structure SFields where
  guard : Nat
  dst : Nat
  nd : Nat
  sa : Nat
  sb : Nat
  imm : Nat
  deriving DecidableEq, Repr

def SFields.ofWord (w : Nat) : SFields :=
  ⟨field w 8 5, field w 13 6, field w 19 1, field w 20 6, field w 26 6, field w 32 16⟩

def SFields.word (opc : Nat) (f : SFields) : Nat :=
  opc + 2 ^ 8 * (f.guard + 2 ^ 5 * (f.dst + 2 ^ 6 * (f.nd + 2 * (f.sa + 2 ^ 6 * (f.sb + 2 ^ 6 * f.imm)))))

/-- The S opcode map (R102) with the shape of each operation. -/
def sRow (opc : Nat) : Option (SShape × (SOp → Instr)) :=
  match opc with
  | 0x01 => some (.rr, .add) | 0x02 => some (.rr, .sub) | 0x03 => some (.ri, .addi) | 0x04 => some (.rr, .mul)
  | 0x05 => some (.rr, .mulh) | 0x06 => some (.rr, .mulhu) | 0x07 => some (.rr, .div) | 0x08 => some (.rr, .divu)
  | 0x09 => some (.rr, .rem) | 0x0A => some (.rr, .remu)
  | 0x10 => some (.rr, .and) | 0x11 => some (.rr, .or) | 0x12 => some (.rr, .xor) | 0x13 => some (.ri, .andi)
  | 0x14 => some (.ri, .ori) | 0x15 => some (.ri, .xori) | 0x16 => some (.rr, .shl) | 0x17 => some (.rr, .shr)
  | 0x18 => some (.rr, .sha) | 0x19 => some (.sh, .shli) | 0x1A => some (.sh, .shri) | 0x1B => some (.sh, .shai)
  | 0x20 => some (.rr, .min) | 0x21 => some (.rr, .max) | 0x22 => some (.rr, .minu) | 0x23 => some (.rr, .maxu)
  | 0x24 => some (.sel, .sel) | 0x25 => some (.un, .clz) | 0x26 => some (.un, .ctz) | 0x27 => some (.un, .popc)
  | 0x28 => some (.bext, .bext) | 0x29 => some (.bins, .bins) | 0x2A => some (.rr, .clmul)
  | 0x2B => some (.rr, .clmulh)
  | 0x30 => some (.li, .li) | 0x31 => some (.li, .lih) | 0x32 => some (.lix, .lix)
  | 0x38 => some (.cmp, .cmp) | 0x39 => some (.cmpi, .cmpi)
  | 0x40 => some (.copy, .copy) | 0x41 => some (.stat, .stat) | 0x42 => some (.statw, .statw)
  | _ => none

/-- The status numbers of R130. -/
def statListed (n : Nat) : Bool :=
  n == 0x001 || n == 0x002 || n == 0x003 || n == 0x010 || n == 0x011 || n == 0x012 || n == 0x020 || n == 0x021
    || n == 0x030 || n == 0x031 || n == 0x032 || n == 0x033 || n == 0x040 || n == 0x041 || n == 0x050 || n == 0x060
    || n == 0x061 || n == 0x070 || n == 0x080

/-- The operands an S slot's fields give, before the checks. -/
def sBuild (shape : SShape) (second : Bool) (f : SFields) : SOp :=
  { second := second, g := Guard.ofBits f.guard, d := Fin.ofNat 32 f.dst, nd := f.nd == 1
    a := match shape with
      | .li | .lix => .reg 0
      | _ => Src.ofBits f.sa
    b := match shape with
      | .li | .lix | .cmpi => .reg 0
      | _ => Src.ofBits f.sb
    imm := match shape with
      | .li | .lix => BitVec.ofNat 22 (f.sb + 64 * f.imm)
      | .cmp | .copy => 0
      | _ => BitVec.ofNat 22 f.imm
    sub := match shape with
      | .cmp | .copy => Fin.ofNat 8 f.imm
      | .cmpi => Fin.ofNat 8 f.sb
      | _ => 0 }

/-- What the operands cannot hold and R107 calls unassigned: CMP's conditions 8 to 15. -/
def sRawIllegal (shape : SShape) (f : SFields) : Bool :=
  match shape with
  | .cmp => f.imm % 16 ≥ 6
  | _ => false

/-- What the operands cannot hold and R96 to R98, R126 and R127 reserve. -/
def sRawReserved (shape : SShape) (f : SFields) : Bool :=
  guardBad f.guard || f.dst ≥ 32 ||
  match shape with
  | .li | .lix => f.sa != 0
  | .cmp => f.sa ≥ 37 || f.sb ≥ 37 || f.imm ≥ 16
  | .cmpi => f.sa ≥ 37 || f.sb ≥ 8
  | .copy => f.sa ≥ 37 || f.sb ≥ 37 || f.imm ≥ 8
  | _ => f.sa ≥ 37 || f.sb ≥ 37

/-- The unassigned values of R107, R125 and R129. -/
def sIllegal (shape : SShape) (o : SOp) : Bool :=
  match shape with
  | .bext | .bins => field o.imm.toNat 0 6 + field o.imm.toNat 6 6 + 1 > 64
  | .cmp | .cmpi | .copy => o.sub.val > 5
  | .stat | .statw => !statListed (field o.imm.toNat 0 12)
  | _ => false

/-- The reserved values of R97 and of the entries; S of BINS, which R125 gives the value 0, is among them (DEDUCED, log 109). -/
def sReserved (shape : SShape) (o : SOp) : Bool :=
  (o.nd && o.d != 0) ||
  match shape with
  | .rr => o.imm != 0 || o.sub != 0
  | .ri => o.b != .reg 0 || o.imm.toNat ≥ 2 ^ 16 || o.sub != 0
  | .sh => o.b != .reg 0 || o.imm.toNat ≥ 64 || o.sub != 0
  | .un => o.b != .reg 0 || o.imm != 0 || o.sub != 0
  | .sel => o.imm.toNat ≥ 16 || o.sub != 0
  | .bext => o.b != .reg 0 || o.imm.toNat ≥ 2 ^ 13 || o.sub != 0
  | .bins => o.imm.toNat ≥ 2 ^ 12 || o.sub != 0
  | .li => o.a != .reg 0 || o.b != .reg 0 || o.sub != 0
  | .lix => o.a != .reg 0 || o.b != .reg 0 || o.imm.toNat ≥ 2 ^ 20 || o.sub != 0
  | .cmp => o.d.val ≥ 8 || o.nd || o.imm != 0
  | .cmpi => o.d.val ≥ 8 || o.nd || o.b != .reg 0 || o.imm.toNat ≥ 2 ^ 16
  | .copy => o.nd || o.b != .reg 0 || o.imm != 0 || ((o.sub == 2 || o.sub == 3) && o.d.val ≥ 16)
  | .stat => o.a != .reg 0 || o.b != .reg 0 || o.imm.toNat ≥ 2 ^ 12 || o.sub != 0
  | .statw => o.d != 0 || o.nd || o.b != .reg 0 || o.imm.toNat ≥ 2 ^ 12 || o.sub != 0

/-- The bank rule (R100) of the shapes with two sources. -/
def sBank (shape : SShape) (o : SOp) : Bool :=
  match shape with
  | .rr | .sel | .bins | .cmp => bankClash o.a o.b
  | _ => false

/-- The fields of an S operation, for the encoder. -/
def sFields (shape : SShape) (o : SOp) : SFields :=
  { guard := o.g.bits, dst := o.d.val, nd := o.nd.toNat
    sa := match shape with
      | .li | .lix => 0
      | _ => o.a.bits
    sb := match shape with
      | .li | .lix => o.imm.toNat % 64
      | .cmpi => o.sub.val
      | _ => o.b.bits
    imm := match shape with
      | .li | .lix => o.imm.toNat / 64
      | .cmp | .copy => o.sub.val
      | _ => o.imm.toNat }

/-! ### M slot (R92, R103, R132 to R145) -/

/-- The fields an M operation uses (R97), with the set of its classes and of its operation codes IMM16[15:12]. -/
structure MUse where
  classes : Nat := 0
  regUsed : Bool := true
  base : Bool := false
  sp : Bool := false
  idx : Bool := false
  imm : Nat := 0
  codes : Nat := 0xFFFF
  deriving DecidableEq, Repr

structure MFields where
  guard : Nat
  reg : Nat
  cls : Nat
  base : Nat
  sp : Nat
  idx : Nat
  b31 : Nat
  imm : Nat
  deriving DecidableEq, Repr

def MFields.ofWord (w : Nat) : MFields :=
  ⟨field w 8 5, field w 13 5, field w 18 4, field w 22 4, field w 26 1, field w 27 4, field w 31 1, field w 32 16⟩

def MFields.word (opc : Nat) (f : MFields) : Nat :=
  opc + 2 ^ 8 * (f.guard + 2 ^ 5 * (f.reg + 2 ^ 5 * (f.cls + 2 ^ 4 * (f.base + 2 ^ 4 * (f.sp + 2 *
    (f.idx + 2 ^ 4 * (f.b31 + 2 * f.imm)))))))

/-- The class codes of R92. -/
def RegClass.ofBits (n : Nat) : RegClass :=
  match n with
  | 0 => .a | 1 => .x | 2 => .y | 3 => .v | 4 => .w | 5 => .e | _ => .h

def RegClass.bits : RegClass → Nat
  | .a => 0 | .x => 1 | .y => 2 | .v => 3 | .w => 4 | .e => 5 | .h => 6

/-- x, y, a and e; v and w; h. -/
def clsXyae : Nat := 0b0100111
def clsVw : Nat := 0b0011000
def clsH : Nat := 0b1000000

def mAccess (classes : Nat) : MUse := { classes := classes, base := true, sp := true, idx := true, imm := 0xFFFF }

/-- The M opcode map (R103); BLDSET uses IMM16[14:7] also with CREW = 0 (R141; DEDUCED, log 109). -/
def mRow (opc : Nat) : Option (MUse × (MOp → Instr)) :=
  match opc with
  | 0x01 => some (mAccess clsXyae, .ldB) | 0x02 => some (mAccess clsXyae, .ldBu)
  | 0x03 => some (mAccess clsXyae, .ldH) | 0x04 => some (mAccess clsXyae, .ldHu)
  | 0x05 => some (mAccess clsXyae, .ldW) | 0x06 => some (mAccess clsXyae, .ldWu)
  | 0x07 => some (mAccess clsXyae, .ldD)
  | 0x09 => some (mAccess clsXyae, .stB) | 0x0A => some (mAccess clsXyae, .stH)
  | 0x0B => some (mAccess clsXyae, .stW) | 0x0C => some (mAccess clsXyae, .stD)
  | 0x10 => some (mAccess clsVw, .vld) | 0x11 => some (mAccess clsVw, .vst)
  | 0x12 => some (mAccess clsVw, .vlds) | 0x13 => some (mAccess clsVw, .vsts) | 0x14 => some (mAccess clsVw, .vldb)
  | 0x18 => some ({ classes := clsH, idx := true, imm := 0xFFFF }, .xlate)
  | 0x19 => some ({ classes := clsH }, .hrel)
  | 0x1A => some ({ classes := clsXyae, base := true }, .hstat)
  | 0x20 => some ({ mAccess clsXyae with codes := 0x01FF }, .amo)
  | 0x21 => some (mAccess clsXyae, .cas)
  | 0x22 => some ({ mAccess clsXyae with codes := 0x02FF }, .red)
  | 0x23 => some ({ mAccess clsVw with codes := 0x02F1 }, .vred)
  | 0x28 => some ({ regUsed := false, imm := 0x7F }, .fence)
  | 0x29 => some ({ regUsed := false, base := true, idx := true, imm := 0xFFFF }, .rinv)
  | 0x2A => some ({ regUsed := false }, .lrfence)
  | 0x2B => some ({ mAccess 0b1 with imm := 0x0FFF }, .dictld)
  | 0x2C => some (mAccess clsXyae, .bmwait) | 0x2D => some (mAccess clsXyae, .bmset)
  | 0x30 => some ({ classes := clsXyae, imm := 0x7FFF }, .bldset)
  | 0x31 => some ({ classes := clsXyae, imm := 0x3F }, .bldrd)
  | 0x32 => some ({ regUsed := false, imm := 0x3FF }, .bpost)
  | 0x33 => some ({ classes := clsXyae, idx := true, imm := 0x3F }, .tmw)
  | 0x38 => some ({ classes := clsVw, idx := true, imm := 0xFFFF }, .sendh)
  | _ => none

def mBuild (f : MFields) : MOp :=
  { g := Guard.ofBits f.guard, reg := Fin.ofNat 32 f.reg, cls := RegClass.ofBits f.cls, base := Fin.ofNat 16 f.base
    sp := f.sp == 1, idx := Fin.ofNat 16 f.idx, imm := BitVec.ofNat 16 f.imm }

/-- CLS 7 to 15 and bit 31 (R92), and the guard (R96). -/
def mRawReserved (f : MFields) : Bool := guardBad f.guard || f.cls ≥ 7 || f.b31 != 0

/-- A class the operation does not allow (R92; CLS 7 to 15 is never a cause), or an unassigned code (R107, R138, R28). -/
def mIllegal (u : MUse) (opc : Nat) (o : MOp) : Bool :=
  (u.regUsed && !inSet u.classes o.cls.bits) || !inSet u.codes (field o.imm.toNat 12 4)
    || (opc == 0x28 && field o.imm.toNat 0 3 > 4)

/-- The reserved values of R92, R97, R137, R139, R142 and R145. -/
def mReserved (u : MUse) (opc : Nat) (o : MOp) : Bool :=
  (!u.regUsed && (o.reg != 0 || o.cls != .a))
    || (o.reg.val ≥ 16 && (o.cls == .a || o.cls == .e || o.cls == .h))
    || (!u.base && o.base != 0) || (!u.sp && o.sp) || (o.sp && o.base.val ≥ 2) || (!u.idx && o.idx != 0)
    || outside o.imm.toNat u.imm
    || (opc == 0x21 && (o.reg.val % 2 == 1 || ((o.cls == .a || o.cls == .e) && o.reg.val > 14)))
    || (opc == 0x38 && o.idx.val > 12)

def mFields (o : MOp) : MFields :=
  ⟨o.g.bits, o.reg.val, o.cls.bits, o.base.val, o.sp.toNat, o.idx.val, 0, o.imm.toNat⟩

/-! ### V slots (R93, R104, R195 to R220) -/

/-- What the DST field names. -/
inductive VDst where
  | none | reg | even | mask | q
  deriving DecidableEq, Repr

/-- What the SA field names. -/
inductive VSrcA where
  | none | src | mask
  deriving DecidableEq, Repr

/-- What the SB field names: `scale` a source for FUNC below 8 and a ring otherwise; `shuf` a source unless FUNC is
4; `notMask` a mask unless FUNC is 3; `part` VCVT's part; `shift` a shift count; `planes` VUNPKP's plane count. -/
inductive VSrcB where
  | none | src | mask | imm | scale | shuf | notMask | part | shift | planes
  deriving DecidableEq, Repr

/-- The fields a V operation uses, with the sets of its ETYPE and FUNC values; a set of none means the field is unused. -/
structure VUse where
  etys : Nat := 0
  funcs : Nat := 0
  mask : Bool := true
  mz : Bool := true
  d : VDst := .reg
  nd : Bool := true
  a : VSrcA := .src
  b : VSrcB := .none
  c : Bool := false
  rm : Bool := false
  wide : Bool := false
  deriving DecidableEq, Repr

structure VFields where
  guard : Nat
  mask : Nat
  mz : Nat
  dst : Nat
  nd : Nat
  sa : Nat
  sb : Nat
  sc : Nat
  tag : Nat
  etype : Nat
  rm : Nat
  func : Nat
  deriving DecidableEq, Repr

def VFields.ofWord (w : Nat) : VFields :=
  ⟨field w 8 5, field w 13 3, field w 16 1, field w 17 6, field w 23 1, field w 24 6, field w 30 6, field w 36 6,
    field w 42 4, field w 46 3, field w 49 3, field w 52 4⟩

def VFields.word (opc : Nat) (f : VFields) : Nat :=
  opc + 2 ^ 8 * (f.guard + 2 ^ 5 * (f.mask + 2 ^ 3 * (f.mz + 2 * (f.dst + 2 ^ 6 * (f.nd + 2 * (f.sa + 2 ^ 6 *
    (f.sb + 2 ^ 6 * (f.sc + 2 ^ 6 * (f.tag + 2 ^ 4 * (f.etype + 2 ^ 3 * (f.rm + 2 ^ 3 * f.func)))))))))))

/-- The ETYPE codes (R52, R195). -/
def ETy.ofBits (n : Nat) : ETy :=
  match n with
  | 0 => .i8 | 1 => .i16 | 2 => .i32 | 3 => .bf16 | 4 => .fp16 | 5 => .fp32 | 6 => .e4m3 | _ => .e5m2

def ETy.code : ETy → Nat
  | .i8 => 0 | .i16 => 1 | .i32 => 2 | .bf16 => 3 | .fp16 => 4 | .fp32 => 5 | .e4m3 => 6 | .e5m2 => 7

/-- The element width in bytes (R195). -/
def ETy.width : ETy → Nat
  | .i8 => 1 | .i16 => 2 | .i32 => 4 | .bf16 => 2 | .fp16 => 2 | .fp32 => 4 | .e4m3 => 1 | .e5m2 => 1

/-- The RM codes (R60); 5 to 7 are reserved. -/
def RMode.ofBits (n : Nat) : RMode :=
  match n with
  | 0 => .rne | 1 => .rtz | 2 => .rdn | 3 => .rup | _ => .sr

def RMode.bits : RMode → Nat
  | .rne => 0 | .rtz => 1 | .rdn => 2 | .rup => 3 | .sr => 4

def etInt : Nat := 0b00000111
def etFp : Nat := 0b00111000
def etNum : Nat := 0b00111111
def etAny : Nat := 0b11111111

def vInt2 (funcs : Nat) : VUse := { etys := etInt, funcs := funcs, b := .src }
def vInt1 : VUse := { etys := etInt, funcs := 1 }
def vFp2 : VUse := { etys := etFp, b := .src, rm := true }
def vFp1 : VUse := { etys := etFp }

/-- The V opcode map (R104). `funcs` is 0 where the entry gives FUNC no code, as with the floating-point operations of R206
and VAMAX; VRSUM, VRMAX and VSCAN use RM with an integer type too (R215; DEDUCED, log 109). -/
def vRow (opc : Nat) : Option (VUse × (VOp → Instr)) :=
  match opc with
  | 0x01 => some (vInt2 1, .vadd) | 0x02 => some (vInt2 1, .vsub) | 0x03 => some (vInt2 1, .vmul)
  | 0x04 => some (vInt2 3, .vmulh) | 0x05 => some ({ vInt2 1 with c := true }, .vmac)
  | 0x06 => some ({ vInt2 1 with etys := 3, d := .even, nd := false, mz := false }, .vmacw)
  | 0x07 => some (vInt1, .vabs) | 0x08 => some (vInt1, .vneg)
  | 0x09 => some (vInt2 3, .vmin) | 0x0A => some (vInt2 3, .vmax) | 0x0B => some (vInt2 3, .vadds)
  | 0x0C => some (vInt2 3, .vsubs) | 0x0D => some (vInt2 3, .vavg)
  | 0x10 => some (vInt2 1, .vand) | 0x11 => some (vInt2 1, .vor) | 0x12 => some (vInt2 1, .vxor)
  | 0x13 => some ({ vInt1 with funcs := 0 }, .vnot)
  | 0x14 => some (vInt2 1, .vshl) | 0x15 => some (vInt2 1, .vshr) | 0x16 => some (vInt2 1, .vsha)
  | 0x17 => some ({ vInt2 7 with b := .shift }, .vshli)
  | 0x18 => some (vInt2 1, .vclmul) | 0x19 => some (vInt2 1, .vclmulh)
  | 0x1A => some ({ vInt1 with funcs := 0 }, .vpopc) | 0x1B => some ({ vInt1 with funcs := 0 }, .vclz)
  | 0x20 => some (vFp2, .vfadd) | 0x21 => some (vFp2, .vfsub) | 0x22 => some (vFp2, .vfmul)
  | 0x23 => some ({ vFp2 with c := true }, .vfma)
  | 0x24 => some ({ vFp2 with rm := false }, .vfmin) | 0x25 => some ({ vFp2 with rm := false }, .vfmax)
  | 0x26 => some (vFp1, .vfabs) | 0x27 => some (vFp1, .vfneg)
  | 0x28 => some (vFp1, .vexp2) | 0x29 => some (vFp1, .vrcp) | 0x2A => some (vFp1, .vrsq)
  | 0x2B => some ({ etys := etFp, funcs := 0x1F, d := .mask, nd := false, b := .src }, .vfcmp)
  | 0x2C => some ({ etys := etInt, funcs := 0x3F, d := .mask, nd := false, b := .src }, .vicmp)
  | 0x30 => some ({ etys := etAny, funcs := 0x1FF, b := .part, rm := true }, .vcvt)
  | 0x31 => some ({ etys := 1, funcs := 0xFFFF, mask := false, mz := false }, .vpackp)
  | 0x32 => some ({ funcs := 0xFFFF, b := .planes }, .vunpkp)
  | 0x33 => some ({ etys := etFp, funcs := 0xF903, b := .scale, rm := true }, .vscale)
  | 0x34 => some ({ etys := etAny, mz := false, d := .none, nd := false, b := .imm }, .vamax)
  | 0x38 => some ({ etys := etNum, funcs := 1, mz := false, rm := true }, .vrsum)
  | 0x39 => some ({ etys := etNum, funcs := 3, mz := false, rm := true }, .vrmax)
  | 0x3A => some (vInt2 1, .vperm)
  | 0x3B => some ({ etys := etInt, funcs := 0x1F, b := .shuf }, .vshuf)
  | 0x3C => some (vInt2 1, .vbcast)
  | 0x3D => some ({ etys := etInt, funcs := 3, b := .imm }, .vslide)
  | 0x3E => some ({ etys := etNum, funcs := 3, rm := true }, .vscan)
  | 0x3F => some ({ vInt1 with mz := false }, .vcomp)
  | 0x40 => some ({ etys := etAny, mz := false, b := .src }, .vsel)
  | 0x41 => some ({ funcs := 0xF, mask := false, mz := false, d := .mask, nd := false, a := .mask, b := .notMask }, .mand)
  | 0x42 => some ({ etys := etAny, mask := false, mz := false, a := .mask }, .mpopc)
  | 0x43 => some ({ etys := etAny, funcs := 3, mask := false, mz := false, d := .q, nd := false, a := .mask }, .many)
  | 0x48 => some ({ etys := 0b100100, funcs := 0xFFFF }, .acrd)
  | 0x49 => some ({ etys := 0b100100, funcs := 0xFFFF, mz := false, d := .none, nd := false, b := .src }, .acwr)
  | 0x4A => some ({ etys := etAny, funcs := 0xFFFF, b := .src, rm := true }, .acrdc)
  | 0x50 => some ({ etys := etAny, funcs := 3, mask := false, mz := false, d := .none, nd := false, a := .mask }, .tcqw)
  | 0x58 => some ({ etys := etAny }, .vmov)
  | 0x59 => some ({ etys := etAny, a := .none, b := .imm, wide := true }, .vli)
  | 0x5A => some ({ etys := etAny, funcs := 1, nd := false }, .vcopyx)
  | 0x5B => some ({ etys := etInt, a := .none }, .vidx)
  | _ => none

/-- Whether the SB field holds an immediate. -/
def VSrcB.isImm (b : VSrcB) (func : Nat) : Bool :=
  match b with
  | .imm | .part | .shift | .planes => true
  | .scale => func ≥ 8
  | _ => false

/-- Whether the SB field names a source register, a latch or zero. -/
def VSrcB.isSrc (b : VSrcB) (func : Nat) : Bool :=
  match b with
  | .src => true
  | .scale => func < 8
  | .shuf => func != 4
  | _ => false

/-- Whether the SB field names a mask. -/
def VSrcB.isMask (b : VSrcB) (func : Nat) : Bool :=
  match b with
  | .mask => true
  | .notMask => func != 3
  | _ => false

def vBuild (u : VUse) (second : Bool) (f : VFields) : VOp :=
  { second := second, g := Guard.ofBits f.guard, mask := Fin.ofNat 8 f.mask, mz := f.mz == 1
    d := Fin.ofNat 32 f.dst, nd := f.nd == 1
    a := if u.wide then .reg 0 else Src.ofBits f.sa
    b := if u.b.isImm f.func then .reg 0 else Src.ofBits f.sb
    c := Src.ofBits f.sc
    imm := if u.wide then BitVec.ofNat 16 (f.sa + 2 ^ 6 * (f.sb + 2 ^ 6 * f.func))
      else if u.b.isImm f.func then BitVec.ofNat 16 f.sb else 0
    tag := Fin.ofNat 16 f.tag, ety := ETy.ofBits f.etype, rm := RMode.ofBits f.rm
    func := if u.wide then 0 else Fin.ofNat 16 f.func }

/-- The reserved values the operands cannot hold (R96 to R98, R60). -/
def vRawReserved (u : VUse) (f : VFields) : Bool :=
  guardBad f.guard || f.dst ≥ 32 || f.rm ≥ 5 || f.sc ≥ 37 || (!u.wide && f.sa ≥ 37)
    || (!u.b.isImm f.func && f.sb ≥ 37)

/-- The width in bits of VCVT's types, E2M1 being 8 (R211). -/
def cvtWidth (n : Nat) : Nat := if n = 8 then 4 else 8 * (ETy.ofBits n).width

/-- Unassigned ETYPE and FUNC values (R93, R107, R211, R215). -/
def vIllegal (u : VUse) (opc : Nat) (o : VOp) : Bool :=
  (u.etys != 0 && !inSet u.etys o.ety.code) || (u.funcs != 0 && !inSet u.funcs o.func.val)
    || (opc == 0x30 && o.func.val == o.ety.code)
    || ((opc == 0x39 || opc == 0x3E) && o.func.val == 1 && o.ety.code ≥ 3)

/-- The reserved values of R97 and of the entries. ETYPE of MAND and VUNPKP is among them, and so is a FUNC that is only said
to be 0 (DEDUCED, log 109). -/
def vReserved (u : VUse) (opc : Nat) (o : VOp) : Bool :=
  (o.nd && o.d != 0) || (!u.nd && o.nd)
    || (u.etys == 0 && o.ety != .i8) || (u.funcs == 0 && o.func != 0)
    || (!u.mask && o.mask != 0) || (!u.mz && o.mz) || (!u.rm && o.rm != .rne)
    || (match u.d with
      | .none => o.d != 0
      | .reg => false
      | .even => o.d.val % 2 == 1
      | .mask => o.d.val == 0 || o.d.val ≥ 8
      | .q => o.d.val ≥ 8)
    || (match u.a with
      | .none => o.a != .reg 0
      | .src => false
      | .mask => match o.a with
        | .reg r => r.val ≥ 8
        | _ => true)
    || (if u.b.isSrc o.func.val then false
      else if u.b.isMask o.func.val then match o.b with
        | .reg r => r.val ≥ 8
        | _ => true
      else o.b != .reg 0)
    || (if u.c then match o.c with
        | .reg _ => true
        | _ => false
      else o.c != .reg 0)
    || (if u.wide then false
      else if u.b.isImm o.func.val then o.imm.toNat ≥ 64
      else o.imm != 0)
    || (match u.b with
      | .part => o.imm.toNat ≥ Nat.max (cvtWidth o.ety.code) (cvtWidth o.func.val)
          / Nat.min (cvtWidth o.ety.code) (cvtWidth o.func.val)
      | .shift => o.imm.toNat ≥ 8 * o.ety.width
      | .planes => o.func.val ≥ 8 || o.imm.toNat > o.func.val
      | _ => false)
    || (opc == 0x31 && o.func.val ≥ 8)

/-- The bank rule (R100), over mask numbers for MAND (R217). -/
def vBank (u : VUse) (o : VOp) : Bool :=
  (u.b.isSrc o.func.val || u.b.isMask o.func.val) && bankClash o.a o.b

def vFields (u : VUse) (o : VOp) : VFields :=
  { guard := o.g.bits, mask := o.mask.val, mz := o.mz.toNat, dst := o.d.val, nd := o.nd.toNat
    sa := if u.wide then o.imm.toNat % 2 ^ 6 else o.a.bits
    sb := if u.wide then o.imm.toNat / 2 ^ 6 % 2 ^ 6 else if u.b.isImm o.func.val then o.imm.toNat else o.b.bits
    sc := o.c.bits, tag := o.tag.val, etype := o.ety.code, rm := o.rm.bits
    func := if u.wide then o.imm.toNat / 2 ^ 12 else o.func.val }

/-! ### E slot (R94, R106, R248, R287, R309, R344, R364, R409) -/

/-- The fields an E command uses, with the bits of VAR and FUNC it may set. BOL and TAG are open to every command. -/
structure EUse where
  pa : Bool := false
  pb : Bool := false
  da : Bool := false
  db : Bool := false
  tm : Bool := false
  var : Nat := 0
  func : Nat := 0
  deriving DecidableEq, Repr

structure EFields where
  guard : Nat
  pa : Nat
  pb : Nat
  da : Nat
  db : Nat
  tm : Nat
  bol : Nat
  tag : Nat
  var : Nat
  func : Nat
  deriving DecidableEq, Repr

def EFields.ofWord (w : Nat) : EFields :=
  ⟨field w 8 5, field w 13 4, field w 17 4, field w 21 8, field w 29 8, field w 37 6, field w 43 6, field w 49 4,
    field w 53 3, field w 56 8⟩

def EFields.word (opc : Nat) (f : EFields) : Nat :=
  opc + 2 ^ 8 * (f.guard + 2 ^ 5 * (f.pa + 2 ^ 4 * (f.pb + 2 ^ 4 * (f.da + 2 ^ 8 * (f.db + 2 ^ 8 * (f.tm + 2 ^ 6 *
    (f.bol + 2 ^ 6 * (f.tag + 2 ^ 4 * (f.var + 2 ^ 3 * f.func)))))))))

/-- The E opcode map (R106): `func` tells apart the operations that share an OPC; none where OPC or the FUNC value is
unassigned (R107). -/
def eRow (opc func : Nat) : Option (EUse × (EOp → Instr)) :=
  match opc with
  | 0x01 => some ({ da := true, db := true, tm := true }, .cp)
  | 0x02 => some ({ da := true, db := true, tm := true, pb := true }, .cpmm)
  | 0x03 => some ({ da := true, db := true, tm := true, pa := true }, .cpg)
  | 0x04 => some ({ da := true, db := true, tm := true, pa := true }, .cps)
  | 0x05 => some ({ da := true, tm := true, pa := true }, .cpf)
  | 0x06 => some ({ da := true, db := true, tm := true, pa := true, pb := true, func := 0xFF }, .cph)
  | 0x07 => if inSet 0xF1 func then some ({ da := true, db := true, tm := true, func := 0xFF }, .cpr) else none
  | 0x08 => some ({ da := true, db := true, tm := true }, .cpt)
  | 0x10 => match func with
    | 0 => some ({ da := true, pa := true, tm := true }, .tmsetAdv)
    | 1 => some ({ tm := true, func := 1 }, .tmsetAbandon)
    | _ => none
  | 0x11 => some ({ tm := true }, .tmrst)
  | 0x12 => match func with
    | 0 => some ({ tm := true, pa := true }, .tmglbPub)
    | 1 => some ({ tm := true, pa := true, func := 1 }, .tmglbFol)
    | 2 => some ({ tm := true, func := 2 }, .tmglbUnb)
    | _ => none
  | 0x13 => match func with
    | 0 => some ({ tm := true, pa := true }, .tmq)
    | 1 => some ({ pa := true, pb := true, func := 1 }, .tmqGlb)
    | _ => none
  | 0x18 => some ({ da := true, tm := true, func := 0x7F }, .sbind)
  | 0x19 => some ({ func := 0x07 }, .sunb)
  | 0x1A => some ({ pa := true, func := 0x07 }, .sidx)
  | 0x20 => some ({ da := true, db := true, pa := true, var := 3, func := 0x1F }, .mma)
  | 0x21 => some ({ da := true, db := true, pa := true, pb := true, var := 3, func := 0x1F }, .mmas)
  | 0x22 => some ({ func := 0x1F }, .acz)
  | 0x23 => some ({ da := true, db := true, pa := true, pb := true, tm := true, var := 7, func := 0xFF }, .epi)
  | 0x24 => some ({ da := true, func := 0x03 }, .pjld)
  | 0x25 => if func / 8 % 2 = 0 then some ({ pa := true, pb := true, func := 0x07 }, .rteset)
    else some ({ func := 0x0F }, .rtesetClr)
  | 0x26 => if func % 2 = 0 then some ({ da := true, pa := true, tm := true }, .bthset)
    else some ({ da := true, tm := true, func := 0x01 }, .bthsetRel)
  | 0x27 => some ({ func := 0xFF }, .bthpop)
  | 0x30 => some ({ da := true, pa := true, func := 0x1F }, .tbld)
  | 0x31 => some ({ da := true, pa := true, func := 0x7F }, .tlk)
  | 0x33 => some ({ pa := true, func := 0x1F }, .tspl)
  | 0x34 => some ({ pa := true, func := 0x1F }, .tfil)
  | 0x35 => some ({ func := 0x7F }, .tinv)
  | 0x36 => some ({ pa := true }, .tstat)
  | 0x40 => some ({ da := true, db := true, pa := true, tm := true }, .pfxh)
  | 0x41 => some ({ db := true, pa := true }, .pfxm)
  | 0x42 => some ({ db := true, pa := true, pb := true }, .pfxi)
  | 0x43 => some ({ pa := true, pb := true }, .pgpin)
  | 0x44 => some ({ pa := true, pb := true }, .pgunp)
  | 0x45 => some ({ pa := true }, .pgfork)
  | 0x46 => match func % 4 with
    | 0 => some ({ pa := true, pb := true }, .pgmaskClr)
    | 1 => some ({ pa := true, pb := true, func := 3 }, .pgmaskSet)
    | 2 => some ({ pa := true, pb := true, func := 3 }, .pgmaskExport)
    | _ => none
  | 0x47 => some ({ pa := true }, .pgcmp)
  | 0x48 => some ({ pa := true, pb := true }, .pgalloc)
  | 0x49 => if func % 2 = 0 then some ({ pa := true, pb := true }, .pgfree)
    else some ({ pa := true, func := 1 }, .pgfreeReclaim)
  | 0x50 => some ({ da := true, db := true, pa := true, tm := true, func := 0x3F }, .cldef)
  | 0x51 => some ({ var := 3, func := 0x3F }, .clgo)
  | 0x52 => some ({ pa := true, func := 0x7F }, .clarm)
  | 0x53 => some ({ func := 0x3F }, .cldis)
  | 0x54 => some ({ pa := true, pb := true, func := 0x3F }, .mfpub)
  | 0x55 => if func / 64 % 2 = 0 then some ({ pa := true, func := 0x3F }, .clstat)
    else some ({ pa := true, func := 0x40 }, .clstatLink)
  | 0x56 => some ({ func := 0x3F }, .clcan)
  | 0x60 => some ({ pa := true, pb := true }, .spawn)
  | 0x61 => some ({ pa := true }, .depset)
  | 0x62 => some ({ pa := true }, .depdec)
  | 0x63 => if inSet 7 (func % 4) then some ({ pa := true, func := 3 }, .futw) else none
  | 0x64 => some ({ pa := true, pb := true }, .futr)
  | 0x65 => some ({ pa := true }, .launch)
  | 0x66 => some ({ pa := true }, .pilot)
  | 0x67 => some ({ pa := true }, .pnext)
  | 0x68 => some ({ pa := true, pb := true, func := 1 }, .dqpush)
  | _ => none

def eBuild (f : EFields) : EOp :=
  { g := Guard.ofBits f.guard, pa := Fin.ofNat 16 f.pa, pb := Fin.ofNat 16 f.pb, da := Fin.ofNat 256 f.da
    db := Fin.ofNat 256 f.db, tm := Fin.ofNat 64 f.tm, bol := Fin.ofNat 64 f.bol, tag := Fin.ofNat 16 f.tag
    var := Fin.ofNat 8 f.var, func := BitVec.ofNat 8 f.func }

/-- Unassigned VAR and FUNC sub-fields (R107, R287): DEC 3, MMAS with DEC other than 0, EPI with CLAMP 3. -/
def eIllegal (opc : Nat) (o : EOp) : Bool :=
  (opc == 0x20 && o.var.val % 4 == 3) || (opc == 0x21 && o.var.val % 4 != 0)
    || (opc == 0x23 && field o.func.toNat 4 2 == 3)

/-- The reserved values of R97 and of the entries; TM is unused by a read SBIND (R259, DEDUCED, log 13);
FUNC[6:5] of SBIND is used also with FUNC[4] = 0 (DEDUCED, log 109). -/
def eReserved (u : EUse) (opc : Nat) (o : EOp) : Bool :=
  (!u.pa && o.pa != 0) || (!u.pb && o.pb != 0) || (!u.da && o.da != 0) || (!u.db && o.db != 0)
    || (!u.tm && o.tm != 0) || outside o.var.val u.var || outside o.func.toNat u.func
    || (opc == 0x23 && (o.var.val ≥ 5 || (o.db != 0 && field o.func.toNat 6 1 == 0)
        || (o.pb != 0 && field o.func.toNat 4 2 != 2)))
    || (opc == 0x18 && field o.func.toNat 3 1 == 0 && o.tm != 0)
    || (opc == 0x35 && field o.func.toNat 5 1 == 1 && field o.func.toNat 0 5 != 0)

def eFields (o : EOp) : EFields :=
  ⟨o.g.bits, o.pa.val, o.pb.val, o.da.val, o.db.val, o.tm.val, o.bol.val, o.tag.val, o.var.val, o.func.toNat⟩

/-! ### B slot (R95, R105, R146 to R154) -/

/-- The fields a B operation uses: T, CK, and the bits of IMM17 it may set. -/
structure BUse where
  t : Bool := false
  ck : Bool := false
  imm : Nat := 0
  deriving DecidableEq, Repr

structure BFields where
  guard : Nat
  ck : Nat
  t : Nat
  imm : Nat
  deriving DecidableEq, Repr

def BFields.ofWord (w : Nat) : BFields := ⟨field w 6 5, field w 11 1, field w 12 3, field w 15 17⟩

def BFields.word (opc : Nat) (f : BFields) : Nat :=
  opc + 2 ^ 6 * (f.guard + 2 ^ 5 * (f.ck + 2 * (f.t + 2 ^ 3 * f.imm)))

/-- The B opcode map (R105); IMM17[16] tells the two forms of LPSET apart (R150). -/
def bRow (opc imm : Nat) : Option (BUse × (BOp → Instr)) :=
  match opc with
  | 0x01 => some ({ t := true, imm := 0x1F }, .prep)
  | 0x02 => some ({ t := true, imm := 0x1FFFF }, .prepi)
  | 0x03 => some ({ t := true, ck := true }, .go)
  | 0x04 => some ({ t := true, ck := true }, .call)
  | 0x05 => some ({ ck := true }, .ret)
  | 0x06 => some ({ t := true }, .loop)
  | 0x07 => if imm / 2 ^ 16 % 2 = 0 then some ({ imm := 0xFFFF }, .lpset) else some ({ imm := 0x1001F }, .lpsetReg)
  | 0x08 => some ({ ck := true, imm := 0xFF }, .trap)
  | 0x09 => some ({ ck := true }, .halt)
  | 0x0A => some ({ ck := true, imm := 0x3 }, .susp)
  | 0x0D => some ({ t := true }, .tcqgo)
  | 0x0E => some ({ imm := 0xF }, .rrb)
  | 0x0F => some ({ imm := 0x1 }, .faultret)
  | _ => none

def bBuild (f : BFields) : BOp :=
  { g := Guard.ofBits f.guard, ck := f.ck == 1, t := Fin.ofNat 8 f.t, imm := BitVec.ofNat 17 f.imm }

/-- SUSP's affinity 3 (R154). -/
def bIllegal (opc : Nat) (o : BOp) : Bool := opc == 0x0A && field o.imm.toNat 0 2 == 3

/-- The reserved values of R97, R146, R148, R150, R152, R153: with CK, the guard is present and IMM17[16] selects
the mask file. -/
def bReserved (u : BUse) (o : BOp) : Bool :=
  (!u.t && o.t != 0) || (!u.ck && o.ck) || (o.ck && o.g == .always)
    || outside o.imm.toNat (if o.ck then u.imm ||| 0x10000 else u.imm)

def bFields (o : BOp) : BFields := ⟨o.g.bits, o.ck.toNat, o.t.val, o.imm.toNat⟩

/-! ### Slots -/

/-- R101 step 5, within a slot: ILLEGAL_OP, then RESERVED_FIELD, then ILLEGAL_BANK. -/
def verdict (illegal reserved bank : Bool) (i : Instr) : Except FaultCode (Option Instr) :=
  if illegal then .error .illegalOp
  else if reserved then .error .reservedField
  else if bank then .error .illegalBank
  else .ok (some i)

def decodeS (second : Bool) (w : Nat) : Except FaultCode (Option Instr) :=
  let f := SFields.ofWord w
  match sRow (field w 0 8) with
  | none => .error .illegalOp
  | some (shape, c) =>
    let o := sBuild shape second f
    verdict (sRawIllegal shape f || sIllegal shape o) (sRawReserved shape f || sReserved shape o) (sBank shape o) (c o)

def decodeM (w : Nat) : Except FaultCode (Option Instr) :=
  let f := MFields.ofWord w
  let opc := field w 0 8
  match mRow opc with
  | none => .error .illegalOp
  | some (u, c) =>
    let o := mBuild f
    verdict (if f.cls ≥ 7 then mIllegal { u with regUsed := false } opc o else mIllegal u opc o)
      (mRawReserved f || mReserved u opc o) false (c o)

def decodeV (second : Bool) (w : Nat) : Except FaultCode (Option Instr) :=
  let f := VFields.ofWord w
  let opc := field w 0 8
  match vRow opc with
  | none => .error .illegalOp
  | some (u, c) =>
    let o := vBuild u second f
    verdict (vIllegal u opc o) (vRawReserved u f || vReserved u opc o) (vBank u o) (c o)

def decodeE (w : Nat) : Except FaultCode (Option Instr) :=
  let f := EFields.ofWord w
  let opc := field w 0 8
  match eRow opc f.func with
  | none => .error .illegalOp
  | some (u, c) =>
    let o := eBuild f
    verdict (eIllegal opc o) (guardBad f.guard || eReserved u opc o) false (c o)

def decodeB (w : Nat) : Except FaultCode (Option Instr) :=
  let f := BFields.ofWord w
  let opc := field w 0 6
  match bRow opc f.imm with
  | none => .error .illegalOp
  | some (u, c) =>
    let o := bBuild f
    verdict (bIllegal opc o) (guardBad f.guard || bReserved u o) false (c o)

/-- The width of a slot (R87). -/
def Slot.width : Slot → Nat
  | .s0 | .s1 | .m => 48
  | .v0 | .v1 => 56
  | .e => 64
  | .b => 32

/-- The low bit of a slot in its bundle (R87). -/
def Slot.low : Slot → Nat
  | .s0 => 32 | .s1 => 80 | .m => 128 | .v0 => 176 | .v1 => 232 | .e => 288 | .b => 352

/-- The width of OPC in a slot (R91 to R95). -/
def Slot.opcWidth : Slot → Nat
  | .b => 6
  | _ => 8

/-- Decodes the word of a slot (R90, R101): nothing for the NOP, an instruction, or the fault. -/
def decodeSlot (k : Slot) (w : Nat) : Except FaultCode (Option Instr) :=
  if w = 0 then .ok none
  else if field w 0 k.opcWidth = 0 then .error .reservedField
  else match k with
    | .s0 => decodeS false w
    | .s1 => decodeS true w
    | .m => decodeM w
    | .v0 => decodeV false w
    | .v1 => decodeV true w
    | .e => decodeE w
    | .b => decodeB w

/-- The instruction a slot word stands for, none for a NOP or a refused word. -/
def slotInstr (k : Slot) (w : Nat) : Option Instr :=
  match decodeSlot k w with
  | .ok r => r
  | .error _ => none

/-! ### Bundles -/

/-- The header of a bundle (R88). -/
structure Header where
  bol : Fin 64
  sop : Nat
  count : Nat
  yld : Bool
  mark : Bool
  vj : Bool
  ra : Nat
  fu : Nat
  deriving DecidableEq, Repr

/-- The header of a bundle word; its reserved values give RESERVED_FIELD (R88). -/
def decodeHeader (w : Nat) : Except FaultCode Header :=
  if field w 24 8 ≠ 0 ∨ field w 22 2 = 3 ∨ (field w 6 2 = 0 ∧ (field w 8 4 ≠ 0 ∨ field w 0 6 ≠ 0)) then
    .error .reservedField
  else .ok
    { bol := Fin.ofNat 64 (field w 0 6), sop := field w 6 2, count := field w 8 4 + 1, yld := field w 12 1 == 1
      mark := field w 13 1 == 1, vj := field w 14 1 == 1, ra := field w 15 7, fu := field w 22 2 }

/-- The slots in the order of R101 and R87. -/
def Slot.all : List Slot := [.s0, .s1, .m, .v0, .v1, .e, .b]

/-- The accumulator bank whose bundle port or command an instruction names (R14, R218, R287). -/
def Instr.bank? : Instr → Option Nat
  | .acrd o | .acwr o | .acrdc o => some o.func.val
  | .acz o | .epi o => some (o.func.toNat % 16)
  | _ => none

/-- A decoded bundle: the header and the words of the slots that hold an operation. -/
structure Bundle where
  hdr : Header
  ops : List (Slot × Nat × Instr)
  deriving DecidableEq, Repr

def slotWord (raw : Nat) (k : Slot) : Nat := field raw k.low k.width

/-- Whether a bundle's E slot holds FUTW while its B slot is not the NOP (R347). -/
def futwBad (raw : Nat) : Bool := field (slotWord raw .e) 0 8 == 0x63 && slotWord raw .b != 0

/-- Decodes slots in order; FUTW asks for a B slot with the NOP, which is an ILLEGAL_OP of its own slot (R101, R347). -/
def decodeSlots (raw : Nat) : List Slot → Except FaultCode (List (Slot × Nat × Instr))
  | [] => .ok []
  | k :: ks =>
    if k == .e && futwBad raw then .error .illegalOp
    else match decodeSlot k (slotWord raw k) with
    | .error c => .error c
    | .ok none => decodeSlots raw ks
    | .ok (some i) => match decodeSlots raw ks with
      | .error c => .error c
      | .ok r => .ok ((k, slotWord raw k, i) :: r)

/-- The bundle of 384 bits, or the first fault of steps 4 to 6 of R101. -/
def decodeBundle (raw : Nat) : Except FaultCode Bundle :=
  match decodeHeader (field raw 0 32) with
  | .error c => .error c
  | .ok h =>
    match decodeSlots raw Slot.all with
    | .error c => .error c
    | .ok ops =>
      if ((ops.filterMap fun p => p.2.2.bank?).Nodup : Bool) then .ok ⟨h, ops⟩ else .error .accBankConflict

/-! ### The encoder -/

/-- Where an instruction stands: a slot with its OPC and operands, or no slot (an event or an input). -/
inductive Form where
  | s (opc : Nat) (o : SOp)
  | m (opc : Nat) (o : MOp)
  | v (opc : Nat) (o : VOp)
  | e (opc : Nat) (o : EOp)
  | b (opc : Nat) (o : BOp)
  | event
  deriving DecidableEq, Repr

/-- The slot form of every instruction. -/
def Instr.form : Instr → Form
  | .bundleDispatch => .event | .codeFetch _ => .event | .headerWait _ _ => .event | .headerPost _ _ => .event
  | .yieldLeg => .event | .decouple => .event | .rejoin => .event | .storePerform _ => .event
  | .loadDataLand _ _ => .event | .xlateResult _ _ => .event | .pagerWaiterImageWrite _ => .event
  | .asyncFaultTaken => .event | .watchdog => .event | .headerWaitHaltTimeout => .event | .add o => .s 0x01 o
  | .sub o => .s 0x02 o | .addi o => .s 0x03 o | .mul o => .s 0x04 o | .mulh o => .s 0x05 o | .mulhu o => .s 0x06 o
  | .div o => .s 0x07 o | .divu o => .s 0x08 o | .rem o => .s 0x09 o | .remu o => .s 0x0A o | .and o => .s 0x10 o
  | .or o => .s 0x11 o | .xor o => .s 0x12 o | .andi o => .s 0x13 o | .ori o => .s 0x14 o | .xori o => .s 0x15 o
  | .shl o => .s 0x16 o | .shr o => .s 0x17 o | .sha o => .s 0x18 o | .shli o => .s 0x19 o | .shri o => .s 0x1A o
  | .shai o => .s 0x1B o | .min o => .s 0x20 o | .max o => .s 0x21 o | .minu o => .s 0x22 o | .maxu o => .s 0x23 o
  | .sel o => .s 0x24 o | .clz o => .s 0x25 o | .ctz o => .s 0x26 o | .popc o => .s 0x27 o | .bext o => .s 0x28 o
  | .bins o => .s 0x29 o | .clmul o => .s 0x2A o | .clmulh o => .s 0x2B o | .li o => .s 0x30 o | .lih o => .s 0x31 o
  | .lix o => .s 0x32 o | .cmp o => .s 0x38 o | .cmpi o => .s 0x39 o | .copy o => .s 0x40 o | .stat o => .s 0x41 o
  | .statw o => .s 0x42 o | .ldB o => .m 0x01 o | .ldBu o => .m 0x02 o | .ldH o => .m 0x03 o | .ldHu o => .m 0x04 o
  | .ldW o => .m 0x05 o | .ldWu o => .m 0x06 o | .ldD o => .m 0x07 o | .stB o => .m 0x09 o | .stH o => .m 0x0A o
  | .stW o => .m 0x0B o | .stD o => .m 0x0C o | .vld o => .m 0x10 o | .vst o => .m 0x11 o | .vlds o => .m 0x12 o
  | .vsts o => .m 0x13 o | .vldb o => .m 0x14 o | .xlate o => .m 0x18 o | .hrel o => .m 0x19 o | .hstat o => .m 0x1A o
  | .amo o => .m 0x20 o | .cas o => .m 0x21 o | .red o => .m 0x22 o | .vred o => .m 0x23 o | .fence o => .m 0x28 o
  | .rinv o => .m 0x29 o | .lrfence o => .m 0x2A o | .dictld o => .m 0x2B o | .bmwait o => .m 0x2C o
  | .bmset o => .m 0x2D o | .bldset o => .m 0x30 o | .bldrd o => .m 0x31 o | .bpost o => .m 0x32 o
  | .tmw o => .m 0x33 o | .sendh o => .m 0x38 o | .prep o => .b 0x01 o | .prepi o => .b 0x02 o | .go o => .b 0x03 o
  | .call o => .b 0x04 o | .ret o => .b 0x05 o | .loop o => .b 0x06 o | .lpset o => .b 0x07 o
  | .lpsetReg o => .b 0x07 o | .trap o => .b 0x08 o | .halt o => .b 0x09 o | .susp o => .b 0x0A o
  | .tcqgo o => .b 0x0D o | .rrb o => .b 0x0E o | .faultret o => .b 0x0F o | .vadd o => .v 0x01 o
  | .vsub o => .v 0x02 o | .vmul o => .v 0x03 o | .vmulh o => .v 0x04 o | .vmac o => .v 0x05 o | .vmacw o => .v 0x06 o
  | .vabs o => .v 0x07 o | .vneg o => .v 0x08 o | .vmin o => .v 0x09 o | .vmax o => .v 0x0A o | .vadds o => .v 0x0B o
  | .vsubs o => .v 0x0C o | .vavg o => .v 0x0D o | .vand o => .v 0x10 o | .vor o => .v 0x11 o | .vxor o => .v 0x12 o
  | .vnot o => .v 0x13 o | .vshl o => .v 0x14 o | .vshr o => .v 0x15 o | .vsha o => .v 0x16 o | .vshli o => .v 0x17 o
  | .vclmul o => .v 0x18 o | .vclmulh o => .v 0x19 o | .vpopc o => .v 0x1A o | .vclz o => .v 0x1B o
  | .vfadd o => .v 0x20 o | .vfsub o => .v 0x21 o | .vfmul o => .v 0x22 o | .vfma o => .v 0x23 o
  | .vfmin o => .v 0x24 o | .vfmax o => .v 0x25 o | .vfabs o => .v 0x26 o | .vfneg o => .v 0x27 o
  | .vexp2 o => .v 0x28 o | .vrcp o => .v 0x29 o | .vrsq o => .v 0x2A o | .vfcmp o => .v 0x2B o
  | .vicmp o => .v 0x2C o | .vcvt o => .v 0x30 o | .vpackp o => .v 0x31 o | .vunpkp o => .v 0x32 o
  | .vscale o => .v 0x33 o | .vamax o => .v 0x34 o | .vrsum o => .v 0x38 o | .vrmax o => .v 0x39 o
  | .vperm o => .v 0x3A o | .vshuf o => .v 0x3B o | .vbcast o => .v 0x3C o | .vslide o => .v 0x3D o
  | .vscan o => .v 0x3E o | .vcomp o => .v 0x3F o | .vsel o => .v 0x40 o | .mand o => .v 0x41 o
  | .mpopc o => .v 0x42 o | .many o => .v 0x43 o | .acrd o => .v 0x48 o | .acwr o => .v 0x49 o | .acrdc o => .v 0x4A o
  | .tcqw o => .v 0x50 o | .vmov o => .v 0x58 o | .vli o => .v 0x59 o | .vcopyx o => .v 0x5A o | .vidx o => .v 0x5B o
  | .streamReadElement _ _ => .event | .streamWriteElement _ _ => .event | .commandDockEntry _ => .event
  | .commandStart _ => .event | .commandComplete _ => .event | .craneBeatCommit _ => .event
  | .chaseCycleWalk _ => .event | .haltWaitRelease _ => .event | .globalFollowerUpdate _ _ => .event
  | .cp o => .e 0x01 o | .cpmm o => .e 0x02 o | .cpg o => .e 0x03 o | .cps o => .e 0x04 o | .cpf o => .e 0x05 o
  | .cph o => .e 0x06 o | .cpr o => .e 0x07 o | .cpt o => .e 0x08 o | .tmsetAdv o => .e 0x10 o
  | .tmsetAbandon o => .e 0x10 o | .tmrst o => .e 0x11 o | .tmglbPub o => .e 0x12 o | .tmglbFol o => .e 0x12 o
  | .tmglbUnb o => .e 0x12 o | .tmq o => .e 0x13 o | .tmqGlb o => .e 0x13 o | .sbind o => .e 0x18 o
  | .sunb o => .e 0x19 o | .sidx o => .e 0x1A o | .mma o => .e 0x20 o | .mmas o => .e 0x21 o
  | .mmaGroupStart _ => .event | .mmaKtileRetire _ => .event | .acz o => .e 0x22 o | .epi o => .e 0x23 o
  | .epiBeatCommit _ => .event | .pjld o => .e 0x24 o | .rteset o => .e 0x25 o | .rtesetClr o => .e 0x25 o
  | .bthset o => .e 0x26 o | .bthsetRel o => .e 0x26 o | .bthpop o => .e 0x27 o | .tbld o => .e 0x30 o
  | .tlk o => .e 0x31 o | .tspl o => .e 0x33 o | .tfil o => .e 0x34 o | .tinv o => .e 0x35 o | .tstat o => .e 0x36 o
  | .pfxh o => .e 0x40 o | .pfxm o => .e 0x41 o | .pfxi o => .e 0x42 o | .pgpin o => .e 0x43 o | .pgunp o => .e 0x44 o
  | .pgfork o => .e 0x45 o | .pgmaskClr o => .e 0x46 o | .pgmaskSet o => .e 0x46 o | .pgmaskExport o => .e 0x46 o
  | .pgcmp o => .e 0x47 o | .pgalloc o => .e 0x48 o | .pgfree o => .e 0x49 o | .pgfreeReclaim o => .e 0x49 o
  | .kvHomeStep _ _ => .event | .cldef o => .e 0x50 o | .clgo o => .e 0x51 o | .clarm o => .e 0x52 o
  | .cldis o => .e 0x53 o | .mfpub o => .e 0x54 o | .clstat o => .e 0x55 o | .clstatLink o => .e 0x55 o
  | .clcan o => .e 0x56 o | .clarmFiring _ => .event | .coderPacket _ => .event | .collectivePacketArrive _ => .event
  | .lighterDecode _ => .event | .nackArrive _ _ _ => .event | .holdingsArrive _ _ _ _ _ => .event
  | .digestArrive _ _ _ _ => .event | .completionReportArrive _ _ _ => .event | .cancelArrive _ _ _ => .event
  | .collectiveRefusal _ _ _ => .event | .credit _ => .event | .flitReceive _ _ _ => .event
  | .portStateChange _ _ _ => .event | .linkDown _ => .event | .endToEndReplay _ => .event
  | .memoryReductionApply _ => .event | .arrivalLanding _ => .event | .arrivalHandlerStart _ => .event
  | .arrivalRefusalReturn _ => .event | .spawn o => .e 0x60 o | .depset o => .e 0x61 o | .depdec o => .e 0x62 o
  | .depCounterApply _ => .event | .futw o => .e 0x63 o | .futr o => .e 0x64 o | .futureOpApply _ => .event
  | .launch o => .e 0x65 o | .pilot o => .e 0x66 o | .pnext o => .e 0x67 o | .dqpush o => .e 0x68 o
  | .queueTakeRecord _ => .event | .crewPlace _ _ _ => .event | .crewRetire _ => .event | .crewEnd _ => .event
  | .crewPreempt _ => .event | .crewRestore _ => .event | .recordPickup => .event | .quantumExpiry _ => .event
  | .energyWindow _ => .event | .systemEndStrand _ => .event | .systemResumeStrand _ => .event
  | .systemResumeCommand _ => .event | .pagerBatchClose => .event | .pagerLogDeliver => .event
  | .faultAnswerWrite _ _ => .event | .doorbellWrite _ _ => .event | .havenMaskWrite _ => .event
  | .fwlenWrite _ => .event | .firmwareCheck _ => .event | .functionReady _ _ => .event | .powerWake => .event
  | .clampWrite _ => .event | .bandThresholdWrite _ => .event | .thermalSample _ _ => .event | .clockStretch => .event
  | .railUndervoltage => .event | .ucieModuleFail _ => .event | .attestReqWrite _ => .event
  | .attestReportDone => .event | .bar0RegisterWrite _ _ _ => .event | .acknowledgementArrive _ => .event
  | .forkBlockSend _ => .event | .localCopyWrite _ => .event | .cxlMemAccess _ _ _ => .event
  | .poolEnable _ _ => .event | .recordCacheRefill _ _ => .event

/-- The word of an instruction in its slot; 0 for an instruction that stands in no slot. -/
def encode (i : Instr) : Nat :=
  match i.form with
  | .s opc o => match sRow opc with
    | some (shape, _) => (sFields shape o).word opc
    | none => 0
  | .m opc o => (mFields o).word opc
  | .v opc o => match vRow opc with
    | some (u, _) => (vFields u o).word opc
    | none => 0
  | .e opc o => (eFields o).word opc
  | .b opc o => (bFields o).word opc
  | .event => 0

/-- The slot of an instruction. -/
def Instr.slot? (i : Instr) : Option Slot :=
  match i.form with
  | .s _ o => some (if o.second then .s1 else .s0)
  | .m _ _ => some .m
  | .v _ o => some (if o.second then .v1 else .v0)
  | .e _ _ => some .e
  | .b _ _ => some .b
  | .event => none

/-- The slot whose words are `nbits` long, for a word that names no slot: S0 before M among the 48-bit slots. -/
def slotOfWidth (nbits w : Nat) : Option Slot :=
  match nbits with
  | 32 => some .b
  | 48 => if (slotInstr .s0 w).isSome then some .s0 else some .m
  | 56 => some .v0
  | 64 => some .e
  | _ => none

/-- The instruction the decoder reads from a slot word of `nbits` bits. The words of the opcode table that give an
instruction any bits are those of the B slot. -/
def decodeTableWord (nbits w : Nat) : Option Instr :=
  match slotOfWidth nbits w with
  | some k => slotInstr k w
  | none => none

end Sys2Proof
end

