-- ==== Sys2Proof/Machine/State.lean ====
section
/-! DEFINITION. The state of one Choique device (R12) as plain data: its 320 quays, the device-wide services, memory,
and the inputs that say which party moves next; the reasons a step can stop; and the state after reset. -/

namespace Sys2Proof.Machine

open Sys2Proof

/-- Why the machine stops with a fault of the model. The faults of the spec (R180) are taken and are next states. -/
inductive Fault where
  /-- Raised by `step` alone, when the device is off (R431: it keeps no state) and the next turn is no input of the
  power request. Safe: nothing runs on a device that is off. -/
  | deviceOff
  deriving DecidableEq, Repr

/-- Why a step has no meaning. -/
inductive Refusal where
  /-- Raised by an arm of `exec` whose instruction has no meaning yet. Safe. -/
  | notModelled (mnemonic : String)
  /-- Raised by `step` for a queued slot word that does not decode; a bundle with such a word is refused at its
  dispatch (R101), so no run reaches it. Safe. -/
  | undecodable
  deriving DecidableEq, Repr

/-! ### The context -/

/-- A handle register (R133, R134). `lastVa` is the address its last XLATE named. -/
structure Handle where
  valid : Bool := false
  pend : Bool := false
  page : Bool := false
  r : Bool := false
  w : Bool := false
  x : Bool := false
  size : Nat := 0
  ticket : Nat := 0
  pbase : Nat := 0
  vpage : Nat := 0
  lastVa : Word := 0
  deriving DecidableEq, Repr

/-- A bundle that a fetch read: its 384 bits, and whether it is a literal one. -/
structure Held where
  raw : BitVec 384
  lit : Bool
  deriving DecidableEq, Repr

/-- A target buffer (R148): its address and the first two bundles at it, as far as the fill could read them. -/
structure Target where
  filled : Bool := false
  addr : BitVec 32 := 0
  bundles : List Held := []
  deriving DecidableEq, Repr

/-- The rotating bases of the x, y, v and w files (R151). -/
structure Bases where
  x : BitVec 4 := 0
  y : BitVec 4 := 0
  v : BitVec 4 := 0
  w : BitVec 4 := 0
  deriving DecidableEq, Repr

/-- The part of a context that a restart mark shadows (R165). -/
structure Shadowed where
  x : Vector Word 32 := Vector.replicate 32 0
  y : Vector Word 32 := Vector.replicate 32 0
  a : Vector Word 16 := Vector.replicate 16 0
  e : Vector Word 16 := Vector.replicate 16 0
  h : Vector Handle 16 := Vector.replicate 16 {}
  q : Vector Bool 8 := Vector.replicate 8 false
  lc : BitVec 32 := 0
  bases : Bases := {}
  srseed : BitVec 32 := 0
  dictsel : BitVec 2 := 0
  targets : Vector Target 8 := Vector.replicate 8 {}
  ret : List (BitVec 32) := []
  tcq : List Bool := []
  tcqHead : Nat := 0
  skewLeft : Nat := 1
  tags : BitVec 16 := 0
  seen : Vector (BitVec 16) 64 := Vector.replicate 64 0
  streamPos : Vector Nat 8 := Vector.replicate 8 0
  deriving DecidableEq, Repr

/-- A layout record, parsed (R224). -/
structure Layout where
  base : Nat := 0
  scale : Nat := 0xFFFF
  tm : Nat := 0xFF
  ring : Nat := 0xFF
  gran : Nat := 0
  dir : Nat := 0
  perm : Nat := 0
  rank : Nat := 1
  swz : Bool := false
  sp : Bool := false
  pread : Nat := 0
  pstore : Nat := 0
  fmt : Nat := 0
  ext : List Nat := []
  stride : List Int := []
  deriving DecidableEq, Repr

/-- A stream register's binding (R200, R259 to R262). `buf` holds the elements read ahead, `out` the elements accepted
and not yet written, each with its byte mask; `written` counts the elements written. -/
structure Stream where
  bound : Bool := false
  write : Bool := false
  indirect : Bool := false
  table : Bool := false
  dIdx : Nat := 0
  dim : Nat := 0
  tm : Nat := 0
  count : Nat := 0
  tabOff : Nat := 0
  tabCnt : Nat := 0
  bindPc : BitVec 32 := 0
  seq : Nat := 0
  inForce : Nat := 0
  layout : Layout := {}
  buf : List VWord := []
  out : List (Nat × VWord × MaskWord) := []
  written : Nat := 0
  deriving DecidableEq, Repr

/-- One register, by file and physical number. -/
inductive RegId where
  | x (r : Fin 32) | y (r : Fin 32) | a (r : Fin 16) | e (r : Fin 16) | v (r : Fin 32) | w (r : Fin 32)
  | q (r : Fin 8) | k (r : Fin 8) | g (r : Fin 8)
  deriving DecidableEq, Repr

/-- A register write on its way (R116): visible to its own slot from bundle index `own`, to every other from `other`.
`homed` tells a write of the file's own slot from a copy-class write (R118); `bytes` masks the bytes it writes. -/
structure PendWrite where
  reg : RegId
  val : VWord
  own : Nat
  other : Nat
  slot : Slot
  issued : Nat
  homed : Bool
  deriving DecidableEq, Repr

/-- An effect that lands at a bundle index: a push into a scale ring (R214), with the quay cycle in which it lands, the
bank write of an ACWR (R218), a STATW (R129), the flags of a vector operation (R67), or an entry of the tile condition
queue (R219). `bankOld` keeps the words that an ACWR replaced when a command's start landed it early (R275): the context
reads them until its bundle. -/
inductive Effect where
  | push (ring : Nat) (v : BitVec 32) (cycle : Nat)
  | bank (b : Nat) (cells : List (Nat × BitVec 32))
  | bankOld (b : Nat) (cells : List (Nat × BitVec 32))
  | statw (num : Nat) (v : Word)
  | flags (f : BitVec 5)
  | tcq (b : Bool)
  deriving DecidableEq, Repr

/-- An effect on its way; it lands before the reads of bundle index `land`. -/
structure PendEffect where
  land : Nat
  what : Effect
  deriving DecidableEq, Repr

/-- A result held for the latches of its slot (R99). -/
structure LatchEntry where
  slot : Slot
  issued : Nat
  lat : Nat
  val : VWord
  deriving DecidableEq, Repr

/-- Where an access lands: a quay's scratchpad by absolute linear offset, or a physical address. -/
inductive Loc where
  | sp (off : Nat)
  | phys (addr : Nat)
  deriving DecidableEq, Repr

/-- What a gated or drained store does when it performs. -/
inductive StoreKind where
  | bytes (cells : List (Loc × Byte))
  | reduce (op : RedOp) (ty : RedTy) (elems : List (Loc × BitVec 64))
  | sendh (l : Landing) (dev : Nat)
  deriving DecidableEq, Repr

/-- A store of the M slot (R32): gated until its drain, then drained until it performs. `owner` is its strand, `age`
orders it among loads, `hd` is its handle (R192). -/
structure GStore where
  ctx : Fin 8
  owner : Nat := 0
  kind : StoreKind
  bidx : Nat
  age : Nat
  hd : Nat := 0
  deriving DecidableEq, Repr

/-- How a scoreboarded load forms its register value. -/
inductive LoadForm where
  | sext (n : Nat) | zext (n : Nat) | vec | bcast | strided (size : Nat) | value (v : VWord) | tm (q t k : Nat)
  deriving DecidableEq, Repr

/-- An outstanding scoreboarded load, AMO or CAS (R135, R137, R162), or a TMW that waits for tm`t` of quay `q` to pass `k`
(R143), which is not counted. `va`, `hd` and `opc` are its virtual address, its handle and its opcode (R192), `sentAt` the quay cycle at
which its request left (R386), `floor` the floor of its memory in cycles (R338), `pc` and `lit` its bundle. -/
structure OLoad where
  reg : RegId
  form : LoadForm
  locs : List Loc
  bidx : Nat
  age : Nat
  counted : Bool := true
  discard : Bool := false
  va : Word := 0
  hd : Nat := 0
  opc : Nat := 0
  sentAt : Nat := 0
  floor : Nat := 0
  pc : BitVec 32 := 0
  lit : Bool := false
  deriving DecidableEq, Repr

/-- An XLATE whose 32 cycles have not passed (R133); `cycle` is the quay cycle of its issue. -/
structure PendXlate where
  h : Fin 16
  va : Word
  bidx : Nat
  cycle : Nat
  deriving DecidableEq, Repr

/-- What an entry of the slot queues holds: a slot word, or a header action of the bundle. -/
inductive QItem where
  | slot (k : Slot) (w : Nat)
  | event (i : Instr)
  deriving DecidableEq, Repr

/-- An entry of a context's slot queues (R159, R192): its bundle index, its place among the actions of the bundle, the
bundle's address and length, and the rotating bases in force at it (R151). -/
structure QEntry where
  what : QItem
  idx : Nat := 0
  pos : Nat := 0
  pc : BitVec 32 := 0
  lit : Bool := false
  bases : Bases := {}
  deriving DecidableEq, Repr

/-- The states of a context (R155). -/
inductive CtxState where
  | dormant | ready | active | waiting | parked | faulted
  deriving DecidableEq, Repr

/-- What a rolled-back strand waits for: the future of its fault, by the fault's number, or a tidemark in HALT. -/
inductive WaitOn where
  | page (slice page id : Nat)
  | tidemark (quay tm : Nat)
  | nothing
  deriving DecidableEq, Repr

/-- An asynchronous fault reported to its strand and not yet taken (R183). -/
structure AsyncFault where
  code : FaultCode
  tm : Nat
  pc : BitVec 32
  index : BitVec 32
  origin : Nat
  deriving DecidableEq, Repr

/-- One of the eight contexts of a quay. `queue` holds the entries of the seven slot queues in program order; `bidx`,
`curPc`, `curLit`, `curBases` and `curPos` are those of the entry that runs, `lastIdx`, `lastPc` and `lastLit` the bundle
dispatched last; `ran` lists the slots that have begun, or tried to begin, an operation in this cycle, `realigns` the
realignment points that stand in the queues (R160), `held` the bundles that a transfer took from its target buffer, with
their addresses; `entry` is the shadowed state as it stood before the bundle of index `entryIdx`. `waitCycles` is the quay
cycle after the one at which its header wait began, 0 without a wait; `tagUsed` the quay cycle and the tag at which a V
operation last began (R161); `born` tells the strand from every other; `joinAge` is the age of its last view join, whose
earlier stores its streams read (R48). `waitHd` is the handle through which its translation
fault came, `answered` that the pager has answered it with Mapped, `served` the tickets of that answer (R174), `parkCode`
the fault code of its rollback (R170); `futw` is the issue sequence number and the affinity of a FUTW of the current bundle
(R347). -/
structure Context where
  st : CtxState := .dormant
  regs : Shadowed := {}
  shadow : Shadowed := {}
  entry : Shadowed := {}
  v : Vector VWord 32 := Vector.replicate 32 0
  w : Vector VWord 32 := Vector.replicate 32 0
  k : Vector MaskWord 8 := Vector.replicate 8 0
  g : Vector MaskWord 8 := Vector.replicate 8 0
  streams : Vector Stream 8 := Vector.replicate 8 {}
  pc : BitVec 32 := 0
  curPc : BitVec 32 := 0
  curLit : Bool := false
  bidx : Nat := 0
  curBases : Bases := {}
  curPos : Nat := 0
  lastIdx : Nat := 0
  lastPc : BitVec 32 := 0
  lastLit : Bool := false
  queue : List QEntry := []
  ran : List Nat := []
  realigns : List (Nat × BitVec 7) := []
  held : List (BitVec 32 × Held) := []
  entryIdx : Nat := 0
  lines : List (Nat × BitVec 512) := []
  seqEnd : Bool := false
  legStart : Bool := true
  pend : List PendWrite := []
  effects : List PendEffect := []
  latches : List LatchEntry := []
  loads : List OLoad := []
  xlates : List PendXlate := []
  gated : List GStore := []
  mark : BitVec 32 := 0
  markIdx : Nat := 0
  waitCycles : Nat := 0
  wdCount : Nat := 0
  fpflags : BitVec 5 := 0
  cwcol : BitVec 7 := 0
  fault : BitVec 32 := 0
  faultPc : BitVec 32 := 0
  faultVa : Word := 0
  vecEn : Bool := false
  vecPc : BitVec 32 := 0
  handler : Bool := false
  wdlimit : BitVec 32 := 0x01000000
  tcqskew : BitVec 4 := 1
  det : Bool := false
  win : Word := 0
  reservedBy : Option Nat := none
  crew : Option Nat := none
  strand : Nat := 0
  slice : Nat := 0
  cb : Nat := 0
  spBase : Nat := 0
  spSize : Nat := 0
  energy : Nat := 0
  lastAff : Nat := 0
  asyncs : List AsyncFault := []
  waitOn : WaitOn := .nothing
  waitHd : Option (Fin 16) := none
  answered : Bool := false
  served : List Nat := []
  parkCode : Nat := 0
  dictMismatch : Bool := false
  dictRefill : Bool := false
  futw : Option (Nat × Nat) := none
  tagUsed : Option (Nat × Fin 16) := none
  born : Nat := 0
  joinAge : Nat := 0
  deriving DecidableEq, Repr

/-! ### Quay engines -/

/-- The states of a tidemark (R230). -/
inductive TmState where
  | idle | run | halt | done | abandon
  deriving DecidableEq, Repr

/-- Whose run a tidemark holds: a command's of the quay, by issue sequence number, or a generation of a collective slot. -/
inductive TmWriter where
  | command (seq : Nat)
  | collective (slot gen : Nat)
  deriving DecidableEq, Repr

/-- An entry of the tidemark table (R230), with its writer's record; `crew` is whose run or binding it holds, `writer` whose run it
is. -/
structure Tidemark where
  value : Nat := 0
  st : TmState := .idle
  wop : Nat := 0
  wctx : Nat := 0
  wrec : Nat := 0
  chasers : Nat := 0
  fcode : Nat := 0
  findex : Nat := 0
  gidx : Nat := 0
  pub : Bool := false
  fol : Bool := false
  fdev : Nat := 0
  endv : Nat := 0
  layout : Option Layout := none
  broken : Bool := false
  crew : Option Nat := none
  writer : Option TmWriter := none
  deriving DecidableEq, Repr

/-- A command attached to a bollard by CLARM, with the strand that armed it (R400); `first` is the number of the flip of its
oldest pending firing. -/
structure Attach where
  op : Instr
  once : Bool
  ctx : Fin 8
  pc : BitVec 32
  pa : Word
  pb : Word
  pending : Nat
  first : Nat := 0
  born : Nat
  seed : BitVec 32
  crew : Option Nat
  slice : Nat
  spBase : Nat
  spSize : Nat
  strand : Nat
  deriving DecidableEq, Repr

/-- A bollard (R141): `thr` is 1 to 65,536; `crew` binds it to a crew bollard, by crew id and number; `flips` numbers the flips
that triggered its attached commands (R400). -/
structure Bollard where
  thr : Nat := 1
  cnt : Nat := 0
  gen : BitVec 16 := 0
  crew : Option (Nat × Nat) := none
  armed : List Attach := []
  flips : Nat := 0
  deriving DecidableEq, Repr

/-- An accumulator bank (R273): words by 96 m + n; `int32` is its TYPE. -/
structure Bank where
  int32 : Bool := false
  words : Sparse (BitVec 32) := []
  deriving DecidableEq, Repr

/-- A berth (R247, R283). `ready` lists tiles written whole, with their elements, that the tail has not reached;
`popped` tiles whose pop waits for an earlier one, `setBy` the BTHSET that took its tail. -/
structure Berth where
  placed : Bool := false
  tail : Nat := 0
  base : Nat := 0
  slotSize : Nat := 0
  slots : Nat := 0
  tile : Nat := 0
  w : Nat := 0
  c : Nat := 0
  h : Nat := 0
  layout : Layout := {}
  ready : List (Nat × Nat) := []
  popped : List Nat := []
  setBy : Option TmWriter := none
  deriving DecidableEq, Repr

/-- A routing register (R292). -/
structure Route where
  dev : Nat
  quay : Nat
  base : Nat
  h : Bool
  pc : BitVec 32
  x3 : BitVec 32
  deriving DecidableEq, Repr

/-- A projection register (R276): P[r][k] at index r·d + k. -/
structure Proj where
  loaded : Bool := false
  r : Nat := 0
  d : Nat := 0
  words : Sparse (BitVec 16) := []
  deriving DecidableEq, Repr

/-- The watch range of a table register (R303). -/
inductive WatchRange where
  | none
  | rows (first last : Nat)
  | lines (first last : Nat)
  deriving DecidableEq, Repr

/-- A table register (R296): entry c of group j at index 16 j + c. `dirty` tells that a watched write touched the range
during a build. -/
structure TabReg where
  filled : Bool := false
  valid : Bool := false
  armed : Bool := false
  gen : BitVec 32 := 0
  src : Nat := 0
  kb : Nat := 0
  groups : Nat := 0
  raw : BitVec 512 := 0
  range : WatchRange := .none
  entries : Sparse (BitVec 32) := []
  dirty : Bool := false
  deriving DecidableEq, Repr

/-- A scale ring (R70). -/
structure Ring where
  entries : Vector (BitVec 32) 16 := Vector.replicate 16 0
  ptr : Nat := 0
  count : Nat := 0
  deriving DecidableEq, Repr

/-- The life of an issued command (R238 to R240). -/
inductive Phase where
  | issued | waiting | running | halted | pageWait
  deriving DecidableEq, Repr

/-- Where a strand is (R67, R183): in a context, as a pager waiter in an image, or in neither. -/
inductive Place where
  | ctx (quay : Nat) (c : Fin 8)
  | image (n : Nat)
  | gone
  deriving DecidableEq, Repr

/-- A beat sent to another home or quay and not acknowledged: its first walk index, the one behind its last, the quay cycle
at which it left and the floor of its way (R338). -/
structure Beat where
  first : Nat
  upto : Nat
  sentAt : Nat
  floor : Nat := 0
  deriving DecidableEq, Repr

/-- A dock entry (R193, R238). `owner` is the strand that issued it, by `Context.born`; `untagged` tells that the strand
has halted or suspended since, so that its tag is not set (R175). `waited` is the quay cycle of its last progress, `walkAt`
after how many cycles from it its chain is walked next, none once a walk has returned (R241); `rank` its place among dock
entries in order of entry (R274), 0 before it; `taken` tells that it took its tidemark, `performed` that its effect has
been performed; `tailBase` is the tail index of its berth tile, `words` what its engine keeps between steps; `bidx` is the
index of the bundle that issued it, `readyAt` the quay cycle from which it may start (R228), `berth` the berth it writes;
`flight` lists the beats in flight, `attempt` counts its refusals (R17), `arrive` is the cycle in which a KV command
reaches its engine, seven to a tick of the reference (R374; log 51), `sendId` the quay and the number under which its landing
began (R17), `reqAt` the quay cycle of a read request whose data deterministic mode still holds back (R338), `away` the quay and
number of a tidemark elsewhere that a CLGO chases (R411). -/
structure DockEntry where
  seq : Nat
  op : Instr
  phase : Phase := .issued
  owner : Nat := 0
  untagged : Bool := false
  ctx : Fin 8 := 0
  pc : BitVec 32 := 0
  pa : Word := 0
  pb : Word := 0
  pa2 : Word := 0
  pb2 : Word := 0
  seed : BitVec 32 := 0
  crew : Option Nat := none
  slice : Nat := 0
  spBase : Nat := 0
  spSize : Nat := 0
  strand : Nat := 0
  issuedAt : Nat := 0
  rank : Nat := 0
  recA : Option Layout := none
  recB : Option Layout := none
  sclA : Option Layout := none
  sclB : Option Layout := none
  rawA : BitVec 512 := 0
  count : Nat := 0
  ktile : Nat := 0
  group : Nat := 0
  tile : Nat := 0
  tileA : Nat := 0
  tileB : Nat := 0
  chases : List Nat := []
  away : Option (Nat × Nat) := none
  taken : Bool := false
  flags : BitVec 5 := 0
  amax : BitVec 32 := 0
  tcq : Bool := false
  waited : Nat := 0
  fcode : Nat := 0
  findex : Nat := 0
  page : Option Nat := none
  route : Option Route := none
  scale : BitVec 24 := 0
  follow : Option Instr := none
  walkAt : Option Nat := some 4096
  started : Bool := false
  entered : Bool := false
  performed : Bool := false
  tailBase : Nat := 0
  words : List Nat := []
  bidx : Nat := 0
  readyAt : Nat := 0
  berth : Option Nat := none
  flight : List Beat := []
  attempt : Nat := 0
  arrive : Nat := 0
  sendId : Option (Nat × Nat) := none
  reqAt : Option Nat := none
  deriving DecidableEq, Repr

/-- A mooring record (R171). `strand` keeps the strand's index (R328), which its pilot slice follows (R350), and `born`
which strand it is, 0 for one that has not started. -/
structure Mooring where
  resume : BitVec 32 := 0
  window : BitVec 16 := 0
  flags : BitVec 16 := 0
  crew : BitVec 32 := 0
  hint : BitVec 32 := 0
  x : Vector Word 6 := Vector.replicate 6 0
  strand : Nat := 0
  born : Nat := 0
  deriving DecidableEq, Repr

/-- An arrival whose payload is written and whose handler has not started (R16). -/
structure Arrival where
  crew : Nat
  pc : BitVec 32
  x : Vector Word 6
  deriving DecidableEq, Repr

/-- What a request to a peer's memory comes from: a strand's M slot, by `Context.born`, a command of a quay, or a unit of the
device. -/
inductive Asker where
  | strand (born : Nat)
  | command (seq : Nat)
  | unit
  deriving DecidableEq, Repr

/-- A request to a peer's memory that the peer has not answered (R386): its device, its packet, the age that names it, and the
quay cycle at which it left. -/
structure PeerRequest where
  dev : Nat
  msg : NetMsg
  age : Nat
  sentAt : Nat
  asker : Asker
  deriving DecidableEq, Repr

/-- One quay (R12). `drained` holds stores that have left the gate and not performed; `l1` the lines of its L1; `pushes` the
ring pushes of engines that have not landed (R72); `requests` what peers have not answered (R386); `lastSlice` is the tenant
slice of the crew placed last (R83). -/
structure Quay where
  ctxs : Vector Context 8 := Vector.replicate 8 {}
  cctx : Fin 8 := 7
  ready : Bool := false
  failed : Bool := false
  cycle : Word := 0
  dictwin : Word := 0
  dict : Sparse (BitVec 384) := []
  sp : Sparse Byte := []
  banks : Vector Bank 16 := Vector.replicate 16 {}
  tms : Vector Tidemark 64 := Vector.replicate 64 {}
  bols : Vector Bollard 64 := Vector.replicate 64 {}
  berths : Vector Berth 16 := Vector.replicate 16 {}
  rtes : Vector (Option Route) 8 := Vector.replicate 8 none
  pjs : Vector Proj 4 := Vector.replicate 4 {}
  tabs : Vector TabReg 32 := Vector.replicate 32 {}
  rings : Vector Ring 64 := Vector.replicate 64 {}
  pushes : List Effect := []
  rtab : Nat := 0x2FC000
  rcache : List (Nat × BitVec 512) := []
  dock : List DockEntry := []
  nextSeq : Nat := 0
  nextRank : Nat := 0
  l1 : List (Nat × BitVec 512) := []
  drained : List GStore := []
  requests : List PeerRequest := []
  deque : List Mooring := []
  arrivals : List Arrival := []
  redSeq : BitVec 16 := 0
  unacked : List (Nat × Nat × Reduction) := []
  lastSlice : Option Nat := none
  deriving DecidableEq, Repr

/-- A jetty's ST_JETTY (R188) and its fused contexts by position (R185), with the strands they run. `nextPc` holds the next bundles that
B operations of the last bundle index decided. -/
structure Jetty where
  divpc : BitVec 32 := 0
  members : BitVec 4 := 0
  divq : BitVec 4 := 0
  faultdec : Bool := false
  div : Bool := false
  strict : Bool := false
  l1fused : Bool := false
  fused : Bool := false
  fctx : Vector Nat 4 := Vector.replicate 4 0
  fborn : Vector Nat 4 := Vector.replicate 4 0
  rejoin : BitVec 4 := 0
  nextPc : Vector (Option (BitVec 32)) 4 := Vector.replicate 4 none
  deriving DecidableEq, Repr

/-! ### Device-wide services -/

/-- A global tidemark (R245). -/
structure GlobalMark where
  value : Nat := 0
  st : TmState := .idle
  wop : Nat := 0
  endv : Nat := 0
  pubQuay : Nat := 0
  pubTm : Nat := 0
  bound : Bool := false
  broken : Bool := false
  fcode : Nat := 0
  findex : Nat := 0
  layout : Option Layout := none
  deriving DecidableEq, Repr

/-- A tenant slice descriptor (R319). -/
structure SliceDesc where
  jetties : BitVec 128 := 0
  hbmBase : Word := 0
  hbmSize : Word := 0
  ebud : BitVec 32 := 0
  gtmFirst : BitVec 16 := 0
  gtmCount : BitVec 16 := 0
  save : Word := 0
  saveSize : Word := 0
  hmap : BitVec 64 := 0
  turn : Nat := 64
  quantumStart : Nat := 0
  deriving DecidableEq, Repr

/-- A launch record (R323). -/
structure LaunchRec where
  raw : BitVec 1024 := 0
  addr : Nat := 0
  deriving DecidableEq, Repr

/-- The LAUNCH that entered a shipment: its quay, bundle, strand and crew (R328). -/
structure Launcher where
  quay : Nat
  pc : BitVec 32
  born : Nat
  crew : Option Nat
  deriving DecidableEq, Repr

/-- A shipment in a queue's window (R321, R326). -/
structure Shipment where
  key : Nat
  lr : LaunchRec
  index : Nat
  started : List Nat := []
  retired : List Nat := []
  ready : Bool := true
  failed : Bool := false
  origin : Option Launcher := none
  deriving DecidableEq, Repr

/-- A queue (R320) with its window. `shipments` also keeps those whose crews have all started, until complete; `share` is
its share as it stood when the meters last reported (R336). -/
structure Queue where
  ring : Word := 0
  size : BitVec 32 := 0
  doorbell : Nat := 0
  slice : Nat := 0
  weight : Nat := 0
  head : BitVec 32 := 0
  errlog : Word := 0
  errs : Nat := 0
  stopped : Bool := false
  energy : Nat := 0
  share : Nat := 0
  shipments : List Shipment := []
  deriving DecidableEq, Repr

/-- What a saved crew's quay keeps (R343). -/
structure SavedQuay where
  ctxs : List (Nat × Context)
  sp : Sparse Byte
  banks : List (Nat × Bank)
  pjs : List (Nat × Proj)
  berths : List (Nat × Berth)
  tms : Vector Tidemark 64
  bols : Vector Bollard 64
  rings : Vector Ring 64
  rtes : Vector (Option Route) 8
  tabs : Vector TabReg 32
  dock : List DockEntry
  dict : List (BitVec 384)
  jetty : Jetty
  deriving DecidableEq, Repr

/-- Where a crew stands: `waiting` holds its reservation while its kernel image waits for a page (R328); `retiring` has
given it up and not set its completion bit (R340). Saving and restoring are one step each, so the save area shows no
state between placed and saved. -/
inductive CrewState where
  | waiting | placed | saved | retiring
  deriving DecidableEq, Repr

/-- A placed or saved crew (R19, R327). `saveAt` is the offset of its save area in the slice's pool, `saveLen` its size;
`stop` tells that the harbourmaster has asked it to stop (R190, R322, R337), `restoring` that its state is back and its
contexts do not run yet (R342), `late` that an access of it has missed its floor since it started: ST_DET.LATE of each of its
contexts (R339). -/
structure Crew where
  id : Nat
  queue : Nat
  ship : Nat
  index : Nat
  slice : Nat
  lr : LaunchRec
  st : CrewState := .placed
  quays : List Nat
  ctxs : List (List Nat)
  spBases : List Nat
  spSize : Nat
  window : List Nat
  dictBase : List Nat
  dictUnits : Nat
  live : Nat
  startedAt : Nat
  placedAt : Nat
  firstFault : Nat := 0
  bols : List (Nat × Bollard) := []
  overflow : List (Nat × Nat × Mooring) := []
  saved : List SavedQuay := []
  saveAt : Option Nat := none
  saveLen : Nat := 0
  stop : Bool := false
  restoring : Bool := false
  late : Bool := false
  deriving DecidableEq, Repr

/-- Who waits on a dependence counter (R334). -/
inductive DepWaiter where
  | record (quay : Nat) (top : Bool) (m : Mooring)
  | shipment (queue key : Nat)
  deriving DecidableEq, Repr

/-- An operation on its way to a dependence counter's home (R334). -/
inductive DepOp where
  | set (quay seq slice ctr : Nat) (v : BitVec 32)
  | dec (quay seq slice ctr : Nat)
  | bind (quay seq slice ctr : Nat) (w : DepWaiter)
  deriving DecidableEq, Repr

/-- An operation on its way to a future's home (R335): a FUTW's record or a FUTR. -/
inductive FutOp where
  | wait (quay seq slice va : Nat) (m : Mooring)
  | resolve (quay seq slice va : Nat) (v : Word)
  deriving DecidableEq, Repr

/-- A strand's slice of a tile nest (R350). -/
structure Pilot where
  slice : Nat
  crew : Nat
  strand : Nat
  ext : List Nat
  rank : Nat
  perm : Nat
  next : Nat
  last : Nat
  deriving DecidableEq, Repr

/-- Who waits for a page in the pager (R176). -/
inductive PageWaiter where
  | context (quay ctx : Nat)
  | command (quay seq : Nat)
  | ring (queue : Nat)
  | placement (queue ship crew : Nat)
  | retirement (crew : Nat)
  deriving DecidableEq, Repr

/-- A translation fault held by the pager (R176): its number, and the ticket of the pending handle it came through. -/
structure PageFault where
  slice : Nat
  page : Nat
  access : BitVec 4
  waiter : PageWaiter
  id : Nat := 0
  ticket : Option Nat := none
  deriving DecidableEq, Repr

/-- A range of merged faults (R176, R177). -/
structure FaultRange where
  ticket : Nat
  slice : Nat
  page : Nat
  pages : Nat
  waiters : Nat
  access : BitVec 4
  faults : Nat
  time : Nat
  members : List PageFault
  deriving DecidableEq, Repr

/-- A landing of more than one beat that has begun to arrive (R17): its sender's device, the quay and number under which it
began, and attempt; the receiving crew with the quay's position in it, none where it was refused; the elements written, and their number once the last beat has come. -/
structure Inbound where
  kind : LandingKind
  dev : Nat
  quay : Nat
  seq : Nat
  attempt : Nat
  crew : Option (Nat × Nat)
  got : Nat := 0
  total : Option Nat := none
  deriving DecidableEq, Repr

/-- The pager (R176 to R178, R432). `closed` are ranges that wait for log room, `delivered` the delivered, unanswered ones. -/
structure Pager where
  batch : List PageFault := []
  batchTime : Nat := 0
  closed : List FaultRange := []
  delivered : List FaultRange := []
  nextTicket : Nat := 1
  nextFault : Nat := 1
  logBase : Word := 0
  logSize : Word := 0
  pidx : Word := 0
  cidx : Word := 0
  answerTicket : Word := 0
  deriving DecidableEq, Repr

/-- A context image in the image pool (R169), with the record of its waiter. `resolved` tells that its wait is over,
`moored` that its record entered a run deque (R175). -/
structure Image where
  no : Nat
  mooring : Mooring
  ctx : Context
  quay : Nat
  waitOn : WaitOn
  denied : Bool := false
  resolved : Bool := false
  moored : Bool := false
  deriving DecidableEq, Repr

/-- A KV pool descriptor (R353). `threading` tells that EN has been written and the pages are still to be threaded, which waits
for HBM (R431). -/
structure Pool where
  data : Word := 0
  hdr : Word := 0
  npages : Nat := 0
  tokb : Nat := 0
  home : Nat := 0
  en : Bool := false
  freehead : BitVec 32 := 0xFFFFFFFF
  freecnt : BitVec 32 := 0
  threading : Bool := false
  deriving DecidableEq, Repr

/-- An entry of a prefix table (R361). -/
structure PfxEntry where
  hash : Word
  page : Nat
  block : Nat
  depth : Nat
  gen : Nat
  pool : Nat
  slice : Nat
  way : Nat
  deriving DecidableEq, Repr

/-- The prefix table of a basin: the entries, and each set's round-robin pointer (R361, R362). -/
structure PfxTable where
  entries : List PfxEntry := []
  victim : Sparse Nat := []
  deriving DecidableEq, Repr

/-- The states of a collective slot (R387). -/
inductive SlotState where
  | undef | defined | active | halted
  deriving DecidableEq, Repr

/-- A block of a fork: its receiver and its id (R392, R393). -/
structure ForkBlock where
  recv : Nat
  id : BlockId
  resend : Bool := false
  deriving DecidableEq, Repr

/-- A collective slot (R387 to R416). `active` lists the active generations and `reports` the completion reports by
generation and device. For the newest instance: `goQuay` and `seq` name its CLGO, `fork` the blocks not sent, `unacked`
those not acknowledged, `localLeft` the own blocks to copy, `filled` the length of DA's written prefix and `wrote` the
walk indices written beyond it, `got` the owner and number of each block received, `handled` the owners whose handler has
started, `runvals` the running values of a reduce-scatter with their special terms (R75) and the walk order (PERM and DIR)
in which they were cut, `acks` acknowledgements that met an unusable trunk, `owed` a fault that waits for its CLGO to be
in a dock again. -/
structure CollSlot where
  assigned : Bool := false
  slice : Nat := 0
  st : SlotState := .undef
  gen : Nat := 0
  desc : BitVec 1024 := 0
  da : Layout := {}
  db : Layout := {}
  daIdx : Nat := 0
  tm : Nat := 0
  quay : Nat := 0
  crew : Option Nat := none
  goQuay : Nat := 0
  seq : Nat := 0
  code : Bool := false
  nofb : Bool := false
  active : List Nat := []
  reports : List (Nat × Nat) := []
  ownDone : Bool := true
  localLeft : List ForkBlock := []
  fork : List ForkBlock := []
  unacked : List ForkBlock := []
  filled : Nat := 0
  wrote : List Nat := []
  got : List (Nat × Nat) := []
  handled : List Nat := []
  runvals : List (BlockId × Nat × Nat × List (Nat × Nat)) := []
  held : List CollPacket := []
  acks : List (Nat × Nat × BlockId) := []
  owed : Option FaultCode := none
  manifest : Option Word := none
  holdings : List (Nat × Nat × BlockId × Nat) := []
  snapHoldings : List (Nat × Nat × BlockId × Nat) := []
  digests : List (Nat × Nat × Word) := []
  fcode : Nat := 0
  uncoded : Word := 0
  codedN : Word := 0
  decoded : Word := 0
  nackout : Word := 0
  resent : Word := 0
  received : Word := 0
  deriving DecidableEq, Repr

/-- What waits at the previous hop of a link on virtual channel 2 (R395): a packet or a routed beat for this device, or
the flits of a packet on its way through. -/
inductive LinkItem where
  | msg (m : NetMsg)
  | transit (f : List (Word × BitVec 512))
  deriving DecidableEq, Repr

/-- A Halham port (R384 to R386). `inFlight` is its replay buffer: the flits sent that the neighbour has not taken, oldest
first; `received` holds the flits of packets that have not come in whole; `withheld` what is not accepted on virtual
channel 2, in the link's order (R395); `failed` tells that none of its lanes trained (R430). -/
structure Port where
  st : PortState := .down
  lanes : Nat := 0
  ready : Bool := false
  inFlight : List (Word × BitVec 512) := []
  received : List (Word × BitVec 512) := []
  errors : Nat := 0
  failed : Bool := false
  withheld : List LinkItem := []
  deriving DecidableEq, Repr

/-- A packet as it leaves a device: its source, destination and sequence number, what it carries, and its flits (R384). -/
structure Packet where
  src : Nat
  dst : Nat
  seq : Nat
  msg : NetMsg
  flits : List (Word × BitVec 512)
  deriving DecidableEq, Repr

/-- An entry of a base die's replay filter (R402) for a source device and quay: every reduction before `floor` has been
applied, and those of `applied` from it on. Stacks of other devices are numbered on from the own eight. -/
structure FilterEntry where
  stack : Nat
  dev : Nat
  quay : Nat
  floor : Nat
  applied : List Nat
  deriving DecidableEq, Repr

/-- A system-class fault as the system context receives it (R13). -/
structure SysReport where
  code : Nat
  quay : Nat
  ctx : Nat
  crew : Option Nat
  va : Word
  deriving DecidableEq, Repr

/-- What leaves the device toward other devices and the host. -/
inductive OutMsg where
  | packet (port : Nat) (p : Packet)
  | flits (port : Nat) (f : List (Word × BitVec 512))
  | msix (vector : Nat)
  | readData (addr : Nat) (data : List Byte)
  deriving DecidableEq, Repr

/-- The registers of bring-up, power, heat and attestation (R429 to R437). `held` are the register writes that an
attestation under way holds back, oldest first. -/
structure HostRegs where
  power : Bool := false
  rom : Bool := false
  fwok : Bool := false
  fwerr : Nat := 0
  fwaddr : Word := 0
  fwlen : Word := 0
  fetching : Bool := false
  ucie : Bool := false
  modules : Vector Bool 4 := Vector.replicate 4 true
  hbmReady : BitVec 8 := 0
  hbmFail : BitVec 8 := 0
  ownIdReg : Word := 0
  memberReg : Word := 0
  havenSet : Bool := false
  imgBase : Word := 0
  imgCount : Word := 0
  clamp : Nat := 3600
  amber : Nat := 95
  red : Nat := 105
  band0 : Nat := 0
  band1 : Nat := 0
  actBand0 : Nat := 0
  actBand1 : Nat := 0
  temp0 : Nat := 0
  temp1 : Nat := 0
  stretch : BitVec 32 := 0
  nonce : Vector Word 4 := Vector.replicate 4 0
  repAddr : Word := 0
  busy : Bool := false
  done : Bool := false
  exhausted : Bool := false
  overrun : Bool := false
  signIndex : Nat := 0
  fwDigest : BitVec 256 := 0
  held : List (Nat × Nat × Word × List Mapping) := []
  deriving DecidableEq, Repr

/-- What happens by no event of its own. System software maps and unmaps pages, clears the valid bits of the handles on a
page (R133), and assigns a collective slot to a tenant slice or to none (R387). A peer or the host writes its own memory,
and a peer's invalidation of an L2 copy arrives (R39). The source of reductions confirms their acknowledgements (R402).
The neighbour at a port takes the oldest flits in flight, or discards the oldest one, which the port sends again (R386;
log 111). The management firmware lowers the clamp (R433) or writes its own window of HBM (R435). -/
inductive Deed where
  | map (m : Mapping)
  | unmap (slice page : Nat)
  | shoot (slice page : Nat)
  | assign (slot : Nat) (slice : Option Nat)
  | agentWrite (pa : Nat) (bytes : List Byte)
  | l2Invalidate (line : Nat)
  | flitsTaken (port n : Nat)
  | flitRetry (port : Nat)
  | confirmed (stack dev quay : Nat)
  | firmwareClamp (amps : Nat)
  | firmwareWrite (pa : Nat) (bytes : List Byte)
  deriving DecidableEq, Repr

/-- A turn of the device: which quay's parties it concerns, whether the system context makes it, and the event or
input; without an event the quay's control core moves. A deed of system software takes the turn instead. -/
structure Turn where
  quay : Nat
  system : Bool := false
  event : Option Instr := none
  deed : Option Deed := none
  deriving DecidableEq, Repr

/-- The device. `agenda` is the order in which the parties move, an input; `wire` holds messages of the on-die fabric
that have not arrived; `fresh` numbers the free values drawn, `ages` the accesses of the M slots and the requests to
peers. `l2` holds the L2's copies of peer lines, oldest first (R1, R35); its lines of the own HBM are that memory's
contents. -/
structure State where
  agenda : List Turn := []
  here : Nat := 0
  system : Bool := false
  fresh : Nat := 0
  refTime : Nat := 0
  mem : List Host.Cell := []
  l2 : List (Nat × BitVec 1024) := []
  pages : List Mapping := []
  quays : Sparse Quay := []
  jetties : Sparse Jetty := []
  gtms : Sparse GlobalMark := []
  devId : Nat := 0
  members : BitVec 64 := 0
  slices : Vector SliceDesc 16 := Vector.replicate 16 {}
  queues : Vector Queue 64 := Vector.replicate 64 {}
  pools : Vector Pool 64 := Vector.replicate 64 {}
  nextShip : Nat := 0
  crews : List Crew := []
  nextCrew : Nat := 1
  counters : Sparse (BitVec 32) := []
  depWait : List (Nat × DepWaiter) := []
  depOps : List DepOp := []
  futWait : List (Nat × Mooring) := []
  futOps : List FutOp := []
  landings : List Inbound := []
  pilots : List Pilot := []
  pager : Pager := {}
  images : List Image := []
  pfx : Vector PfxTable 2 := Vector.replicate 2 {}
  slots : Vector CollSlot 64 := Vector.replicate 64 {}
  lighters : List CollPacket := []
  ports : Vector Port 18 := Vector.replicate 18 {}
  resentFlits : Word := 0
  replaysSent : Word := 0
  replaysFound : Word := 0
  linkErrors : Word := 0
  packetSeq : Nat := 0
  energyWin : Nat := 0
  filter : List FilterEntry := []
  sysInbox : List SysReport := []
  wire : List Instr := []
  outbox : List OutMsg := []
  host : HostRegs := {}
  ages : Nat := 0
  deriving DecidableEq, Repr

/-- The device right after reset: every register at the value the spec or the log gives, nothing in memory. -/
def State.reset : State := {}

end Sys2Proof.Machine
end

