-- ==== Sys2Proof/Machine/Sparse.lean ====
section
/-! DEFINITION. Large stores as sorted lists of the entries that differ from the store's default: one canonical list for
each contents. Helpers for vectors and lists. -/

namespace Sys2Proof.Machine

open Sys2Proof

/-- The entry at key `n`; `d` is what an unlisted key holds. -/
def sparseGet {α : Type} (d : α) : Sparse α → Nat → α
  | [], _ => d
  | (k, v) :: t, n => if n = k then v else if n < k then d else sparseGet d t n

/-- Lists an entry, keeping the keys rising. -/
def sparsePut {α : Type} : Sparse α → Nat → α → Sparse α
  | [], n, v => [(n, v)]
  | (k, w) :: t, n, v =>
    if n = k then (n, v) :: t else if n < k then (n, v) :: (k, w) :: t else (k, w) :: sparsePut t n v

/-- Unlists a key. -/
def sparseDel {α : Type} : Sparse α → Nat → Sparse α
  | [], _ => []
  | (k, w) :: t, n => if n = k then t else if n < k then (k, w) :: t else (k, w) :: sparseDel t n

/-- Writes an entry in canonical form: an entry equal to the default is not listed. -/
def sparseSet {α : Type} [DecidableEq α] (d : α) (l : Sparse α) (n : Nat) (v : α) : Sparse α :=
  if v = d then sparseDel l n else sparsePut l n v

/-- Writes a list of entries, in order. -/
def sparseSetAll {α : Type} [DecidableEq α] (d : α) : Sparse α → List (Nat × α) → Sparse α
  | l, [] => l
  | l, (n, v) :: t => sparseSetAll d (sparseSet d l n v) t

/-- The store whose keys below `n` hold `f`. -/
def sparseOfFn {α : Type} [DecidableEq α] (d : α) (n : Nat) (f : Nat → α) : Sparse α :=
  (List.range n).filterMap fun k => if f k = d then none else some (k, f k)

/-- The entries of the keys from `lo` up to `hi`, with the keys counted from `lo`. -/
def sparseSlice {α : Type} (l : Sparse α) (lo hi : Nat) : Sparse α :=
  (l.filter fun p => lo ≤ p.1 ∧ p.1 < hi).map fun p => (p.1 - lo, p.2)

/-- The store without the keys from `lo` up to `hi`. -/
def sparseDrop {α : Type} (l : Sparse α) (lo hi : Nat) : Sparse α :=
  l.filter fun p => ¬ (lo ≤ p.1 ∧ p.1 < hi)

/-- Keys strictly rising from at least `lo`, and no entry equal to the default. -/
def sparseWfFrom {α : Type} [DecidableEq α] (d : α) : Nat → Sparse α → Bool
  | _, [] => true
  | lo, (k, v) :: t => decide (lo ≤ k) && decide (v ≠ d) && sparseWfFrom d (k + 1) t

/-- The canonical form of a store. -/
def sparseWf {α : Type} [DecidableEq α] (d : α) (l : Sparse α) : Bool := sparseWfFrom d 0 l

/-- Reads an entry of a vector by a number that may lie outside it. -/
def vget {α : Type} {n : Nat} (d : α) (v : Vector α n) (i : Nat) : α := if h : i < n then v[i] else d

/-- Writes an entry of a vector; a number outside it changes nothing. -/
def vput {α : Type} {n : Nat} (v : Vector α n) (i : Nat) (x : α) : Vector α n := if h : i < n then v.set i x else v

/-- Replaces the first element of a list that `p` picks. -/
def listUpdate {α : Type} (p : α → Bool) (f : α → α) : List α → List α
  | [] => []
  | x :: t => if p x then f x :: t else x :: listUpdate p f t

/-- The list without its `k`-th element. -/
def listErase {α : Type} : List α → Nat → List α
  | [], _ => []
  | _ :: t, 0 => t
  | x :: t, k + 1 => x :: listErase t k

end Sys2Proof.Machine
end

