-- ==== Sys2Proof/Machine/Flags.lean ====
section
/-! DEFINITION. Number formats, exact values, rounding, exception flags and scales (R52 to R76). -/

namespace Sys2Proof.Machine

open Sys2Proof

/-! ### Flags (R66) -/

/-- ST_FPFLAGS: SAT, IV, OF, UF, NX from bit 4 down. -/
abbrev FpFlags := BitVec 5

def flSAT : FpFlags := 16
def flIV : FpFlags := 8
def flOF : FpFlags := 4
def flUF : FpFlags := 2
def flNX : FpFlags := 1

/-- A flag when a condition holds. -/
def flagIf (c : Bool) (f : FpFlags) : FpFlags := if c then f else 0

/-! ### Formats (R52 to R57) -/

/-- The formats that an element can have; NBP is read plane by plane (R56). -/
inductive Fmt where
  | i8 | i16 | i32 | bf16 | fp16 | fp32 | e4m3 | e5m2 | e2m1 | s24
  deriving DecidableEq, Repr

/-- The record codes of R52: 9 is NBP and 11 to 15 are reserved. -/
def Fmt.ofCode (n : Nat) : Option Fmt :=
  match n with
  | 0 => some .i8 | 1 => some .i16 | 2 => some .i32 | 3 => some .bf16 | 4 => some .fp16 | 5 => some .fp32
  | 6 => some .e4m3 | 7 => some .e5m2 | 8 => some .e2m1 | 10 => some .s24 | _ => none

def etyFmt : ETy → Fmt
  | .i8 => .i8 | .i16 => .i16 | .i32 => .i32 | .bf16 => .bf16 | .fp16 => .fp16 | .fp32 => .fp32 | .e4m3 => .e4m3
  | .e5m2 => .e5m2

/-- Element size in bits; S24 lies in a 4-byte container (R57). -/
def Fmt.bits : Fmt → Nat
  | .i8 => 8 | .i16 => 16 | .i32 => 32 | .bf16 => 16 | .fp16 => 16 | .fp32 => 32 | .e4m3 => 8 | .e5m2 => 8
  | .e2m1 => 4 | .s24 => 32

/-- A floating-point format: fraction bits, exponent field bits, bias, and the largest finite value as
`maxN` times two to the power `maxQ`. -/
structure FloatSpec where
  frac : Nat
  expBits : Nat
  bias : Nat
  maxN : Nat
  maxQ : Int
  hasInf : Bool
  hasNan : Bool
  deriving DecidableEq, Repr

def specBf16 : FloatSpec := ⟨7, 8, 127, 255, 120, true, true⟩
def specFp16 : FloatSpec := ⟨10, 5, 15, 2047, 5, true, true⟩
def specFp32 : FloatSpec := ⟨23, 8, 127, 2 ^ 24 - 1, 104, true, true⟩
def specE4m3 : FloatSpec := ⟨3, 4, 7, 14, 5, false, true⟩
def specE5m2 : FloatSpec := ⟨2, 5, 15, 7, 13, true, true⟩
def specE2m1 : FloatSpec := ⟨1, 2, 1, 3, 1, false, false⟩

def Fmt.float : Fmt → Option FloatSpec
  | .bf16 => some specBf16 | .fp16 => some specFp16 | .fp32 => some specFp32 | .e4m3 => some specE4m3
  | .e5m2 => some specE5m2 | .e2m1 => some specE2m1 | _ => none

/-- The exponent of the smallest normal (R52). -/
def FloatSpec.emin (f : FloatSpec) : Int := 1 - (f.bias : Int)

/-! ### Exact values -/

/-- An exact value: `fin neg n e` is n times two to the power e with its sign; zeros keep theirs (R53). -/
inductive Val where
  | nan
  | inf (neg : Bool)
  | fin (neg : Bool) (n : Nat) (e : Int)
  deriving DecidableEq, Repr

def Val.ofInt (i : Int) : Val := .fin (i < 0) i.natAbs 0

def Val.isNan : Val → Bool
  | .nan => true
  | _ => false

def Val.isZero : Val → Bool
  | .fin _ 0 _ => true
  | _ => false

def Val.isInf : Val → Bool
  | .inf _ => true
  | _ => false

def Val.neg : Val → Val
  | .nan => .nan
  | .inf s => .inf (!s)
  | .fin s n e => .fin (!s) n e

def Val.sign : Val → Bool
  | .nan => false
  | .inf s => s
  | .fin s _ _ => s

/-- Two to a power, as a natural number; a negative power gives 1 (callers align first). -/
def pow2 (e : Int) : Nat := 2 ^ e.toNat

/-- The magnitude of a finite value in units of two to the power `e0`, for `e0` at most its exponent. -/
def Val.scaled (v : Val) (e0 : Int) : Int :=
  match v with
  | .fin s n e => if s then -((n * pow2 (e - e0) : Nat) : Int) else ((n * pow2 (e - e0) : Nat) : Int)
  | _ => 0

/-- The value of a floating-point encoding (R53). -/
def FloatSpec.decode (f : FloatSpec) (bits : Nat) : Val :=
  let fr := bits % 2 ^ f.frac
  let ex := bits / 2 ^ f.frac % 2 ^ f.expBits
  let s := bits / 2 ^ (f.frac + f.expBits) % 2 == 1
  if ex = 2 ^ f.expBits - 1 && f.hasInf then (if fr = 0 then .inf s else .nan)
  else if ex = 2 ^ f.expBits - 1 && f.hasNan && fr == 2 ^ f.frac - 1 then .nan
  else if ex = 0 then .fin s fr (f.emin - f.frac)
  else .fin s (2 ^ f.frac + fr) ((ex : Int) - f.bias - f.frac)

/-- S24 (R57). -/
def s24Value (bits : Nat) : Val :=
  let e : Nat := bits / 2 ^ 16 % 256
  if e = 0 then .fin false 0 0 else .fin false (2 ^ 16 + bits % (2 ^ 16)) ((e : Int) - 143)

/-- The exact value of an element's bits. -/
def Fmt.value (f : Fmt) (bits : Nat) : Val :=
  match f.float with
  | some sp => sp.decode bits
  | none => match f with
    | .s24 => s24Value bits
    | _ => .ofInt (BitVec.ofNat f.bits bits).toInt

/-- The exponent of the least significant bit that a source format gives a value (R62). -/
def Fmt.lsb (f : Fmt) (bits : Nat) : Int :=
  match f.value bits with
  | .fin _ _ e => e
  | _ => 0

/-! ### Arithmetic on exact values (R58, R74, R75) -/

def Val.mul : Val → Val → Val
  | .nan, _ => .nan
  | _, .nan => .nan
  | .inf s, .inf t => .inf (s != t)
  | .inf s, .fin t n _ => if n = 0 then .nan else .inf (s != t)
  | .fin s n _, .inf t => if n = 0 then .nan else .inf (s != t)
  | .fin s n e, .fin t m d => .fin (s != t) (n * m) (e + d)

/-- The exact sum of finite terms in units of two to the power `e0`. -/
def sumScaled (e0 : Int) : List Val → Int
  | [] => 0
  | v :: t => (if v.isZero then 0 else v.scaled e0) + sumScaled e0 t

/-- The smallest exponent of the nonzero terms, from a bound. -/
def lowExp : List Val → Option Int
  | [] => none
  | .fin _ n e :: t =>
    if n = 0 then lowExp t
    else match lowExp t with
      | none => some e
      | some d => some (if e < d then e else d)
  | _ :: t => lowExp t

/-- The exact sum of a set of terms: special values by R75, a zero sum by R74. -/
def Val.sum (rm : RMode) (ts : List Val) : Val :=
  if ts.any Val.isNan then .nan
  else if ts.any (fun v => v == .inf false) then (if ts.any (fun v => v == .inf true) then .nan else .inf false)
  else if ts.any (fun v => v == .inf true) then .inf true
  else match lowExp ts with
    | none =>
      if ts.isEmpty then .fin false 0 0
      else if ts.all Val.sign then .fin true 0 0
      else if ts.all (fun v => !v.sign) then .fin false 0 0
      else .fin (rm == .rdn) 0 0
    | some e0 =>
      let t := sumScaled e0 ts
      if t = 0 then .fin (rm == .rdn) 0 0 else .fin (t < 0) t.natAbs e0

/-- IV: a NaN formed from operands that hold none (R66). -/
def ivFlag (r : Val) (ops : List Val) : FpFlags := flagIf (r.isNan && !ops.any Val.isNan) flIV

/-- Compares two values that are no NaN: whether `a` is below `b`; zeros are equal. -/
def Val.lt (a b : Val) : Bool :=
  match a, b with
  | .inf s, .inf t => s && !t
  | .inf s, _ => s
  | _, .inf t => !t
  | .fin _ _ e, .fin _ _ d => let m := if e < d then e else d; decide (a.scaled m < b.scaled m)
  | _, _ => false

def Val.eqv (a b : Val) : Bool := !a.isNan && !b.isNan && !a.lt b && !b.lt a

/-! ### Rounding (R60 to R63) -/

/-- The hash of stochastic rounding (R63). -/
def mix32 (x : BitVec 32) : BitVec 32 :=
  let x := x ^^^ (x >>> 16)
  let x := x * 0x7FEB352D
  let x := x ^^^ (x >>> 15)
  let x := x * 0x846CA68B
  x ^^^ (x >>> 16)

/-- The floor of the base-two logarithm of num / den. -/
def floorLog2 (num den : Nat) : Int :=
  let k : Int := (Nat.log2 num : Int) - Nat.log2 den
  let below := if k < 0 then decide (num * pow2 (-k) < den) else decide (num < den * pow2 k)
  if below then k - 1 else k

/-- Whether SR rounds away (R60, R62): `r / b` is the part below the kept bit, `q` that bit's exponent, `src` the
exponent of the source format's last bit. -/
def srAway (seed : BitVec 32) (src : Option Int) (r b : Nat) (q : Int) : Bool :=
  let k := match src with
    | some l => if q - l ≥ 1 && q - l ≤ 32 then (q - l).toNat else 0
    | none => 0
  if k = 0 then
    let d := r * 2 ^ 32 / b
    let d := if r * 2 ^ 32 % b = 0 then d else d ||| 1
    decide ((mix32 (BitVec.ofNat 32 d ^^^ seed)).toNat < d)
  else
    let d := r * 2 ^ k / b
    decide ((mix32 (BitVec.ofNat 32 d ^^^ seed) >>> (32 - k)).toNat < d)

/-- Whether an inexact magnitude goes to the next grid point (R60): `t` is the grid floor's number, `r / b` the rest. -/
def roundsAway (rm : RMode) (seed : BitVec 32) (src : Option Int) (neg : Bool) (t r b : Nat) (q : Int) : Bool :=
  match rm with
  | .rne => decide (2 * r > b) || (decide (2 * r = b) && t % 2 == 1)
  | .rtz => false
  | .rdn => neg
  | .rup => !neg
  | .sr => srAway seed src r b q

/-- The bits of the magnitude n times two to the power q in a floating-point format that can hold it. -/
def FloatSpec.pack (f : FloatSpec) (neg : Bool) (n : Nat) (q : Int) : Nat :=
  let (n, q) := if n ≥ 2 ^ (f.frac + 1) then (n / 2, q + 1) else (n, q)
  let mag := if n < 2 ^ f.frac then n
    else (q + f.frac + f.bias).toNat * 2 ^ f.frac + (n - 2 ^ f.frac)
  mag + (if neg then 2 ^ (f.frac + f.expBits) else 0)

def FloatSpec.infBits (f : FloatSpec) (neg : Bool) : Nat :=
  (2 ^ f.expBits - 1) * 2 ^ f.frac + (if neg then 2 ^ (f.frac + f.expBits) else 0)

def FloatSpec.maxBits (f : FloatSpec) (neg : Bool) : Nat := f.pack neg f.maxN f.maxQ

/-- The canonical NaNs (R58). -/
def Fmt.nanBits : Fmt → Nat
  | .fp32 => 0x7FC00000 | .fp16 => 0x7E00 | .bf16 => 0x7FC0 | .e4m3 => 0x7F | .e5m2 => 0x7E | _ => 0

/-- R61's value past the largest finite one. -/
def FloatSpec.overflow (f : FloatSpec) (rm : RMode) (neg : Bool) : Nat :=
  if !f.hasInf then f.maxBits neg
  else match rm with
    | .rne | .sr => f.infBits neg
    | .rtz => f.maxBits neg
    | .rdn => if neg then f.infBits neg else f.maxBits neg
    | .rup => if neg then f.maxBits neg else f.infBits neg

/-- Round (R60, R61) of the magnitude num / den times two to the power exp into a floating-point format. -/
def FloatSpec.round (f : FloatSpec) (rm : RMode) (seed : BitVec 32) (src : Option Int) (neg : Bool) (num den : Nat)
    (exp : Int) : Nat × FpFlags :=
  if num = 0 then (f.pack neg 0 0, 0)
  else
    let l := floorLog2 num den + exp
    let q := (if l < f.emin then f.emin else l) - f.frac
    let sh := exp - q
    let a := num * pow2 sh
    let b := den * pow2 (-sh)
    let t := a / b
    let r := a % b
    let t' := if r ≠ 0 && roundsAway rm seed src neg t r b q then t + 1 else t
    let nx := flagIf (r ≠ 0) flNX ||| flagIf (r ≠ 0 && t' < 2 ^ f.frac) flUF
    let big := if q ≥ f.maxQ then decide (t' * pow2 (q - f.maxQ) > f.maxN) else false
    if big then (f.overflow rm neg, flOF ||| flNX) else (f.pack neg t' q, nx)

/-- The largest and smallest integers of `w` bits. -/
def satInt (w : Nat) (i : Int) : Int :=
  if i > 2 ^ (w - 1) - 1 then 2 ^ (w - 1) - 1 else if i < -(2 ^ (w - 1)) then -(2 ^ (w - 1)) else i

/-- An integer's two's complement bits. -/
def intBits (w : Nat) (i : Int) : Nat := (BitVec.ofInt w i).toNat

/-- Round into an integer format, then Sat (R59 to R61). -/
def roundInt (w : Nat) (rm : RMode) (seed : BitVec 32) (src : Option Int) (neg : Bool) (num den : Nat) (exp : Int) :
    Nat × FpFlags :=
  let a := num * pow2 exp
  let b := den * pow2 (-exp)
  let t := a / b
  let r := a % b
  let t' := if r ≠ 0 && roundsAway rm seed src neg t r b 0 then t + 1 else t
  let i : Int := if neg then -(t' : Int) else t'
  let c := satInt w i
  (intBits w c, flagIf (r ≠ 0 || c ≠ i) flNX ||| flagIf (c ≠ i) flSAT)

/-- The largest finite S24 (R57). -/
def s24Max : Nat := 0xFFFFFF

/-- Round into S24 (R59): a negative value gives 0 with IV alone (DEDUCED, log 108), a value below the smallest normal 0. -/
def roundS24 (rm : RMode) (seed : BitVec 32) (src : Option Int) (neg : Bool) (num den : Nat) (exp : Int) :
    Nat × FpFlags :=
  if num = 0 then (0, 0)
  else if neg then (0, flIV)
  else
    let l := floorLog2 num den + exp
    if l < -126 then (0, flUF ||| flNX)
    else
      let q := l - 16
      let sh := exp - q
      let a := num * pow2 sh
      let b := den * pow2 (-sh)
      let t := a / b
      let r := a % b
      let t' := if r ≠ 0 && roundsAway rm seed src neg t r b q then t + 1 else t
      let (t', l) := if t' = 2 ^ 17 then (2 ^ 16, l + 1) else (t', l)
      if l > 128 then (s24Max, flOF ||| flNX)
      else ((l + 127).toNat * 2 ^ 16 + (t' - 2 ^ 16), flagIf (r ≠ 0) flNX)

/-- Round of the quotient num / den times two to the power exp into a format. -/
def Fmt.roundQuot (f : Fmt) (rm : RMode) (seed : BitVec 32) (src : Option Int) (neg : Bool) (num den : Nat)
    (exp : Int) : Nat × FpFlags :=
  match f.float with
  | some sp => sp.round rm seed src neg num den exp
  | none => match f with
    | .s24 => roundS24 rm seed src neg num den exp
    | _ => roundInt f.bits rm seed src neg num den exp

/-- Round of a value with the special values of R58 and R59. The NaN of an operation is written without a flag here;
`ivFlag` adds IV where operands held none. -/
def Fmt.round (f : Fmt) (rm : RMode) (seed : BitVec 32) (src : Option Int) (v : Val) : Nat × FpFlags :=
  match v with
  | .fin s n e => f.roundQuot rm seed src s n 1 e
  | .inf s => match f.float with
    | some sp => if sp.hasInf then (sp.infBits s, 0) else (sp.maxBits s, flOF)
    | none => match f with
      | .s24 => (if s then 0 else s24Max, flOF)
      | _ => (intBits f.bits (if s then -(2 ^ (f.bits - 1)) else 2 ^ (f.bits - 1) - 1), flOF)
  | .nan => match f with
    | .e2m1 | .i8 | .i16 | .i32 | .s24 => (0, flIV)
    | _ => (f.nanBits, 0)

/-- Conversion of an element of one format into another (R59, R211). -/
def convert (sf df : Fmt) (rm : RMode) (seed : BitVec 32) (bits : Nat) : Nat × FpFlags :=
  df.round rm seed (some (sf.lsb bits)) (sf.value bits)

/-- RoundRNE of a value into FP32. -/
def roundFp32 (v : Val) : Nat × FpFlags := Fmt.fp32.round .rne 0 none v

/-- acc := RoundRNE(acc + g) in FP32 (R73). -/
def addFp32 (acc : Nat) (g : Nat) : Nat × FpFlags :=
  let a := Fmt.fp32.value acc
  let b := Fmt.fp32.value g
  let s := Val.sum .rne [a, b]
  let (r, f) := roundFp32 s
  (r, f ||| ivFlag s [a, b])

/-- FP minimum and maximum (R207): a NaN yields to the other operand, −0 is below +0. -/
def fpMinMax (f : Fmt) (isMax : Bool) (a b : Nat) : Nat :=
  let va := f.value a
  let vb := f.value b
  if va.isNan && vb.isNan then f.nanBits
  else if va.isNan then b
  else if vb.isNan then a
  else
    let aLess := va.lt vb || (va.isZero && vb.isZero && va.sign && !vb.sign)
    if isMax then (if aLess then b else a) else (if aLess then a else if vb.lt va || (va.isZero && vb.isZero && vb.sign) then b else a)

/-! ### Scales (R57, R70, R71) -/

/-- S24 1.0. -/
def s24One : Nat := 0x7F0000

/-- The largest finite values M of R71 as n times two to the power e. -/
def scaleMax (f : Fmt) : Nat × Int :=
  match f with
  | .i8 => (127, 0) | .i16 => (32767, 0) | .i32 => (2 ^ 31 - 1, 0)
  | _ => match f.float with
    | some sp => (sp.maxN, sp.maxQ)
    | none => (1, 0)

/-- The scale of M over A for a target format (R71). -/
def scaleOf (f : Fmt) (a : Val) : Nat × FpFlags :=
  match a with
  | .inf _ => (0, flOF)
  | .nan => (s24One, 0)
  | .fin _ 0 _ => (s24One, 0)
  | .fin _ n e => roundS24 .rtz 0 none false (scaleMax f).1 n ((scaleMax f).2 - e)

/-- The largest entry of a ring (R71), an FP32 magnitude. -/
def Ring.largest (r : Ring) : Nat :=
  (r.entries.toList.take r.count).foldl (fun m x => if m < x.toNat then x.toNat else m) 0

/-- The scale a ring gives for a format (R71): 1.0 when empty. -/
def Ring.scale (r : Ring) (f : Fmt) : Nat × FpFlags :=
  if r.count = 0 then (s24One, 0) else scaleOf f (Fmt.fp32.value r.largest)

/-- A push (R70). -/
def Ring.push (r : Ring) (v : BitVec 32) : Ring :=
  { entries := vput r.entries (r.ptr % 16) v, ptr := (r.ptr + 1) % 16, count := if r.count < 16 then r.count + 1 else 16 }

/-- The largest magnitude of values, NaN ignored (R70). -/
def amaxVal (vs : List Val) : Val :=
  vs.foldl (fun m v => match v with
    | .nan => m
    | .inf _ => .inf false
    | .fin _ n e => if m.lt (.fin false n e) then .fin false n e else m) (Val.fin false 0 0)

/-- What a push of a magnitude writes: its exact FP32 value (R70, R214). The spec states no value for an INT32 magnitude
that FP32 does not hold: none, and the caller draws a free value (DESIGN CHOICE, log 20). -/
def pushBits (m : Val) : Option (BitVec 32) :=
  let (b, f) := roundFp32 m
  if f = 0 then some (BitVec.ofNat 32 b) else none

end Sys2Proof.Machine
end

