-- ==== Sys2Proof/Machine/Links.lean ====
section
/-! DEFINITION. The Halham links (R382 to R386): routes and ports, flits with their headers, the packets in which a device's
messages leave, and messages of the on-die fabric. -/

namespace Sys2Proof.Machine

open Sys2Proof

/-! ### Routes (R382, R383, R385) -/

/-- The direction in which a dimension-order route leaves a device (R382, R383): the first coordinate that differs, the
shorter way round the ring of four, at a distance of 2 the + way. -/
def torusDir (src dst : Nat) : Option Nat :=
  (List.range 3).findSome? fun (k : Nat) =>
    let way := (dst / 4 ^ k % 4 + 4 - src / 4 ^ k % 4) % 4
    if way = 0 then none else some (2 * k + way / 3)

/-- The device one step away in a direction. -/
def torusNext (dev dir : Nat) : Nat :=
  let k := dir / 2
  let x := dev / 4 ^ k % 4
  dev - x * 4 ^ k + (x + (if dir % 2 = 0 then 1 else 3)) % 4 * 4 ^ k

/-- The ports of a direction's trunk that carry traffic, in ascending order: those that are UP, or the DEGRADED ones when
none is (R383, R385). -/
def State.trunkPorts (s : State) (dir : Nat) : List Nat :=
  let ps := (List.range 3).map fun i => 3 * dir + i
  let on := fun (t : PortState) => ps.filter fun p => (vget {} s.ports p).st == t
  if (on .up).isEmpty then on .degraded else on .up

/-- Whether the own trunk of the route to a device is usable (R385). -/
def State.linkOk (s : State) (dst : Nat) : Bool :=
  match torusDir s.devId dst with
  | none => true
  | some d => !(s.trunkPorts d).isEmpty

/-- The port on which a packet leaves this device: of the u usable ports of its trunk the (s + t + n) mod u-th (R383);
none where the trunk is not usable. -/
def State.portOf (s : State) (src dst seq : Nat) : Option Nat :=
  match torusDir s.devId dst with
  | none => none
  | some d =>
    let ps := s.trunkPorts d
    ps[(src + dst + seq) % Nat.max 1 ps.length]?

/-! ### Flits (R384) -/

/-- CRC-32 of IEEE 802.3 over bytes, bit by bit. -/
def crcByte (c : BitVec 32) (b : Byte) : BitVec 32 :=
  (List.range 8).foldl (fun c i =>
    let x : Bool := c.getLsbD 0 ^^ b.getLsbD i
    let c := c >>> 1
    if x then c ^^^ 0xEDB88320#32 else c) c

def crc32 (bs : List Byte) : BitVec 32 := ~~~(bs.foldl crcByte 0xFFFFFFFF#32)

/-- A flit: its header and its payload. -/
abbrev Flit := Word × BitVec 512

/-- The CRC of a flit (R384): over header bits [31:0] and the payload. -/
def flitCrc (low : Nat) (payload : BitVec 512) : Nat := (crc32 (leBytes 4 low ++ leBytes 64 payload.toNat)).toNat

/-- Whether a flit is taken: its CRC holds and its TYPE is not reserved (R384). -/
def flitOk (header : Word) (payload : BitVec 512) : Bool :=
  header.toNat / 2 ^ 32 == flitCrc (header.toNat % 2 ^ 32) payload && decide (header.toNat % 16 ≤ 10)

/-- A flit's header (R384). -/
def flitHeader (seq : Nat) (last : Bool) (vc src dst ty : Nat) (payload : BitVec 512) : Word :=
  let low := seq % 4096 * 2 ^ 20 + last.toNat * 2 ^ 18 + vc % 4 * 2 ^ 16 + src % 64 * 2 ^ 10 + dst % 64 * 2 ^ 4 + ty % 16
  BitVec.ofNat 64 (flitCrc low payload * 2 ^ 32 + low)

/-- The fields of a header (R384). -/
def hdrSeq (h : Word) : Nat := field h.toNat 20 12
def hdrLast (h : Word) : Bool := h.getLsbD 18
def hdrVc (h : Word) : Nat := field h.toNat 16 2
def hdrSrc (h : Word) : Nat := field h.toNat 10 6
def hdrDst (h : Word) : Nat := field h.toNat 4 6
def hdrType (h : Word) : Nat := field h.toNat 0 4

/-- The TYPE of a message (R384). A routed beat travels as collective data (R401); the other assignments and the digest's
and the refusals' are read from the table's names (log 102). -/
def netType (m : NetMsg) : Nat :=
  match m with
  | .landing l => if l.kind == .routed then 3 else 0
  | .memRead .. | .memWrite .. | .memAtomic .. | .reduction _ => 0
  | .memResponse .. => 1
  | .ack _ => 2
  | .data p => if p.coded.isSome then 4 else 3
  | .nack .. => 5
  | .tidemark .. => 6
  | .completion .. => 8
  | .cancel .. => 9
  | .holdings .. => 10
  | .digest .. | .refusal .. | .landingRefused _ | .undeliverable _ => (Config.messageType m).val

/-- The virtual channel of a TYPE (R384): requests on 0, responses and acknowledgements on 1, collective data on 2, the
rest, which is control, on 3 (DEDUCED, log 102). -/
def typeVc (ty : Nat) : Nat :=
  match ty with
  | 0 => 0
  | 1 | 2 => 1
  | 3 | 4 => 2
  | _ => 3

/-- The bytes of a block id (R392). -/
def blockNum (b : BlockId) : Nat := b.tensor % 2 ^ 24 * 2 ^ 40 + b.owner % 64 * 2 ^ 34 + b.num % 2 ^ 34

/-- The block id of 64 bits. -/
def blockIdOf (n : Nat) : BlockId := ⟨field n 40 24, field n 34 6, field n 0 34⟩

/-- The descriptor flit of a coded packet (R407). -/
def codedPayload (d : CodedDesc) (slot gen : Nat) : BitVec 512 :=
  BitVec.ofNat 512 (ofLeBytes
    (leBytes 8 (blockNum d.a) ++ leBytes 8 (blockNum d.b) ++ leBytes 1 d.recvA ++ leBytes 1 d.recvB ++ leBytes 1 slot
      ++ leBytes 1 (gen % 16) ++ leBytes 2 d.lenA ++ leBytes 2 d.lenB ++ leBytes 4 d.idxB ++ leBytes 4 d.genB
      ++ leBytes 4 d.idxA ++ leBytes 4 d.genA))

/-- A descriptor flit read back: the descriptor, the slot and the generation (R407). -/
def codedOf (p : BitVec 512) : CodedDesc × Nat × Nat :=
  let f := fun (off n : Nat) => field p.toNat (8 * off) (8 * n)
  ({ a := blockIdOf (f 0 8), b := blockIdOf (f 8 8), recvA := f 0x10 1, recvB := f 0x11 1, lenA := f 0x14 2, lenB := f 0x16 2
     idxB := f 0x18 4, genB := f 0x1C 4, idxA := f 0x20 4, genA := f 0x24 4 }, f 0x12 1, f 0x13 1 % 16)

/-- Bytes as the payloads of consecutive flits. -/
def payloadsOf (bs : List Byte) : List (BitVec 512) :=
  (List.range ((bs.length + 63) / 64)).map fun i => BitVec.ofNat 512 (ofLeBytes ((bs.drop (64 * i)).take 64))

/-- The payloads that carry a message: a block's data, a coded packet's descriptor and data (R384, R407); the layout of
every other payload is the device's own (log 102). -/
def netPayloads (m : NetMsg) : List (BitVec 512) :=
  match m with
  | .data p => match p.coded with
    | some d => codedPayload d p.slot p.gen :: payloadsOf p.data
    | none => payloadsOf p.data
  | _ =>
    let (p, t) := Config.messagePayload m
    p :: t

/-- Flits of consecutive payloads under one header; the last is marked. -/
def flitsOf (seq vc src dst ty : Nat) : List (BitVec 512) → List Flit
  | [] => []
  | [p] => [(flitHeader seq true vc src dst ty p, p)]
  | p :: t => (flitHeader seq false vc src dst ty p, p) :: flitsOf seq vc src dst ty t

/-- The packet in which a message leaves its source (R384). -/
def netPacket (m : NetMsg) (src dst seq : Nat) : Packet :=
  { src := src, dst := dst, seq := seq, msg := m, flits := flitsOf seq (typeVc (netType m)) src dst (netType m) (netPayloads m) }

/-! ### Messages -/

/-- Puts a message on the on-die fabric. -/
def State.send (s : State) (i : Instr) : State := { s with wire := s.wire ++ [i] }

/-- Puts a message to another device or the host into the outbox. -/
def State.emit (s : State) (m : OutMsg) : State := { s with outbox := s.outbox ++ [m] }

def State.putPort (s : State) (n : Nat) (p : Port) : State := { s with ports := vput s.ports n p }

/-- Flits enter a port's replay buffer as they leave on it (R386). -/
def State.buffer (s : State) (port : Nat) (f : List Flit) : State :=
  let p : Port := vget {} s.ports port
  s.putPort port { p with inFlight := p.inFlight ++ f }

/-- A message leaves for another device (R383, R384) under the next packet sequence number; one whose trunk is not usable
does not leave (R385), and its sender answers for it. -/
def State.toDev (s : State) (dev : Nat) (m : NetMsg) : State :=
  match s.portOf s.devId dev s.packetSeq with
  | none => s
  | some port =>
    let p := netPacket m s.devId dev s.packetSeq
    (({ s with packetSeq := (s.packetSeq + 1) % 4096 } : State).buffer port p.flits).emit (.packet port p)

/-! ### Copies of a coded packet (R407) -/

/-- The devices on the route of a packet (R383); `fuel` bounds the hops. -/
def routeOf : Nat → Nat → Nat → List Nat
  | 0, _, _ => []
  | fuel + 1, src, dst => match torusDir src dst with
    | none => [src]
    | some d => src :: routeOf fuel (torusNext src d) dst

def commonPrefix : List Nat → List Nat → List Nat
  | a :: s, b :: t => if a = b then a :: commonPrefix s t else []
  | _, _ => []

/-- Whether the routes from a source to two receivers have not parted before a device. -/
def routesJoined (dev src u v : Nat) : Bool := (commonPrefix (routeOf 16 src u) (routeOf 16 src v)).contains dev

/-- The receivers to which a coded packet goes on from a device, each by its own copy: one where both routes leave it the
same way (R407). -/
def copiesFrom (dev src u v : Nat) : List Nat :=
  if !routesJoined dev src u v then []
  else if u = dev then [v]
  else if v = dev then [u]
  else if torusDir dev u = torusDir dev v then [u] else [u, v]

/-- A coded packet leaves for both its receivers under one sequence number (R407). -/
def State.toBoth (s : State) (u v : Nat) (m : NetMsg) : State :=
  let seq := s.packetSeq
  (copiesFrom s.devId s.devId u v).foldl (fun s dst => match s.portOf s.devId dst seq with
    | none => s
    | some port =>
      let p := netPacket m s.devId dst seq
      (s.buffer port p.flits).emit (.packet port p)) { s with packetSeq := (seq + 1) % 4096 }

end Sys2Proof.Machine
end

