-- ==== Sys2Proof/Machine/Ops.lean ====
section
/-! DEFINITION. The named operations over the state: access to quays and contexts, landing of results and effects,
restart marks and rollback, taking a fault (R167, R179 to R184) and the return from a handler (R153), memory and
scratchpad, stores and their draining (R25 to R35), bollards (R141) and messages. -/

namespace Sys2Proof.Machine

open Sys2Proof

/-- The outcome of a step. -/
abbrev Out := Host.Outcome State Fault Refusal

/-! ### Quays and contexts -/

/-- Quay `n`; one never written is as reset leaves it. -/
def State.quayAt (s : State) (n : Nat) : Quay := sparseGet {} s.quays n

def State.putQuay (s : State) (n : Nat) (q : Quay) : State := { s with quays := sparsePut s.quays n q }

/-- The acting quay. -/
def State.quay (s : State) : Quay := s.quayAt s.here

def State.setQuay (s : State) (q : Quay) : State := s.putQuay s.here q

def Quay.ctx (q : Quay) (c : Fin 8) : Context := q.ctxs.get c

def Quay.setCtx (q : Quay) (c : Fin 8) (x : Context) : Quay := { q with ctxs := q.ctxs.set c.val x }

/-- The context on whose behalf the slots of the acting quay run. -/
def State.ctx (s : State) : Context := s.quay.ctx s.quay.cctx

def State.setCtx (s : State) (x : Context) : State := s.setQuay (s.quay.setCtx s.quay.cctx x)

def State.updCtx (s : State) (f : Context → Context) : State := s.setCtx (f s.ctx)

def State.updQuay (s : State) (f : Quay → Quay) : State := s.setQuay (f s.quay)

/-- Acts with another context of the acting quay as the one the slots run for. -/
def State.asCtx (s : State) (c : Fin 8) (f : State → State) : State :=
  let old := s.quay.cctx
  (f (s.updQuay fun q => { q with cctx := c })).updQuay fun q => { q with cctx := old }

/-- Acts at another quay. -/
def State.atQuay (s : State) (q : Nat) (f : State → State) : State := { f { s with here := q } with here := s.here }

/-- Applies a change to a context of a quay given by numbers. -/
def State.updCtxAt (s : State) (q : Nat) (c : Fin 8) (f : Context → Context) : State :=
  s.putQuay q ((s.quayAt q).setCtx c (f ((s.quayAt q).ctx c)))

def State.jetty (s : State) : Jetty := sparseGet {} s.jetties (s.here / 4)

def State.setJetty (s : State) (j : Jetty) : State := { s with jetties := sparsePut s.jetties (s.here / 4) j }

/-- The context of a quay that runs a strand. -/
def State.ctxOf (s : State) (quay born : Nat) : Option (Fin 8) :=
  (List.finRange 8).find? fun n =>
    let c := (s.quayAt quay).ctx n
    c.st != .dormant && c.born == born

/-- Where a strand is now (R67, R183): the acting context, a context of the acting quay or of another, or the image of a
pager waiter. -/
def State.strandAt (s : State) (born : Nat) : Place :=
  if s.ctx.st != .dormant && s.ctx.born == born then .ctx s.here s.quay.cctx
  else match s.ctxOf s.here born with
  | some n => .ctx s.here n
  | none => match s.quays.findSome? fun e => (s.ctxOf e.1 born).map fun n => (e.1, n) with
    | some (q, n) => .ctx q n
    | none => match s.images.find? fun i => i.mooring.born == born with
      | some i => .image i.no
      | none => .gone

/-- Draws the number of a fresh free value. -/
def State.draw (s : State) : Nat × State := (s.fresh, { s with fresh := s.fresh + 1 })

/-- The basin of a quay (R131). -/
def basinOf (quay : Nat) : Nat := quay / 160

/-! ### Registers -/

/-- The value of a register before pending writes. -/
def Context.rawReg (c : Context) (r : RegId) : VWord :=
  match r with
  | .x i => (c.regs.x.get i).setWidth 2048
  | .y i => (c.regs.y.get i).setWidth 2048
  | .a i => (c.regs.a.get i).setWidth 2048
  | .e i => (c.regs.e.get i).setWidth 2048
  | .v i => c.v.get i
  | .w i => c.w.get i
  | .q i => if c.regs.q.get i then 1 else 0
  | .k i => if i = 0 then (BitVec.allOnes 256).setWidth 2048 else (c.k.get i).setWidth 2048
  | .g i => if i = 0 then (BitVec.allOnes 256).setWidth 2048 else (c.g.get i).setWidth 2048

/-- Writes a shadowed register into a register set; the vector files and the masks are not shadowed (R166). -/
def Shadowed.write (h : Shadowed) (r : RegId) (v : VWord) : Shadowed :=
  match r with
  | .x i => { h with x := h.x.set i.val (v.setWidth 64) }
  | .y i => { h with y := h.y.set i.val (v.setWidth 64) }
  | .a i => { h with a := h.a.set i.val (v.setWidth 64) }
  | .e i => { h with e := h.e.set i.val (v.setWidth 64) }
  | .q i => { h with q := h.q.set i.val (v.getLsbD 0) }
  | _ => h

/-- Writes a register. -/
def Context.writeReg (c : Context) (r : RegId) (v : VWord) : Context :=
  match r with
  | .v i => { c with v := c.v.set i.val v }
  | .w i => { c with w := c.w.set i.val v }
  | .k i => { c with k := c.k.set i.val (v.setWidth 256) }
  | .g i => { c with g := c.g.set i.val (v.setWidth 256) }
  | r => { c with regs := Shadowed.write c.regs r v }

/-- Whether a pending write is visible to a slot at a bundle index (R116). -/
def PendWrite.seen (w : PendWrite) (k : Slot) (j : Nat) : Bool :=
  if w.slot == k then decide (w.own ≤ j) else decide (w.other ≤ j)

/-- The value a slot reads at a bundle index: the last visible write, else the register (R116, R118). -/
def Context.readReg (c : Context) (k : Slot) (j : Nat) (r : RegId) : VWord :=
  c.pend.foldl (fun v w => if w.reg == r && w.seen k j then w.val else v) (c.rawReg r)

/-- The rank of a write among those of one register: its landing index, or for q its bundle and slot (R118). -/
def PendWrite.land (w : PendWrite) : Nat :=
  match w.reg with
  | .q _ => w.issued
  | _ => if w.homed then w.own else w.other

/-- Adds a write behind those of its register that land no later. -/
def insertPend (w : PendWrite) : List PendWrite → List PendWrite
  | [] => [w]
  | x :: t => if x.reg == w.reg && decide (w.land < x.land) then w :: x :: t else x :: insertPend w t

/-- The ST_CWCOL bit of a register's file (R118). -/
def RegId.colBit : RegId → BitVec 7
  | .x _ => 1 | .y _ => 2 | .a _ => 4 | .e _ => 8 | .v _ => 16 | .w _ => 32 | .q _ => 64 | _ => 0

/-- Whether two writes collide: they land in one register in the same cycle, or come from one bundle (R14, R118; the
second reading is DEDUCED, log 7). -/
def PendWrite.collides (a b : PendWrite) : Bool :=
  a.reg == b.reg && match a.reg with
    | .q _ => a.issued == b.issued
    | .k _ | .g _ => false
    | _ => (a.homed != b.homed || (!a.homed && a.slot != b.slot)) && (a.issued == b.issued || a.land == b.land)

/-- The number of a slot as ORIGIN has it (R181). -/
def slotNum : Slot → Nat
  | .s0 => 0 | .s1 => 1 | .m => 2 | .v0 => 3 | .v1 => 4 | .e => 5 | .b => 6

/-- Whether one of two colliding writes stands against the other (R118): among writes of q the later slot's, else the native
one, and among copies the later slot's. -/
def PendWrite.beats (a b : PendWrite) : Bool :=
  match a.reg with
  | .q _ => decide (slotNum b.slot ≤ slotNum a.slot)
  | _ => a.homed || (!b.homed && decide (slotNum b.slot ≤ slotNum a.slot))

/-- Enqueues a register write, resolving its collisions (R118), in whichever order the slots execute. -/
def Context.enqueue (c : Context) (w : PendWrite) : Context :=
  match c.pend.filter (PendWrite.collides w) with
  | [] => { c with pend := insertPend w c.pend }
  | os =>
    let c := { c with cwcol := c.cwcol ||| w.reg.colBit }
    if os.all w.beats then { c with pend := insertPend w (c.pend.filter fun x => !PendWrite.collides w x) } else c

/-- Lands every write visible to all slots at a bundle index. -/
def Context.settle (c : Context) (j : Nat) : Context :=
  let (now, later) := c.pend.partition fun w => decide (w.other ≤ j)
  { now.foldl (fun c w => c.writeReg w.reg w.val) c with pend := later }

/-- Lands every pending write. -/
def Context.landAll (c : Context) : Context :=
  { c.pend.foldl (fun c w => c.writeReg w.reg w.val) c with pend := [] }

/-! ### Effects that land (R129, R214, R218) -/

/-- A window change discards the context's fetched code words and empties its target buffers (R84, R148). -/
def Context.windowChange (c : Context) : Context :=
  { c with lines := [], held := [], regs := { c.regs with targets := Vector.replicate 8 {} } }

/-- What a STATW changes (R129, R130). -/
def statWrite (num : Nat) (v : Word) (s : State) : State :=
  match num with
  | 0x010 => s.updCtx fun c => { c with regs := { c.regs with lc := v.setWidth 32 } }
  | 0x012 => s.updCtx fun c =>
      { c with tcqskew := v.setWidth 4, regs := { c.regs with skewLeft := (v.setWidth 4).toNat } }
  | 0x020 => s.updCtx fun c => { c with regs := { c.regs with srseed := v.setWidth 32 } }
  | 0x021 => s.updCtx fun c => { c with fpflags := c.fpflags &&& ~~~(v.setWidth 5) }
  | 0x033 => s.updCtx fun c => { c with vecEn := v.getLsbD 32, vecPc := v.setWidth 32 }
  | 0x041 => s.updCtx fun c => { c with cwcol := c.cwcol &&& ~~~(v.setWidth 7) }
  | 0x060 => (s.updQuay fun q => { q with dictwin := v }).updCtx fun c => { c.windowChange with win := v }
  | 0x061 => s.updCtx fun c => { c.windowChange with regs := { c.windowChange.regs with dictsel := v.setWidth 2 } }
  | 0x080 => s.setJetty
      { s.jetty with strict := v.getLsbD 2, div := s.jetty.div && !v.getLsbD 3,
                     faultdec := s.jetty.faultdec && !v.getLsbD 4 }
  | _ => s

/-- Writes words of a bank. -/
def Bank.write (b : Bank) (cells : List (Nat × BitVec 32)) : Bank := { b with words := sparseSetAll 0 b.words cells }

/-- Performs one pending effect. -/
def Effect.apply (e : Effect) (s : State) : State :=
  match e with
  | .push r v _ => s.updQuay fun q => { q with rings := vput q.rings r ((vget {} q.rings r).push v) }
  | .bank b cells => s.updQuay fun q => { q with banks := vput q.banks b ((vget {} q.banks b).write cells) }
  | .bankOld _ _ => s
  | .statw n v => statWrite n v s
  | .flags f => s.updCtx fun c => { c with fpflags := c.fpflags ||| f }
  | .tcq b => s.updCtx fun c => { c with regs := { c.regs with tcq := c.regs.tcq ++ [b] } }

/-- Whether an effect is a push into a ring that lands before a cycle. -/
def Effect.pushBefore (r lim : Nat) : Effect → Bool
  | .push n _ cycle => n == r && decide (cycle < lim)
  | _ => false

/-- The cycle in which a push lands. -/
def Effect.cycle : Effect → Nat
  | .push _ _ cycle => cycle
  | _ => 0

/-- Puts an effect behind those that land no later. -/
def insertEffect (e : Effect) : List Effect → List Effect
  | [] => [e]
  | x :: t => if e.cycle < x.cycle then e :: x :: t else x :: insertEffect e t

/-- The pushes into a ring of the contexts that `p` picks and of engines land that do so before a cycle, in the order of their cycles,
an engine's behind the others of its cycle: a reader of a cycle sees the ring as it stood before that cycle's pushes (R72;
DEDUCED, log 113). -/
def State.landRing (s : State) (r lim : Nat) (p : Fin 8 → Bool) : State :=
  let from' := (List.finRange 8).filter p
  let es := from'.flatMap fun n => ((s.quay.ctx n).effects.map PendEffect.what).filter (Effect.pushBefore r lim)
  let en := s.quay.pushes.filter (Effect.pushBefore r lim)
  let s := from'.foldl (fun s n =>
    s.updCtxAt s.here n fun c => { c with effects := c.effects.filter fun e => !e.what.pushBefore r lim }) s
  let s := s.updQuay fun q => { q with pushes := q.pushes.filter fun e => !e.pushBefore r lim }
  ((es ++ en).foldl (fun l e => insertEffect e l) []).foldl (fun s e => e.apply s) s

/-- The rings once every engine's push has landed. -/
def Quay.ringsNow (q : Quay) : Vector Ring 64 :=
  q.pushes.foldl (fun k e => match e with
    | .push r v _ => vput k r ((vget {} k r).push v)
    | _ => k) q.rings

/-- An effect of the acting context lands: a push behind those of other contexts that land before it (R72). -/
def State.landEffect (s : State) (e : Effect) : State :=
  match e with
  | .push r _ cycle => e.apply (s.landRing r cycle fun n => n != s.quay.cctx)
  | _ => e.apply s

/-- Performs the effects that land by a bundle index, in order. -/
def State.settle (s : State) (j : Nat) : State :=
  let c := s.ctx
  let (now, later) := c.effects.partition fun e => decide (e.land ≤ j)
  let s := s.setCtx { c.settle j with effects := later }
  now.foldl (fun s e => s.landEffect e.what) s

/-- Lands every write and effect of the acting context. -/
def State.landAll (s : State) : State :=
  let c := s.ctx
  let s := s.setCtx { c.landAll with effects := [] }
  c.effects.foldl (fun s e => s.landEffect e.what) s

/-! ### Restart marks (R163 to R166) -/

/-- The state a mark shadows: every earlier operation applied (R165). The positions of the streams stand beside it. -/
def State.shadowNow (s : State) : Shadowed :=
  let c := s.landAll.ctx
  { c.regs with streamPos := Vector.ofFn fun i => (c.streams.get i).seq }

/-- Sets the acting context's mark at a bundle: its address and index. -/
def State.setMark (s : State) (pc : BitVec 32) (idx : Nat) : State :=
  let h := s.shadowNow
  s.updCtx fun c => { c with mark := pc, markIdx := idx, shadow := h }

/-- Sets the mark at a bundle with the state as it stood before that bundle, which was dispatched with every slot retired
through the earlier ones (R164). -/
def State.markAt (s : State) (pc : BitVec 32) (idx : Nat) : State :=
  s.updCtx fun c => { c with mark := pc, markIdx := idx, shadow := c.entry }

/-- Sets the mark at the bundle whose operation runs (R164). -/
def State.markHere (s : State) : State := s.markAt s.ctx.curPc s.ctx.bidx

/-- The mark of a committing operation or a yield: the bundle to be dispatched next (R164). -/
def State.markNext (s : State) : State := s.setMark s.ctx.pc (s.ctx.lastIdx + 1)

/-- A rollback of the acting context (R167): begun operations land, later loads are dropped, gated stores discarded,
shadows restored, latches emptied. Loads issued before the mark stay outstanding. A mark behind the last code word stands at
address 0, where the strand then runs on (DESIGN CHOICE, log 119). -/
def State.rollback (s : State) : State :=
  let s := s.landAll
  s.updCtx fun c =>
    { c with regs := c.shadow, gated := [], latches := [], queue := [], ran := [], realigns := [], held := [], lines := []
             pc := c.mark, seqEnd := false
             loads := c.loads.filter fun l => l.bidx < c.markIdx
             xlates := c.xlates.filter fun l => l.bidx < c.markIdx
             streams := Vector.ofFn fun i =>
               { c.streams.get i with seq := c.shadow.streamPos.get i, buf := [] }
             markIdx := c.lastIdx + 1, legStart := true, waitCycles := 0, futw := none }

/-! ### Physical memory (R25, R26) -/

/-- The memory types of R25. -/
inductive MemType where
  | hbm | peer | host
  deriving DecidableEq, Repr

/-- The device's own HBM is named by its HBM range or by the haven window under its own id (R26). -/
def State.normPhys (s : State) (pa : Nat) : Nat :=
  if pa / 2 ^ 48 = 4 ∧ field pa 42 6 = s.devId then pa % 2 ^ 42 else pa

/-- The memory type of a physical address, or PERMISSION (R26); LINK_DOWN where the route to a peer needs an unusable
trunk of this device (R385). -/
def State.memType (s : State) (pa : Nat) : Except FaultCode MemType :=
  if pa < 0xC000000000 then .ok .hbm
  else if pa / 2 ^ 48 = 4 then
    if pa % 2 ^ 42 ≥ 0xC000000000 then .error .permission
    else if field pa 42 6 = s.devId then .ok .hbm
    else if s.members.getLsbD (field pa 42 6) then (if s.linkOk (field pa 42 6) then .ok .peer else .error .linkDown)
    else .error .permission
  else if 8 ≤ pa / 2 ^ 48 ∧ pa / 2 ^ 48 < 16 then .ok .host
  else .error .permission

/-- The physical address of a host address (R25). -/
def hostPhys (a : Nat) : Nat := 2 ^ 51 + a % 2 ^ 51

/-- What an unlisted byte of memory or of scratchpad reads as (DESIGN CHOICE, log 2). -/
def memDefault : Byte := 0

/-- Reads one byte at a physical address. -/
def State.readByte (s : State) (pa : Nat) : Byte := sparseGet memDefault s.mem (s.normPhys pa)

/-- Writes one byte at a physical address, in canonical form. -/
def State.writeByte (s : State) (pa : Nat) (b : Byte) : State :=
  { s with mem := sparseSet memDefault s.mem (s.normPhys pa) b }

/-- The canonical form of memory. -/
abbrev Memory.wf (m : List Host.Cell) : Bool := sparseWf memDefault m

def State.readBytes (s : State) (pa n : Nat) : List Byte := (List.range n).map fun i => s.readByte (pa + i)

def State.writeBytes (s : State) : Nat → List Byte → State
  | _, [] => s
  | pa, b :: t => (s.writeByte pa b).writeBytes (pa + 1) t

/-- A little-endian number in memory (R3). -/
def State.readNum (s : State) (pa n : Nat) : Nat := ofLeBytes (s.readBytes pa n)

/-- Whether HBM answers: none of its stacks failed; `waits` while one is still training (R431). -/
def State.hbmFailed (s : State) : Bool := s.host.hbmFail != 0
def State.hbmWaits (s : State) : Bool := s.host.hbmReady != 0xFF

/-! ### Translation (R133) -/

/-- The page sizes of R133. -/
def pageBytes (code : Nat) : Nat :=
  match code with
  | 0 => 2 ^ 16
  | 1 => 2 ^ 21
  | _ => 2 ^ 30

/-- The mapping of a virtual address in a slice. -/
def State.translate (s : State) (slice va : Nat) : Option Mapping :=
  s.pages.find? fun m => m.slice == slice && decide (m.va ≤ va) && decide (va < m.va + pageBytes m.size)

/-- The physical address of a virtual address under a mapping. -/
def mapPhys (m : Mapping) (va : Nat) : Nat := m.pa + (va - m.va)

/-- The physical address of an address of system software that is no slice's: a device virtual one where some page holds it, else
a host-physical one, which names the device's own HBM in the range at which the host sees it (R428, R429; DESIGN CHOICE, log
71). -/
def State.softPhys (s : State) (a : Nat) : Nat :=
  match s.pages.find? fun m => decide (m.va ≤ a) && decide (a < m.va + pageBytes m.size) with
  | some m => mapPhys m a
  | none =>
    if Config.hdmBase ≤ a ∧ a < Config.hdmBase + 0xC000000000 then a - Config.hdmBase else hostPhys a

/-- Writes bytes at an offset of an image in the image pool (R169). -/
def State.writePool (s : State) (no off : Nat) (bs : List Byte) : State :=
  let a := s.host.imgBase.toNat + 18688 * no + off
  (bs.zipIdx).foldl (fun s p => s.writeByte (s.softPhys (a + p.2)) p.1) s

/-- The 64 KiB page number of a virtual address. -/
def pageOf (va : Nat) : Nat := va / 2 ^ 16

/-! ### Scratchpad (R27, R438) -/

/-- The scratchpad's size. -/
def spBytes : Nat := 0x300000

/-- The storage a swizzled offset names: the bank is offset[10:6] XOR offset[15:11] (R27). -/
def swizzle (off : Nat) : Nat :=
  off / 2 ^ 11 * 2 ^ 11 + ((field off 6 5) ^^^ (field off 11 5)) * 2 ^ 6 + off % 2 ^ 6

/-- The storage of an offset into a range, in a view. -/
def spStore (base : Nat) (swz : Bool) (off : Nat) : Nat := if swz then swizzle (base + off) else base + off

def Quay.spByte (q : Quay) (o : Nat) : Byte := sparseGet memDefault q.sp o

/-- Reads a byte of a location at the acting quay. -/
def State.readLoc (s : State) (l : Loc) : Byte :=
  match l with
  | .sp o => s.quay.spByte o
  | .phys p => s.readByte p

/-! ### Watch comparators (R303) and the L1 (R31) -/

/-- Whether a written location falls into a table register's watch range. -/
def WatchRange.hits (r : WatchRange) (l : Loc) : Bool :=
  match r, l with
  | .rows a b, .sp o => decide (a ≤ o / 2 ^ 11) && decide (o / 2 ^ 11 ≤ b)
  | .lines a b, .phys p => decide (a ≤ p / 64) && decide (p / 64 ≤ b)
  | _, _ => false

/-- A comparator generation rises, up to 0xFFFF_FFFF. -/
def nextGen (g : BitVec 32) : BitVec 32 := if g = 0xFFFFFFFF then g else g + 1

/-- A register whose armed comparator a write touches. -/
def TabReg.watched (ls : List Loc) (t : TabReg) : TabReg :=
  if t.armed && ls.any t.range.hits then
    { t with valid := false, gen := nextGen t.gen, dirty := true }
  else t

/-- A location with its physical address as R26 normalizes it. -/
def State.normLoc (s : State) (l : Loc) : Loc :=
  match l with
  | .sp o => .sp o
  | .phys p => .phys (s.normPhys p)

/-- One write passes the comparators of the acting quay before it performs (R303, R304): an armed register whose range
it touches loses VALID, and its GEN rises, up to 0xFFFF_FFFF. -/
def State.watchWrite (s : State) (ls : List Loc) : State :=
  let ls := ls.map s.normLoc
  if s.quay.tabs.toList.any (fun t => t.armed && ls.any t.range.hits) then
    s.updQuay fun q => { q with tabs := q.tabs.map (TabReg.watched ls) }
  else s

/-- Several element writes are one watched write of the quay: a beat, a stream element, a VRED (R303; what counts as one is a
DESIGN CHOICE, log 100). A comparator's generation rises at most once from the state before. -/
def State.oneWrite (old new : State) : State :=
  let tabs := Vector.ofFn fun (i : Fin 32) =>
    let a := old.quay.tabs.get i
    let b := new.quay.tabs.get i
    if a.gen = b.gen then b else { b with gen := nextGen a.gen }
  if new.quay.tabs.toList.map TabReg.gen == old.quay.tabs.toList.map TabReg.gen then new
  else new.updQuay fun q => { q with tabs := tabs }

/-- A write to memory that no comparator of the quay watches (R304). -/
def State.unwatched (old new : State) : State := new.updQuay fun q => { q with tabs := old.quay.tabs }

/-- Splits the cells of a write into scratchpad and physical ones. -/
def spCells (cells : List (Loc × Byte)) : List (Nat × Byte) :=
  cells.filterMap fun p => match p.1 with
    | .sp o => some (o, p.2)
    | .phys _ => none

def State.physCells (s : State) (cells : List (Loc × Byte)) : List (Nat × Byte) :=
  cells.filterMap fun p => match p.1 with
    | .sp _ => none
    | .phys a => some (s.normPhys a, p.2)

/-- The device's L2 gives up its copies of peer lines that hold some bytes. -/
def dropCopies (as : List Nat) (l2 : List (Nat × BitVec 1024)) : List (Nat × BitVec 1024) :=
  l2.filter fun x => !as.any fun a => a / 128 == x.1

/-- Writes bytes at locations of the acting quay, as one write of an agent of the quay; the device's L2 keeps no older copy of a
peer line written (R31). -/
def State.writeLocs (s : State) (cells : List (Loc × Byte)) : State :=
  let s := s.watchWrite (cells.map Prod.fst)
  let ps := s.physCells cells
  let s := { s with mem := sparseSetAll memDefault s.mem ps, l2 := dropCopies (ps.map Prod.fst) s.l2 }
  match spCells cells with
  | [] => s
  | sc => s.updQuay fun q => { q with sp := sparseSetAll memDefault q.sp sc }

/-- An M-slot store invalidates its lines in every L1 (R31), and the device's own L2 copies of the peer lines it writes. -/
def State.dropLines (s : State) (cells : List (Loc × Byte)) : State :=
  match (s.physCells cells).map fun p => p.1 / 64 with
  | [] => s
  | lines =>
    { s with
      quays := s.quays.map fun e => (e.1, { e.2 with l1 := e.2.l1.filter fun x => !lines.contains x.1 })
      l2 := s.l2.filter fun x => !lines.any fun n => n / 2 == x.1 }

/-- The L2 slice and the set of a 128-byte line: 320 slices of 512 sets (R1; which slice is the home of a line is a DESIGN
CHOICE, log 103). -/
def l2Place (line : Nat) : Nat × Nat := (line % 320, line / 320 % 512)

/-- Brings a peer line into the L2, dropping the oldest of a full set of 16 (R1; first in, first out: DESIGN CHOICE, log 103). -/
def State.fillL2 (s : State) (line : Nat) : State :=
  if s.l2.any fun x => x.1 == line then s
  else
    let same := s.l2.filter fun x => l2Place x.1 == l2Place line
    let l2 := if same.length ≥ 16 then match same with
        | [] => s.l2
        | x :: _ => s.l2.filter fun y => y.1 != x.1
      else s.l2
    { s with l2 := l2 ++ [(line, BitVec.ofNat 1024 (s.readNum (line * 128) 128))] }

/-- A 64-byte line as an L1 miss receives it: the own HBM's from its home, a peer's from the device's L2 copy (R35, R39). -/
def State.lineData (s : State) (line : Nat) : BitVec 512 × State :=
  if line / 2 ^ 42 = 4 then
    let s := s.fillL2 (line / 2)
    match s.l2.find? fun x => x.1 == line / 2 with
    | some (_, d) => (BitVec.ofNat 512 (d.toNat / 2 ^ (512 * (line % 2))), s)
    | none => (0, s)
  else (BitVec.ofNat 512 (s.readNum (line * 64) 64), s)

/-- The quay whose L1 slice holds a line: the quay's own, or by line address bits [7:6] in a fused L1 (R189). -/
def State.l1Home (s : State) (line : Nat) : Nat :=
  if s.jetty.l1fused then s.here / 4 * 4 + line % 4 else s.here

/-- The set of a line: 256 sets of a 64 KiB 4-way L1 (R1); with a fused L1 the bits [15:8] (R189). -/
def State.l1Set (s : State) (line : Nat) : Nat := if s.jetty.l1fused then line / 4 % 256 else line % 256

/-- Brings a line into the L1, dropping the oldest of a full set (first in, first out: DESIGN CHOICE, log 9). -/
def State.fillLine (s : State) (line : Nat) : State :=
  let h := s.l1Home line
  let q := s.quayAt h
  if q.l1.any (fun x => x.1 == line) then s
  else
    let same := q.l1.filter fun x => s.l1Set x.1 == s.l1Set line
    let l1 := if same.length ≥ 4 then match same with
        | [] => q.l1
        | x :: _ => q.l1.filter fun y => y.1 != x.1
      else q.l1
    let (d, s) := s.lineData line
    s.putQuay h { q with l1 := l1 ++ [(line, d)] }

/-- Reads a byte through the L1, filling the line. -/
def State.readL1 (s : State) (pa : Nat) : Byte × State :=
  let p := s.normPhys pa
  let s := s.fillLine (p / 64)
  match (s.quayAt (s.l1Home (p / 64))).l1.find? fun x => x.1 == p / 64 with
  | some (_, d) => (BitVec.ofNat 8 (d.toNat / 2 ^ (8 * (p % 64))), s)
  | none => (s.readByte p, s)

/-- The quays whose L1 slices hold the lines of the acting quay's loads: its own, or the four of a fused L1 (R189). -/
def State.l1Quays (s : State) : List Nat :=
  if s.jetty.l1fused then (List.range 4).map fun p => s.here / 4 * 4 + p else [s.here]

/-- Lines that a strand has read at their homes leave the L1 of the acting quay and the device's L2: no later load of the strand
reads an older value there (R30). -/
def State.dropOwnLines (s : State) (lines : List Nat) : State :=
  s.l1Quays.foldl (fun s q =>
    s.putQuay q { s.quayAt q with l1 := (s.quayAt q).l1.filter fun x => !lines.contains x.1 })
    { s with l2 := dropCopies (lines.map (· * 64)) s.l2 }

/-- The L1 of the acting quay, fused or not, holds no line. -/
def State.emptyL1 (s : State) : State := s.l1Quays.foldl (fun s q => s.putQuay q { s.quayAt q with l1 := [] }) s

/-- An acquire at a scope (R28, R35): from device scope on later loads do not hit lines of the L1, which engines, other devices
and the host may have changed since (DEDUCED, log 117); at haven and system scope the device's L2 copies of peer lines are
discarded too. -/
def State.acquire (s : State) (scope : Nat) : State :=
  if scope < 2 then s else if scope = 2 then s.emptyL1 else { s.emptyL1 with l2 := [] }

/-! ### The pager's part of a fault (R176) -/

/-- Whether a page lies in a range already delivered and not answered. -/
def FaultRange.covers (r : FaultRange) (slice page : Nat) : Bool :=
  r.slice == slice && decide (r.page ≤ page) && decide (page < r.page + r.pages)

/-- Reports a translation fault to the pager; one on a page of a delivered range joins that range's future. -/
def State.pagerAdd (s : State) (f : PageFault) : State :=
  if s.pager.delivered.any (fun r => r.covers f.slice f.page) then
    let join : FaultRange → FaultRange := fun r => { r with members := r.members ++ [f] }
    let l := listUpdate (fun r => r.covers f.slice f.page) join s.pager.delivered
    { s with pager := { s.pager with delivered := l } }
  else
    let p := s.pager
    { s with pager :=
      { p with batch := p.batch ++ [f], batchTime := if p.batch.isEmpty then s.refTime else p.batchTime } }

/-- Numbers a fault and reports it. -/
def State.pagerFault (s : State) (f : PageFault) : State :=
  let n := s.pager.nextFault
  ({ s with pager := { s.pager with nextFault := n + 1 } } : State).pagerAdd { f with id := n }

/-- Keeps the first fault code of a crew (R341). -/
def State.noteFault (s : State) (crew : Option Nat) (code : Nat) : State :=
  { s with crews := s.crews.map fun c => if some c.id == crew && c.firstFault == 0 then { c with firstFault := code } else c }

/-! ### Taking a fault (R167, R179 to R184) -/

/-- What a fault records (R181): `va` is none where the spec names no address for the fault; `trans` tells the
translation class for HANDLE_INVALID by the handle's PAGE bit; `access` is the access of R177; `page` the page waited
for, when it is not that of `va`; `hd` is the handle that the access came through. -/
structure FaultInfo where
  code : FaultCode
  origin : Nat
  va : Option Word := none
  trap : Nat := 0
  tm : Nat := 0
  pc : BitVec 32
  lit : Bool
  trans : Bool := false
  access : BitVec 4 := 0
  page : Option Nat := none
  hd : Option (Fin 16) := none
  deriving DecidableEq, Repr

/-- The vectored class (R179). -/
def isVectored : FaultCode → Bool
  | .softwareTrap | .tableStale | .manifestStale => true
  | _ => false

/-- The translation class (R179), but for HANDLE_INVALID, which `FaultInfo.trans` decides. -/
def isTranslation : FaultCode → Bool
  | .fetchFault | .handlePending => true
  | _ => false

/-- ST_FAULT (R181). -/
def FaultInfo.word (f : FaultInfo) : BitVec 32 :=
  BitVec.ofNat 32 (f.trap % 256 * 2 ^ 24 + f.lit.toNat * 2 ^ 20 + f.origin % 16 * 2 ^ 16 + f.tm % 64 * 2 ^ 8 + f.code.code)

/-- Writes the fault registers of the acting context. ST_FAULTVA of a fault without an address is a free value (log 20). -/
def State.recordFault (s : State) (f : FaultInfo) : State :=
  match f.va with
  | some v => s.updCtx fun c => { c with fault := f.word, faultPc := f.pc, faultVa := v }
  | none =>
    let (n, s) := s.draw
    s.updCtx fun c => { c with fault := f.word, faultPc := f.pc, faultVa := Config.freeWord n }

/-- Moves the acting context's gated stores into the quay's drained stores (R32). -/
def State.drain (s : State) : State :=
  let g := s.ctx.gated
  (s.updCtx fun c => { c with gated := [] }).updQuay fun q => { q with drained := q.drained ++ g }

/-- A fault in a fused quay takes that quay out of lock-step and sets FAULTDEC (R187). -/
def State.leaveLockstep (s : State) : State :=
  let j := s.jetty
  if j.fused && j.members.getLsbD (s.here % 4) then
    s.setJetty { j with members := j.members &&& ~~~(BitVec.twoPow 4 (s.here % 4)), faultdec := true }
  else s

/-- The fused context of the acting quay while it is in lock-step (R185). -/
def State.lockedCtx (s : State) : Option Nat :=
  if s.jetty.fused && s.jetty.members.getLsbD (s.here % 4) then some (vget 0 s.jetty.fctx (s.here % 4)) else none

/-- The acting quay's fused context stops: it leaves lock-step (R186). -/
def State.quitLockstep (s : State) : State :=
  match s.lockedCtx with
  | some f => if f == s.quay.cctx.val then
      s.setJetty { s.jetty with members := s.jetty.members &&& ~~~(BitVec.twoPow 4 (s.here % 4)) } else s
  | none => s

/-- A fused context that stops waits at no REJOIN any longer (R186). -/
def State.dropRejoin (s : State) : State :=
  let j := s.jetty
  if j.rejoin.getLsbD (s.here % 4) && vget 0 j.fctx (s.here % 4) == s.quay.cctx.val then
    s.setJetty { j with rejoin := j.rejoin &&& ~~~(BitVec.twoPow 4 (s.here % 4)) }
  else s

/-- Vectoring to the handler (R182): the stores drain, HANDLER is set, the handler's first bundle becomes the mark. -/
def State.vector (s : State) : State :=
  let s := s.drain
  let s := s.updCtx fun c =>
    { c with handler := true, pc := c.vecPc, queue := [], realigns := [], held := [], seqEnd := false, lines := []
             waitCycles := 0 }
  s.markNext

/-- The acting context becomes a pager waiter (R167, R168): PARKED until its image is written. -/
def State.park (s : State) (w : WaitOn) : State :=
  s.rollback.quitLockstep.dropRejoin.updCtx fun c =>
    { c with st := .parked, waitOn := w, waitHd := none, answered := false, served := []
             parkCode := match w with
               | .page _ _ _ => c.fault.toNat % 256
               | _ => 0 }

/-- Takes a fault in the acting context, by class (R179): a translation fault parks it for the pager; a vectored fault
enters the handler when vectoring is enabled and no handler runs; any other rolls back, and the context becomes FAULTED
and the system context is told (R13, R184). -/
def State.takeFault (s : State) (f : FaultInfo) : State :=
  let s := (s.recordFault f).leaveLockstep.dropRejoin
  if isTranslation f.code || f.trans then
    let page := f.page.getD (pageOf s.ctx.faultVa.toNat)
    let ticket := match f.hd with
      | some i => let h := s.ctx.regs.h.get i; if h.pend then some h.ticket else none
      | none => none
    ((s.park (.page s.ctx.slice page s.pager.nextFault)).updCtx fun c => { c with waitHd := f.hd }).pagerFault
      { slice := s.ctx.slice, page := page, access := f.access, waiter := .context s.here s.quay.cctx.val, ticket := ticket }
  else if isVectored f.code && s.ctx.vecEn && !s.ctx.handler then s.vector
  else
    let s := s.rollback.updCtx fun c => { c with st := .faulted }
    let s := s.noteFault s.ctx.crew f.code.code
    { s with sysInbox := s.sysInbox ++ [⟨f.code.code, s.here, s.quay.cctx.val, s.ctx.crew, s.ctx.faultVa⟩] }

/-- A fault of a slot operation of the current bundle. -/
def State.slotFault (s : State) (k : Slot) (code : FaultCode) (va : Option Word := none) (trans : Bool := false)
    (access : BitVec 4 := 0) (page : Option Nat := none) (hd : Option (Fin 16) := none) : State :=
  s.takeFault
    { code := code, origin := slotNum k, va := va, pc := s.ctx.curPc, lit := s.ctx.curLit, trans := trans
      access := access, page := page, hd := hd }

/-- The return from a handler (R153, R182): HANDLER is cleared and the strand transfers to ST_FAULTPC, or past that
bundle, whose length ST_FAULT.LIT tells; the bundle it transfers to becomes the mark. -/
def State.faultReturn (s : State) (skip : Bool) : State :=
  let s := s.updCtx fun c =>
    { c with handler := false, seqEnd := false, held := []
             pc := if skip then c.faultPc + (if c.fault.getLsbD 20 then 25 else 1) else c.faultPc }
  s.markNext

/-! ### Reductions (R138, R254, R402) -/

/-- 64-bit integer combinations (R138). -/
def combineU64 (op : RedOp) (old v : BitVec 64) : BitVec 64 :=
  match op with
  | .add => old + v
  | .and => old &&& v
  | .or => old ||| v
  | .xor => old ^^^ v
  | .min => if v.slt old then v else old
  | .max => if old.slt v then v else old
  | .minu => if v < old then v else old
  | .maxu => if old < v then v else old
  | .fadd => old

/-- Integer combinations of `w` bits with Sat on ADD (R138, R254). -/
def combineInt (w : Nat) (op : RedOp) (old v : BitVec w) : BitVec w × FpFlags :=
  match op with
  | .add =>
    let i := old.toInt + v.toInt
    (BitVec.ofInt w (satInt w i), flagIf (satInt w i ≠ i) flSAT)
  | .min => (if v.slt old then v else old, 0)
  | .max => (if old.slt v then v else old, 0)
  | .minu => (if v < old then v else old, 0)
  | .maxu => (if old < v then v else old, 0)
  | .and => (old &&& v, 0)
  | .or => (old ||| v, 0)
  | .xor => (old ^^^ v, 0)
  | .fadd => (old, 0)

/-- Floating-point combinations (R75, R207, R254): the sum rounded once, minimum and maximum. -/
def combineFp (f : Fmt) (op : RedOp) (old v : Nat) : Nat × FpFlags :=
  match op with
  | .add | .fadd =>
    let ts := [f.value old, f.value v]
    let x := Val.sum .rne ts
    let (r, fl) := f.round .rne 0 none x
    (r, fl ||| ivFlag x ts)
  | .max => (fpMinMax f true old v, 0)
  | _ => (fpMinMax f false old v, 0)

/-- The bytes of a reduction's element. -/
def redBytes (t : RedTy) : Nat :=
  match t with
  | .u64 => 8
  | .sat32 | .f32 => 4
  | .fmt c => match Fmt.ofCode c with
    | some f => f.bits / 8
    | none => 1

/-- Combines one element: the new value and the flags (R138, R254). -/
def combine (op : RedOp) (t : RedTy) (old v : BitVec 64) : BitVec 64 × FpFlags :=
  match t with
  | .u64 => (combineU64 op old v, 0)
  | .sat32 =>
    let (r, f) := combineInt 32 op (old.setWidth 32) (v.setWidth 32)
    (r.setWidth 64, f)
  | .f32 =>
    let (r, f) := combineFp .fp32 op (old.setWidth 32).toNat (v.setWidth 32).toNat
    (BitVec.ofNat 64 r, f)
  | .fmt c => match Fmt.ofCode c with
    | some .i8 => let (r, f) := combineInt 8 op (old.setWidth 8) (v.setWidth 8); (r.setWidth 64, f)
    | some .i16 => let (r, f) := combineInt 16 op (old.setWidth 16) (v.setWidth 16); (r.setWidth 64, f)
    | some .i32 => let (r, f) := combineInt 32 op (old.setWidth 32) (v.setWidth 32); (r.setWidth 64, f)
    | some g => let (r, f) := combineFp g op (old.toNat % 2 ^ g.bits) (v.toNat % 2 ^ g.bits); (BitVec.ofNat 64 r, f)
    | none => (old, 0)

/-- The location `i` bytes on. -/
def Loc.plus (l : Loc) (i : Nat) : Loc :=
  match l with
  | .sp o => .sp (o + i)
  | .phys p => .phys (p + i)

/-- The cells of a value of `n` bytes at a location. -/
def cellsOf (l : Loc) (n : Nat) (v : Nat) : List (Loc × Byte) :=
  (leBytes n v).zipIdx.map fun p => (l.plus p.2, p.1)

/-- Reads `n` bytes at a location as a number. -/
def State.readLocNum (s : State) (l : Loc) (n : Nat) : Nat :=
  ofLeBytes ((List.range n).map fun i => s.readLoc (l.plus i))

/-- Combines elements at their locations, in order; the flags of all. -/
def State.combineElems (s : State) (op : RedOp) (t : RedTy) : List (Loc × BitVec 64) → State × FpFlags
  | [] => (s, 0)
  | (l, v) :: r =>
    let n := redBytes t
    let (x, f) := combine op t (BitVec.ofNat 64 (s.readLocNum l n)) v
    let (s, g) := (s.writeLocs (cellsOf l n x.toNat)).combineElems op t r
    (s, f ||| g)

/-- Applies the elements of a reduction as one write; the flags of all. -/
def State.applyElems (s : State) (op : RedOp) (t : RedTy) (es : List (Loc × BitVec 64)) : State × FpFlags :=
  let (n, f) := s.combineElems op t es
  (s.oneWrite n, f)

/-- Sets a ready tag in a context: the mark keeps it too, since the command is not issued again. -/
def Context.setTag (c : Context) (t : Fin 16) : Context :=
  if t = 0 then c
  else
    let m : BitVec 16 := BitVec.twoPow 16 t.val
    { c with
      regs := { c.regs with tags := c.regs.tags ||| m }
      shadow := { c.shadow with tags := c.shadow.tags ||| m }
      entry := { c.entry with tags := c.entry.tags ||| m } }

/-- What a strand receives from a command or a reduction: a ready tag and flags (R67, R175); in an image they are written
to the image pool as well, and a strand in neither place receives nothing. -/
def State.give (s : State) (born : Nat) (tag : Fin 16) (f : BitVec 5) : State :=
  match s.strandAt born with
  | .ctx q c => s.updCtxAt q c fun x => { x.setTag tag with fpflags := x.fpflags ||| f }
  | .image n =>
    let upd : Image → Image := fun i =>
      if i.no == n then { i with ctx := { i.ctx.setTag tag with fpflags := i.ctx.fpflags ||| f } } else i
    let s := { s with images := s.images.map upd }
    match s.images.find? fun i => i.no == n with
    | none => s
    | some i => (s.writePool n 0x20 (leBytes 2 i.ctx.regs.tags.toNat)).writePool n 0x28 (leBytes 1 i.ctx.fpflags.toNat)
  | .gone => s

/-- ORs flags into a strand's ST_FPFLAGS. -/
def State.raise (s : State) (born : Nat) (f : FpFlags) : State := if f = 0 then s else s.give born 0 f

/-- Whether an outstanding load lands by itself: all but a TMW, which waits for its tidemark (R143). -/
def OLoad.lands (l : OLoad) : Bool :=
  match l.form with
  | .tm _ _ _ => false
  | _ => true

/-- Whether the acting strand has loads that have not bound their values (R135). -/
def State.unbound (s : State) : Bool := s.ctx.loads.any OLoad.lands

/-! ### Stores (R31, R32, R138) -/

/-- The stack of an HBM address: the eight stacks are interleaved by 64-byte line (R1, R402; the interleave unit is a
DESIGN CHOICE, log 22). -/
def stackOf (pa : Nat) : Nat := pa / 64 % 8

/-- The device whose memory a physical address names: this one, or the peer of the haven window (R25, R26). -/
def State.homeDev (s : State) (pa : Nat) : Nat :=
  let p := s.normPhys pa
  if p / 2 ^ 48 = 4 then field p 42 6 else s.devId

/-- The crew of a strand's M slot or of a command, which a reduction comes from. -/
def State.redCrew (s : State) (o : Nat) (cmd : Option Nat) : Option Nat :=
  match cmd with
  | some n => (s.quay.dock.find? fun d => d.seq == n).bind fun d => d.crew
  | none => match s.strandAt o with
    | .ctx q c => ((s.quayAt q).ctx c).crew
    | .image n => (s.images.find? fun i => i.no == n).bind fun i => i.ctx.crew
    | .gone => none

/-- A memory-side reduction of a strand takes the next tag of the acting quay (R402). -/
def State.tagReduction (s : State) (o : Nat) (ctx : Fin 8) (cmd : Option Nat) (op : RedOp) (t : RedTy)
    (elems : List (Nat × BitVec 64)) (upto : Nat) : Reduction × State :=
  let q := s.quay
  let det : Bool := match s.redCrew o cmd with
    | some id => s.crews.any fun c => c.id == id && c.lr.raw.getLsbD 8
    | none => false
  ({ dev := s.devId, quay := s.here, seq := q.redSeq.toNat, ctx := ctx.val, cmd := cmd, op := op, ty := t, elems := elems
     upto := upto, sentAt := q.cycle.toNat, owner := o, det := det }, s.setQuay { q with redSeq := q.redSeq + 1 })

/-- Sends a memory-side reduction with its tag (R402): to its home on this device, or in a packet to its peer (R383). The
memory of a peer is part of the model's memory, so the reduction reaches its home there by the same message. -/
def State.sendReduction (s : State) (o : Nat) (ctx : Fin 8) (cmd : Option Nat) (op : RedOp) (t : RedTy)
    (elems : List (Nat × BitVec 64)) (upto : Nat := 0) : State :=
  let (r, s) := s.tagReduction o ctx cmd op t elems upto
  let s := s.updQuay fun q => { q with unacked := q.unacked ++ [(r.seq, o, r)] }
  let s := match elems with
    | [] => s
    | (a, _) :: _ => if s.homeDev a = s.devId then s else s.toDev (s.homeDev a) (.reduction r)
  s.send (.memoryReductionApply r)

/-- The physical elements of a reduction. -/
def physElems (es : List (Loc × BitVec 64)) : List (Nat × BitVec 64) :=
  es.filterMap fun p => match p.1 with
    | .phys a => some (a, p.2)
    | .sp _ => none

def spElems (es : List (Loc × BitVec 64)) : List (Loc × BitVec 64) :=
  es.filter fun p => match p.1 with
    | .sp _ => true
    | .phys _ => false

/-- The base die whose filter a reduction meets: that of the stack of its first line (R402). -/
def State.filterStack (s : State) (es : List (Nat × BitVec 64)) : Nat :=
  match es with
  | [] => 0
  | (a, _) :: _ =>
    let p := s.normPhys a
    if p / 2 ^ 48 = 4 then 8 + field p 42 6 * 8 + stackOf p else stackOf p

/-- How many reductions the quay may still send toward a base die: at most 256 stay unacknowledged (R402). -/
def State.redSpace (s : State) (stack : Nat) : Nat :=
  256 - (s.quay.unacked.filter fun u => s.filterStack u.2.2.elems == stack).length

/-- Whether the quay may send another reduction toward a base die. -/
def State.redRoom (s : State) (stack : Nat) : Bool := decide (0 < s.redSpace stack)

/-- The oldest reduction of a quay toward a base die that is not acknowledged, else the next one: every earlier one has been
applied. -/
def State.redFloor (s : State) (quay stack : Nat) : Nat :=
  match (s.quayAt quay).unacked.find? fun u => s.filterStack u.2.2.elems == stack with
  | some u => u.1
  | none => (s.quayAt quay).redSeq.toNat

/-- How far sequence number `a` stands after `b`, modulo 2^16. -/
def seqAfter (a b : Nat) : Nat := (a + 65536 - b) % 65536

/-- Whether a filter entry's record holds a reduction. -/
def FilterEntry.has (e : FilterEntry) (seq : Nat) : Bool :=
  e.applied.contains seq || decide (32768 ≤ seqAfter seq e.floor)

/-- Records an applied reduction. The record of another device's source covers 256 numbers from its floor (log 54). -/
def FilterEntry.record (e : FilterEntry) (own : Bool) (seq : Nat) : FilterEntry :=
  let floor := if !own && decide (256 ≤ seqAfter seq e.floor) then (seq + 65536 - 255) % 65536 else e.floor
  { e with floor := floor, applied := (seq :: e.applied).filter fun x => decide (seqAfter x floor < 32768) }

/-- Replaces or adds the entry of a source in the filters. -/
def filterPut (e : FilterEntry) (l : List FilterEntry) : List FilterEntry :=
  e :: l.filter fun x => !(x.stack == e.stack && x.dev == e.dev && x.quay == e.quay)

/-- The elements of a reduction are combined as a write of its source quay, which alone watches it (R304); one of another
device passes no comparator here. -/
def State.applyAs (s : State) (r : Reduction) : State × FpFlags :=
  let home := s.here
  let (s, f) := ({ s with here := if r.dev = s.devId then r.quay else 320 }).applyElems r.op r.ty
    (r.elems.map fun (p : Nat × BitVec 64) => (.phys p.1, p.2))
  ({ s with here := home }, f)

/-- A reduction at its home (R402): none where its source has no entry and the filter no free one; one in the record of its
source changes nothing, another is applied and recorded. A reduction of an M slot of the device drops its lines from every
L1; an engine's does not (R31). -/
def State.filterReduction (s : State) (r : Reduction) : Option (State × FpFlags) :=
  let k := s.filterStack r.elems
  let e := s.filter.find? fun e => e.stack == k && e.dev == r.dev && e.quay == r.quay
  let own : Bool := r.dev == s.devId
  let e' : FilterEntry := e.getD
    { stack := k, dev := r.dev, quay := r.quay, floor := if own then s.redFloor r.quay k else (r.seq + 65536 - 255) % 65536
      applied := [] }
  if e.isNone && decide ((s.filter.filter fun e => e.stack == k).length ≥ 1024) then none
  else if e'.has r.seq then some ({ s with replaysFound := s.replaysFound + 1 }, 0)
  else
    let (s, f) := s.applyAs r
    let s := if r.cmd.isSome || !own then s else s.dropLines (r.elems.map fun p => (.phys p.1, 0))
    some ({ s with filter := filterPut (e'.record own r.seq) s.filter }, f)

/-- A reduction reaches its home: it waits there, or it is acknowledged with the flags of its combination (R402). -/
def State.applyReduction (s : State) (r : Reduction) : State :=
  match s.filterReduction r with
  | none => s.send (.memoryReductionApply r)
  | some (s, f) =>
    if r.dev = s.devId then s.send (.acknowledgementArrive (.reduction r.quay r.seq f))
    else s.toDev r.dev (.ack (.reduction r.quay r.seq f))

/-- The peers that the cells of a store lie in. -/
def State.peersOf (s : State) (as : List Nat) : List Nat := ((as.map s.homeDev).filter fun d => d != s.devId).eraseDups

/-- Takes the next age: of an access of an M slot, or of a request to a peer. -/
def State.nextAge (s : State) : Nat × State := (s.ages, { s with ages := s.ages + 1 })

/-- A request to a peer's memory leaves and stands in the quay's list until the peer answers (R383, R386). -/
def State.ask (s : State) (dev age : Nat) (a : Asker) (m : NetMsg) : State :=
  let r : PeerRequest := { dev := dev, msg := m, age := age, sentAt := s.quay.cycle.toNat, asker := a }
  (s.toDev dev m).updQuay fun q => { q with requests := q.requests ++ [r] }

/-- The packets of a write to peer memory (R383). -/
def State.sendWrites (s : State) (a : Asker) (ctx age : Nat) (cells : List (Nat × Byte)) : State :=
  (s.peersOf (cells.map Prod.fst)).foldl (fun s d =>
    s.ask d age a (.memWrite s.here ctx age (cells.filter fun c => s.homeDev c.1 == d))) s

/-- The packets of a read of peer memory (R383). -/
def State.askReads (s : State) (a : Asker) (ctx age : Nat) (as : List Nat) : State :=
  (s.peersOf as).foldl (fun s d => s.ask d age a (.memRead s.here ctx age (as.filter fun x => s.homeDev x == d))) s

/-- The packet of an indivisible read and write of peer memory at an address (R38, R383). -/
def State.sendAtomic (s : State) (a : Asker) (ctx age : Nat) (op : AtomicOp) (as : List Nat) : State :=
  (s.peersOf as).foldl (fun s d => s.ask d age a (.memAtomic s.here ctx age (as.headD 0) op)) s

/-- A store performs at its home (R31): its bytes are written and its lines leave every L1; a reduction in scratchpad
combines there, another goes to its home with a tag; a SENDH payload leaves for its receiver (R145). -/
def State.performStore (s : State) (g : GStore) : State :=
  match g.kind with
  | .bytes cells =>
    ((s.writeLocs cells).dropLines cells).sendWrites (.strand g.owner) g.ctx.val g.age (s.physCells cells)
  | .reduce op t es =>
    let (s, f) := s.applyElems op t (spElems es)
    let s := s.raise g.owner f
    match physElems es with
    | [] => s
    | ps => s.sendReduction g.owner g.ctx none op t ps
  | .sendh l dev => if dev = s.devId then s.send (.arrivalLanding l) else s.toDev dev (.landing l)

/-- The other devices that a store goes to. -/
def State.storePeers (s : State) (g : GStore) : List Nat :=
  match g.kind with
  | .bytes cells => s.peersOf ((s.physCells cells).map Prod.fst)
  | .reduce _ _ es => s.peersOf ((physElems es).map Prod.fst)
  | .sendh _ dev => if dev = s.devId then [] else [dev]

/-- Whether a store can perform now: a reduction needs room in the window of R402. -/
def State.storeReady (s : State) (g : GStore) : Bool :=
  match g.kind with
  | .reduce _ _ es => (physElems es).isEmpty || s.redRoom (s.filterStack (physElems es))
  | _ => true

/-- A reduction of this device is acknowledged: it is off its quay's list, and the filter entry of a source that has nothing
left on its way frees (R402). Its flags go to the strand whose M slot sent it. -/
def State.settleReduction (s : State) (quay seq : Nat) (f : FpFlags) : State :=
  match (s.quayAt quay).unacked.find? fun u => u.1 == seq with
  | none => s
  | some (_, o, r) =>
    let k := s.filterStack r.elems
    let l := (s.quayAt quay).unacked.filter fun u => u.1 != seq
    let s := s.putQuay quay { s.quayAt quay with unacked := l }
    let idle : Bool := !(l.any fun u => s.filterStack u.2.2.elems == k) && !(s.wire.any fun i => match i with
      | .memoryReductionApply x => x.dev == s.devId && x.quay == quay && s.filterStack x.elems == k
      | _ => false)
    let mine := fun (e : FilterEntry) => e.stack == k && e.dev == s.devId && e.quay == quay
    let fl := s.redFloor quay k
    let s := { s with filter := if idle then s.filter.filter fun e => !mine e
                        else s.filter.map fun e => if mine e then
                          { e with floor := fl, applied := e.applied.filter fun x => decide (seqAfter x fl < 32768) } else e }
    if r.cmd.isSome then s else s.raise o f

/-- Whether a message is a reduction of a strand's M slot on its way, or the acknowledgement of one. -/
def State.ownSent (s : State) (born : Nat) (i : Instr) : Bool :=
  match i with
  | .memoryReductionApply r => r.dev == s.devId && r.cmd.isNone && r.owner == born
  | .acknowledgementArrive (.reduction q n _) =>
    (s.quayAt q).unacked.any fun u => u.1 == n && u.2.1 == born && u.2.2.cmd.isNone
  | _ => false

/-- The order in which a home applies reductions in deterministic mode: by arrival, ties by source device, quay and
sequence number (R403). The way to a home takes the same time for all, so the order of sending is that of arrival. -/
def redBefore (a b : Reduction) : Bool :=
  if a.sentAt ≠ b.sentAt then decide (a.sentAt < b.sentAt)
  else if a.dev ≠ b.dev then decide (a.dev < b.dev)
  else if a.quay ≠ b.quay then decide (a.quay < b.quay)
  else decide (a.seq < b.seq)

/-- A reduction on the fabric. -/
def redOf : Instr → Option Reduction
  | .memoryReductionApply r => some r
  | _ => none

/-- Whether a message is a reduction that in deterministic mode comes before some reduction of a list (R403). -/
def comesBefore (l : List Reduction) (i : Instr) : Bool :=
  match redOf i with
  | some x => l.any fun r => r.det && redBefore x r
  | none => false

/-- Puts a message behind the reductions that come before it. -/
def insertRed (i : Instr) : List Instr → List Instr
  | [] => [i]
  | x :: t => match redOf i, redOf x with
    | some a, some b => if redBefore a b then i :: x :: t else x :: insertRed i t
    | _, _ => x :: insertRed i t

/-- A strand's reductions on the fabric reach their homes, and their acknowledgements the quay; in deterministic mode those
that come before them reach their homes first (R403). -/
def State.applyOwnSent (s : State) (born : Nat) : State :=
  let own := (s.wire.filter (s.ownSent born)).filterMap redOf
  let now := s.wire.filter fun i => s.ownSent born i || comesBefore own i
  let s := { s with wire := s.wire.filter fun i => !(s.ownSent born i || comesBefore own i) }
  (if own.any fun r => r.det then now.foldl (fun l i => insertRed i l) [] else now).foldl (fun s i => match i with
    | .memoryReductionApply r =>
      if r.owner ≠ born || r.dev ≠ s.devId || r.cmd.isSome then s.applyReduction r
      else match s.filterReduction r with
        | some (s, f) => s.settleReduction r.quay r.seq f
        | none => s.send i
    | .acknowledgementArrive (.reduction q n f) => s.settleReduction q n f
    | _ => s) s

/-- Puts a store of a quay behind those that are older. -/
def insertAge (p : Nat × GStore) : List (Nat × GStore) → List (Nat × GStore)
  | [] => [p]
  | x :: t => if p.2.age < x.2.age then p :: x :: t else x :: insertAge p t

/-- Stores of a strand perform in order, each at its quay, until one waits for room in the window of R402. -/
def State.performRun (s : State) (b : Nat) : List (Nat × GStore) → State
  | [] => s
  | (q, g) :: t =>
    let at' : State := { s with here := q }
    if !at'.storeReady g then s
    else
      let at' := (at'.updQuay fun q => { q with drained := q.drained.erase g }).performStore g
      ({ at'.applyOwnSent b with here := s.here } : State).performRun b t

/-- The drained stores of the acting strand whose route is usable, wherever they drained, with their quays in program order. -/
def State.ownDrained (s : State) : List (Nat × GStore) :=
  let b := s.ctx.born
  (s.quays.flatMap fun e =>
    (e.2.drained.filter fun g => g.owner == b && (s.storePeers g).all s.linkOk).map fun g => (e.1, g)).foldl
      (fun l p => insertAge p l) []

/-- Performs the drained stores of the acting strand, in program order on every quay it has run on, with its reductions at their
homes. One whose route is unusable stays for STORE_PERFORM, which gives LINK_DOWN (R385). -/
def State.performOwn (s : State) : State :=
  let b := s.ctx.born
  (s.applyOwnSent b).performRun b s.ownDrained

/-- The drain of a committing operation and the performing of its stores before it acts (R163, DEDUCED, log 12). -/
def State.flush (s : State) : State := s.drain.performOwn

/-- Whether every store of the acting strand performs at a drain: none is a reduction that waits for room (R402). -/
def State.flushes (s : State) : Bool := s.flush.ownDrained.isEmpty

/-! ### Values a strand reads (R30) -/

/-- Lays a store's bytes over bytes that were read. -/
def overlayStore (g : GStore) (bs : List (Loc × Byte)) : List (Loc × Byte) :=
  match g.kind with
  | .bytes cells => bs.map fun p => match cells.reverse.find? fun c => c.1 == p.1 with
    | some c => (p.1, c.2)
    | none => p
  | .reduce op t es => es.foldl (fun bs e =>
      let n := redBytes t
      let byteAt := fun l => match bs.find? fun p => p.1 == l with
        | some p => p.2
        | none => 0
      if (List.range n).all (fun i => bs.any fun p => p.1 == e.1.plus i) then
        let old := ofLeBytes ((List.range n).map fun i => byteAt (e.1.plus i))
        let cells := cellsOf e.1 n (combine op t (BitVec.ofNat 64 old) e.2).1.toNat
        bs.map fun p => match cells.find? fun c => c.1 == p.1 with
          | some c => (p.1, c.2)
          | none => p
      else bs) bs
  | .sendh _ _ => bs

/-- The part of a store that reaches memory, which a strand still reads after it has moved to another quay. -/
def GStore.physOnly (g : GStore) : GStore :=
  let far := fun l : Loc => match l with
    | .phys _ => true
    | .sp _ => false
  { g with kind := match g.kind with
      | .bytes cells => .bytes (cells.filter fun c => far c.1)
      | .reduce op t es => .reduce op t (es.filter fun e => far e.1)
      | k => k }

/-- A strand's reductions that are on their way to their homes, as stores. -/
def State.sentStores (s : State) (born : Nat) : List GStore :=
  s.wire.filterMap fun i => match i with
    | .memoryReductionApply r =>
      if r.dev == s.devId && r.cmd.isNone && r.owner == born then
        some { ctx := 0, owner := born, kind := .reduce r.op r.ty (r.elems.map fun e => (.phys e.1, e.2)), bidx := 0, age := 0 }
      else none
    | _ => none

/-- A strand's stores older than an age that no other party need have seen, in order: reductions on their way, drained
stores, then the gated ones of its context. -/
def State.ownStores (s : State) (c : Fin 8) (age : Nat) : List GStore :=
  let b := (s.quay.ctx c).born
  let drained := s.quays.flatMap fun e => (e.2.drained.filter fun g => g.owner == b && decide (g.age < age)).map fun g =>
    (e.1, if e.1 = s.here then g else g.physOnly)
  s.sentStores b ++ ((drained.foldl (fun l p => insertAge p l) []).map Prod.snd)
    ++ ((s.quay.ctx c).gated.filter fun g => decide (g.age < age))

/-- A location's aligned unit of 8 bytes, which holds every reduction's element that the location lies in. -/
def Loc.unit (l : Loc) : List Loc :=
  match l with
  | .sp o => (List.range 8).map fun i => .sp (o / 8 * 8 + i)
  | .phys p => (List.range 8).map fun i => .phys (p / 8 * 8 + i)

/-- Locations with the whole units of a strand's reductions that touch them. -/
def widen (gs : List GStore) (ls : List Loc) : List Loc :=
  if gs.any fun g => match g.kind with
      | .reduce _ _ _ => true
      | _ => false
  then ls ++ (ls.flatMap Loc.unit).filter fun l => !ls.contains l else ls

/-- Lays a strand's own stores over bytes that were read (R30). -/
def overlayOwn (gs : List GStore) (bs : List (Loc × Byte)) : List (Loc × Byte) := gs.foldl (fun bs g => overlayStore g bs) bs

/-- Reads locations for a context's M slot: memory through the L1, scratchpad directly, and over them the context's own
earlier stores (R30). -/
def State.readOwn (s : State) (c : Fin 8) (age : Nat) (ls : List Loc) : List Byte × State :=
  let gs := s.ownStores c age
  let (bs, s) := (widen gs ls).foldl (fun (acc : List (Loc × Byte) × State) l =>
    match l with
    | .sp o => (acc.1 ++ [(l, acc.2.quay.spByte o)], acc.2)
    | .phys p => let (b, s) := acc.2.readL1 p; (acc.1 ++ [(l, b)], s)) ([], s)
  (((overlayOwn gs bs).take ls.length).map Prod.snd, s)

/-- Reads locations at their homes, with a context's own earlier stores over them (R30, R38, R144). -/
def State.readHome (s : State) (c : Fin 8) (age : Nat) (ls : List Loc) : List Byte :=
  let gs := s.ownStores c age
  ((overlayOwn gs ((widen gs ls).map fun l => (l, s.readLoc l))).take ls.length).map Prod.snd

/-! ### Bollards (R141) -/

/-- The bollard that bollard `b` of a quay is bound to. -/
def State.bollard (s : State) (q : Nat) (b : Nat) : Bollard :=
  let x := vget {} (s.quayAt q).bols b
  match x.crew with
  | none => x
  | some (id, n) => match s.crews.find? fun c => c.id == id with
    | some c => { sparseGet {} c.bols n with crew := some (id, n), armed := x.armed }
    | none => x

/-- Stores THR, CNT and GEN of the bollard that bollard `b` of a quay is bound to. -/
def State.putBollard (s : State) (q : Nat) (b : Nat) (x : Bollard) : State :=
  match (vget {} (s.quayAt q).bols b).crew with
  | none =>
    let y := vget {} (s.quayAt q).bols b
    s.putQuay q { s.quayAt q with bols := vput (s.quayAt q).bols b { y with thr := x.thr, cnt := x.cnt, gen := x.gen } }
  | some (id, n) =>
    { s with crews := s.crews.map fun c =>
        if c.id == id then { c with bols := sparsePut c.bols n { x with crew := none, armed := [] } } else c }

/-- Counts flips toward the commands attached to a bollard (R400). -/
def armFlips (n : Nat) (b : Bollard) : Bollard :=
  { b with
    flips := b.flips + n
    armed := b.armed.map fun a =>
      { a with pending := Nat.min (if a.once then 1 else 65535) (a.pending + n)
               first := if a.pending = 0 then b.flips else a.first } }

/-- Post(b, n) (R141): each time the count reaches the threshold, the generation steps, and attached commands trigger. -/
def State.post (s : State) (q : Nat) (b : Nat) (n : Nat) : State :=
  let x := s.bollard q b
  let total := x.cnt + n
  let thr := if x.thr = 0 then 1 else x.thr
  let flips := total / thr
  let s := s.putBollard q b { x with cnt := total % thr, gen := x.gen + BitVec.ofNat 16 flips }
  if flips = 0 then s
  else match x.crew with
    | none => s.putQuay q { s.quayAt q with bols := vput (s.quayAt q).bols b (armFlips flips (vget {} (s.quayAt q).bols b)) }
    | some t => { s with quays := s.quays.map fun e =>
        (e.1, { e.2 with bols := e.2.bols.map fun y => if y.crew == some t then armFlips flips y else y }) }

/-- GEN − SEEN of a context's bollard (R141). -/
def State.lag (s : State) (b : Nat) : Nat :=
  ((s.bollard s.here b).gen - vget 0 s.ctx.regs.seen b).toNat

/-! ### The slot queues (R159) -/

/-- The oldest bundle index that some slot has not retired. -/
def Context.oldest (c : Context) : Nat :=
  match c.queue with
  | [] => c.lastIdx + 1
  | e :: _ => e.idx

/-- Whether an entry stands ahead of another in program order. -/
def QEntry.ahead (e f : QEntry) : Bool := decide (e.idx < f.idx) || (e.idx == f.idx && decide (e.pos < f.pos))

/-- Puts an entry at its place in program order. -/
def insertEntry (e : QEntry) : List QEntry → List QEntry
  | [] => [e]
  | x :: t => if e.ahead x then e :: x :: t else x :: insertEntry e t

/-- The slot whose queue an entry is in, by number; 7 for the header actions. -/
def QItem.lane : QItem → Nat
  | .slot k _ => slotNum k
  | .event _ => 7

def QEntry.lane (e : QEntry) : Nat := e.what.lane

/-- A quay cycle passes for the acting quay and its ACTIVE context (R131, R158; what the model counts is log 6). -/
def State.tick (s : State) : State :=
  let s := s.updQuay fun q => { q with cycle := q.cycle + 1 }
  s.updCtx fun c => if c.st == .active then { c with wdCount := c.wdCount + 1, ran := [] } else { c with ran := [] }

/-- What the slot queues hold of an instruction. -/
def reentry (i : Instr) : QItem :=
  match i.slot? with
  | some k => .slot k (encode i)
  | none => .event i

/-- The entry that runs goes back into its queue, at a place among the actions of its bundle. -/
def Context.requeue (c : Context) (i : Instr) (pos : Nat) : Context :=
  let e : QEntry := { what := reentry i, idx := c.bidx, pos := pos, pc := c.curPc, lit := c.curLit, bases := c.curBases }
  { c with queue := insertEntry e c.queue }

/-- The operation does not begin now: it stays at the head of its slot's queue, and the context keeps the issue slot (R156);
the other slots go on (R159, R161). -/
def stall (i : Instr) (s : State) : Out := .next (s.updCtx fun c => c.requeue i c.curPos)

end Sys2Proof.Machine
end

