-- ==== Sys2Proof/Machine/Crews.lean ====
section
/-! DEFINITION. Launch records (R323), the crews of the device by their ids, and deterministic mode: the floors of accesses and the
note of one that missed its floor (R338, R339). -/

namespace Sys2Proof.Machine

open Sys2Proof

/-! ### Launch records (R323) -/

/-- A field of a launch record by offset and size in bytes. -/
def LaunchRec.get (l : LaunchRec) (off size : Nat) : Nat := field l.raw.toNat (8 * off) (8 * size)

/-- A bit field of a launch record. -/
def LaunchRec.bits (l : LaunchRec) (off lo w : Nat) : Nat := field l.raw.toNat (8 * off + lo) w

def LaunchRec.det (l : LaunchRec) : Bool := l.bits 0x01 0 1 == 1
def LaunchRec.fuse (l : LaunchRec) : Bool := l.bits 0x01 1 1 == 1
def LaunchRec.l1fuse (l : LaunchRec) : Bool := l.bits 0x01 2 1 == 1
def LaunchRec.energy (l : LaunchRec) : Nat := l.bits 0x01 3 2
def LaunchRec.tmode (l : LaunchRec) : Nat := l.bits 0x01 5 2
def LaunchRec.fven (l : LaunchRec) : Bool := l.bits 0x01 7 1 == 1
def LaunchRec.splen (l : LaunchRec) : Nat := l.get 0x02 2
def LaunchRec.quays (l : LaunchRec) : Nat := l.bits 0x04 0 9
def LaunchRec.ctxs (l : LaunchRec) : Nat := l.bits 0x04 9 3 + 1
def LaunchRec.pj (l : LaunchRec) : Nat := l.bits 0x04 12 4
def LaunchRec.spad (l : LaunchRec) : Nat := l.get 0x06 2
def LaunchRec.banks (l : LaunchRec) : Nat := l.get 0x08 2
def LaunchRec.berths (l : LaunchRec) : Nat := l.get 0x0A 2
def LaunchRec.entry (l : LaunchRec) : Nat := l.get 0x0C 4
def LaunchRec.cb (l : LaunchRec) : Nat := l.get 0x10 8
def LaunchRec.img (l : LaunchRec) : Nat := l.get 0x18 8
def LaunchRec.dcount (l : LaunchRec) : Nat := l.get 0x20 2
def LaunchRec.ncrew (l : LaunchRec) : Nat := l.get 0x22 2
def LaunchRec.rtab (l : LaunchRec) : Nat := l.get 0x24 4
def LaunchRec.seed (l : LaunchRec) : Nat := l.get 0x28 4
def LaunchRec.wdlimit (l : LaunchRec) : Nat := l.get 0x2C 4
def LaunchRec.fvec (l : LaunchRec) : Nat := l.get 0x30 4
def LaunchRec.depctr (l : LaunchRec) : Nat := l.get 0x34 2
def LaunchRec.tcnt (l : LaunchRec) : Nat := l.get 0x36 2
def LaunchRec.cbmp (l : LaunchRec) : Nat := l.get 0x38 8
def LaunchRec.cbit (l : LaunchRec) : Nat := l.get 0x40 4
def LaunchRec.tbit (l : LaunchRec) : Nat := l.get 0x44 4
def LaunchRec.tbmp (l : LaunchRec) : Nat := l.get 0x48 8
def LaunchRec.x (l : LaunchRec) : Vector Word 6 := Vector.ofFn fun i => BitVec.ofNat 64 (l.get (0x50 + 8 * i.val) 8)

/-! ### Crews -/

def State.crew (s : State) (id : Nat) : Option Crew := s.crews.find? fun c => c.id == id

def State.updCrew (s : State) (id : Nat) (f : Crew → Crew) : State :=
  { s with crews := listUpdate (fun c => c.id == id) f s.crews }

/-- The number of strands of a crew that have not ended changes. -/
def State.addLive (s : State) (id : Nat) (n : Nat) : State := s.updCrew id fun c => { c with live := c.live + n }
def State.subLive (s : State) (id : Nat) : State := s.updCrew id fun c => { c with live := c.live - 1 }

/-- Reports a fault to the system context (R13). -/
def State.report (s : State) (code : FaultCode) (q c : Nat) (crew : Option Nat) (va : Word) : State :=
  { s.noteFault crew code.code with sysInbox := s.sysInbox ++ [⟨code.code, q, c, crew, va⟩] }

/-- Whether a crew runs in deterministic mode (R338). -/
def State.isDet (s : State) (crew : Option Nat) : Bool :=
  match crew.bind s.crew with
  | some c => c.lr.det
  | none => false

/-- The floor of accesses at physical addresses, in cycles (R338); 0 for those that leave no quay. -/
def State.floorOf (s : State) : List Nat → Nat
  | [] => 0
  | a :: _ => match s.memType a with
    | .ok .hbm => 1120
    | .ok .peer => 2400
    | .ok .host => 1800
    | .error _ => 0

/-- Whether the data or the acknowledgement of an access has not reached its floor: a crew in deterministic mode has it exactly at
the floor (R338). -/
def State.early (s : State) (crew : Option Nat) (floor sentAt : Nat) : Bool :=
  s.isDet crew && decide (s.quay.cycle.toNat < sentAt + floor)

/-- An access has been answered: one that missed its floor sets LATE (R338, R339; which accesses count is DEDUCED, log 116). -/
def State.noteLate (s : State) (crew : Option Nat) (floor sentAt : Nat) : State :=
  match crew with
  | none => s
  | some n =>
    if floor ≠ 0 && s.isDet crew && decide (sentAt + floor < s.quay.cycle.toNat) then s.updCrew n fun c => { c with late := true }
    else s

end Sys2Proof.Machine
end

