-- ==== Sys2Proof/Machine/Operands.lean ====
section
/-! DEFINITION. Operand forms of the slots: register names under rotation (R115, R151), sources, latches (R98, R99),
guards (R96, R146), and the writing of results with their latency (R116 to R118). -/

namespace Sys2Proof.Machine

open Sys2Proof

/-- Why an operation does not take effect now: it waits, it takes a fault, by a handle or a stream's page of the translation
class, or its strand becomes a pager waiter. -/
inductive Halt where
  | wait
  | fault (code : FaultCode) (va : Option Word)
  | handle (code : FaultCode) (va : Word) (access : BitVec 4) (page : Nat) (hd : Option (Fin 16))
  | park (w : WaitOn)
  deriving DecidableEq, Repr

/-- What reading operands yields. -/
abbrev Got (α : Type) := Except Halt α

/-- The end of an operation that cannot take effect: it waits in its queue or its fault is taken. -/
def State.halted (s : State) (i : Instr) (k : Slot) (h : Halt) : Out :=
  match h with
  | .wait => stall i s
  | .fault c va => .next (s.slotFault k c va)
  | .handle c va a p hd => .next (s.slotFault k c (some va) true a (some p) hd)
  | .park w => .next (s.park w)

/-! ### Register names (R115, R151) -/

/-- The physical number of a register name of a rotating file. -/
def rotated (base : BitVec 4) (m : Fin 32) : Fin 32 :=
  if m.val < 16 then m else Fin.ofNat 32 (16 + (m.val - 16 + base.toNat) % 16)

def Context.xReg (c : Context) (m : Fin 32) : RegId := .x (rotated c.curBases.x m)
def Context.yReg (c : Context) (m : Fin 32) : RegId := .y (rotated c.curBases.y m)
def Context.vReg (c : Context) (m : Fin 32) : RegId := .v (rotated c.curBases.v m)
def Context.wReg (c : Context) (m : Fin 32) : RegId := .w (rotated c.curBases.w m)

/-- The register an M operation names by CLS and REG (R92); class h names no register file of data. -/
def Context.mReg (c : Context) (cls : RegClass) (r : Fin 32) : RegId :=
  match cls with
  | .a | .h => .a (Fin.ofNat 16 r.val)
  | .x => c.xReg r
  | .y => c.yReg r
  | .v => c.vReg r
  | .w => c.wReg r
  | .e => .e (Fin.ofNat 16 r.val)

/-- Whether a scoreboarded load of an earlier bundle has not landed in a register (R116). -/
def Context.awaited (c : Context) (r : RegId) : Bool :=
  c.loads.any fun l => l.reg == r && !l.discard && decide (l.bidx < c.bidx)

/-- Reads a register for a slot at the current bundle index. -/
def Context.get (c : Context) (k : Slot) (r : RegId) : Got VWord :=
  if c.awaited r then .error .wait else .ok (c.readReg k c.bidx r)

/-- Reads a 64-bit register. -/
def Context.getWord (c : Context) (k : Slot) (r : RegId) : Got Word :=
  (c.get k r).map fun v => v.setWidth 64

/-- The q register as a slot sees it (R96, R118). -/
def Context.qBit (c : Context) (k : Slot) (n : Fin 8) : Bool := (c.readReg k c.bidx (.q n)).getLsbD 0

/-- A guard (R96). -/
def Context.guardHolds (c : Context) (k : Slot) (g : Guard) : Bool :=
  match g with
  | .always => true
  | .on neg n => c.qBit k n != neg

/-! ### Latches (R99) -/

/-- The slot's latch lt`n` as a bundle index reads it, when it is full: the result of the operation `n` + 1 bundle indices
earlier. -/
def Context.latchAt? (c : Context) (k : Slot) (j n : Nat) : Option VWord :=
  (c.latches.find? fun e => e.slot == k && e.issued + n + 1 == j && decide (e.lat ≤ n + 1)).map LatchEntry.val

/-- The slot's latch lt`n` at the current bundle index. -/
def Context.latch? (c : Context) (k : Slot) (n : Nat) : Option VWord := c.latchAt? k c.bidx n

def Context.getLatch (c : Context) (k : Slot) (n : Nat) : Got VWord :=
  match c.latch? k n with
  | some v => .ok v
  | none => .error (.fault .latchLost none)

/-! ### Results -/

/-- Whether a slot owns a register's file (R14, R91 to R94). -/
def ownsFile (k : Slot) (r : RegId) : Bool :=
  match r, k with
  | .x _, .s0 | .y _, .s1 | .v _, .v0 | .w _, .v1 | .k _, .v0 | .g _, .v1 | .a _, .m => true
  | _, _ => false

/-- Writes a register with a latency (R116): its own slot sees it `lat` bundles later, every other slot at least two. A
native write of the bundle discards a scoreboarded load of the bundle into the register (R14). -/
def Context.put (c : Context) (k : Slot) (r : RegId) (lat : Nat) (v : VWord) : Context :=
  let homed := ownsFile k r
  let other := c.bidx + Nat.max lat 2
  let own := match r with
    | .q _ => c.bidx + lat
    | _ => if homed then c.bidx + lat else other
  let c := c.enqueue { reg := r, val := v, own := own, other := other, slot := k, issued := c.bidx, homed := homed }
  if homed && c.loads.any (fun l => l.reg == r && l.bidx == c.bidx && !l.discard) then
    { c with
      loads := c.loads.map fun l => if l.reg == r && l.bidx == c.bidx then { l with discard := true } else l
      cwcol := c.cwcol ||| r.colBit }
  else c

/-- Fills the slot's latches (R99). -/
def Context.fillLatch (c : Context) (k : Slot) (lat : Nat) (v : VWord) : Context :=
  { c with latches := ⟨k, c.bidx, lat, v⟩ :: c.latches.filter fun e => e.slot != k || decide (c.bidx ≤ e.issued + 4) }

/-- Schedules an effect for a bundle index. -/
def Context.later (c : Context) (land : Nat) (e : Effect) : Context :=
  { c with effects := c.effects ++ [⟨land, e⟩] }

/-! ### S slots -/

def SOp.slot (o : SOp) : Slot := if o.second then .s1 else .s0

/-- The slot's own register of a name (R119). -/
def Context.sReg (c : Context) (second : Bool) (r : Fin 32) : RegId := if second then c.yReg r else c.xReg r

/-- A source of an S slot (R98). -/
def Context.sSrc (c : Context) (o : SOp) (x : Src) : Got Word :=
  match x with
  | .reg r => c.getWord (if o.second then .s1 else .s0) (c.sReg o.second r)
  | .latch n => (c.getLatch (if o.second then .s1 else .s0) n.val).map fun v => v.setWidth 64
  | .zero => .ok 0

/-- The result of an S operation: the register, unless ND, and the latch (R99, R119). -/
def Context.sResult (c : Context) (o : SOp) (lat : Nat) (v : Word) : Context :=
  let k : Slot := if o.second then .s1 else .s0
  let c := if o.nd then c else c.put k (c.sReg o.second o.d) lat (v.setWidth 2048)
  c.fillLatch k lat (v.setWidth 2048)

end Sys2Proof.Machine
end

