-- ==== Sys2Proof/Machine/Scalar.lean ====
section
/-! DEFINITION. The S-slot operations (R119 to R131): 64-bit arithmetic, constants, compares, COPY and the status
registers. -/

namespace Sys2Proof.Machine

open Sys2Proof

/-! ### Arithmetic -/

/-- DIV (R120, R121): truncated toward zero; all ones for a zero divisor. -/
def divS (a b : Word) : Word := if b = 0 then BitVec.allOnes 64 else a.sdiv b

/-- DIVU (R120, R121). -/
def divU (a b : Word) : Word := if b = 0 then BitVec.allOnes 64 else a.udiv b

/-- REM (R120, R121): the sign of the dividend; the dividend for a zero divisor. -/
def remS (a b : Word) : Word := if b = 0 then a else a.srem b

/-- REMU (R120, R121). -/
def remU (a b : Word) : Word := if b = 0 then a else a.umod b

/-- The high half of the signed product (R120). -/
def mulHighS (a b : Word) : Word := (((a.signExtend 128) * (b.signExtend 128)) >>> 64).setWidth 64

/-- The high half of the unsigned product (R120). -/
def mulHighU (a b : Word) : Word := (((a.setWidth 128) * (b.setWidth 128)) >>> 64).setWidth 64

/-- The carry-less product of `a` and the low `n` bits of `b`. -/
def clmulNat (a : Nat) : Nat → Nat → Nat
  | 0, _ => 0
  | n + 1, b => clmulNat a n b ^^^ (if b.testBit n then a * 2 ^ n else 0)

/-- The number of leading zero bits of a `w`-bit number. -/
def clzNat (w n : Nat) : Nat := if n = 0 then w else w - 1 - n.log2

/-- The number of trailing zero bits below `w`. -/
def ctzNat : Nat → Nat → Nat
  | 0, _ => 0
  | w + 1, n => if n % 2 = 1 then 0 else 1 + ctzNat w (n / 2)

/-- The number of one bits below `w`. -/
def popcNat : Nat → Nat → Nat
  | 0, _ => 0
  | w + 1, n => n % 2 + popcNat w (n / 2)

/-- IMM16 sign-extended. -/
def sImm (o : SOp) : Word := (o.imm.setWidth 16).signExtend 64

/-! ### The shape of an S operation -/

/-- Runs an S operation: nothing when the guard is false (R96), else its effect on the context, a wait or a fault. -/
def sRun (i : Instr) (o : SOp) (f : Context → Got Context) (s : State) : Out :=
  let k : Slot := if o.second then .s1 else .s0
  if !s.ctx.guardHolds k o.g then .next s
  else match f s.ctx with
    | .ok c => .next (s.setCtx c)
    | .error h => s.halted i k h

/-- Two sources (R120). -/
def sBin (i : Instr) (o : SOp) (lat : Nat) (f : Word → Word → Word) (s : State) : Out :=
  sRun i o (fun c =>
    match c.sSrc o o.a, c.sSrc o o.b with
    | .ok a, .ok b => .ok (c.sResult o lat (f a b))
    | .error h, _ => .error h
    | _, .error h => .error h) s

/-- One source, with or without an immediate (R122, R123). -/
def sUn (i : Instr) (o : SOp) (f : Word → Word) (s : State) : Out :=
  sRun i o (fun c =>
    match c.sSrc o o.a with
    | .ok a => .ok (c.sResult o 1 (f a))
    | .error h => .error h) s

def execAdd (o : SOp) (s : State) : Out := sBin (.add o) o 1 (· + ·) s
def execSub (o : SOp) (s : State) : Out := sBin (.sub o) o 1 (· - ·) s
def execAddi (o : SOp) (s : State) : Out := sUn (.addi o) o (fun a => a + sImm o) s
def execMul (o : SOp) (s : State) : Out := sBin (.mul o) o 3 (· * ·) s
def execMulh (o : SOp) (s : State) : Out := sBin (.mulh o) o 3 mulHighS s
def execMulhu (o : SOp) (s : State) : Out := sBin (.mulhu o) o 3 mulHighU s
def execDiv (o : SOp) (s : State) : Out := sBin (.div o) o 18 divS s
def execDivu (o : SOp) (s : State) : Out := sBin (.divu o) o 18 divU s
def execRem (o : SOp) (s : State) : Out := sBin (.rem o) o 18 remS s
def execRemu (o : SOp) (s : State) : Out := sBin (.remu o) o 18 remU s
def execAnd (o : SOp) (s : State) : Out := sBin (.and o) o 1 (· &&& ·) s
def execOr (o : SOp) (s : State) : Out := sBin (.or o) o 1 (· ||| ·) s
def execXor (o : SOp) (s : State) : Out := sBin (.xor o) o 1 (· ^^^ ·) s
def execAndi (o : SOp) (s : State) : Out := sUn (.andi o) o (fun a => a &&& sImm o) s
def execOri (o : SOp) (s : State) : Out := sUn (.ori o) o (fun a => a ||| sImm o) s
def execXori (o : SOp) (s : State) : Out := sUn (.xori o) o (fun a => a ^^^ sImm o) s
def execShl (o : SOp) (s : State) : Out := sBin (.shl o) o 1 (fun a b => a <<< (b.toNat % 64)) s
def execShr (o : SOp) (s : State) : Out := sBin (.shr o) o 1 (fun a b => a >>> (b.toNat % 64)) s
def execSha (o : SOp) (s : State) : Out := sBin (.sha o) o 1 (fun a b => a.sshiftRight (b.toNat % 64)) s
def execShli (o : SOp) (s : State) : Out := sUn (.shli o) o (fun a => a <<< (o.imm.toNat % 64)) s
def execShri (o : SOp) (s : State) : Out := sUn (.shri o) o (fun a => a >>> (o.imm.toNat % 64)) s
def execShai (o : SOp) (s : State) : Out := sUn (.shai o) o (fun a => a.sshiftRight (o.imm.toNat % 64)) s
def execMin (o : SOp) (s : State) : Out := sBin (.min o) o 1 (fun a b => if b.slt a then b else a) s
def execMax (o : SOp) (s : State) : Out := sBin (.max o) o 1 (fun a b => if a.slt b then b else a) s
def execMinu (o : SOp) (s : State) : Out := sBin (.minu o) o 1 (fun a b => if b < a then b else a) s
def execMaxu (o : SOp) (s : State) : Out := sBin (.maxu o) o 1 (fun a b => if a < b then b else a) s

/-- SEL (R124): the q bit is the one visible to the slot. -/
def execSel (o : SOp) (s : State) : Out :=
  sRun (.sel o) o (fun c =>
    match c.sSrc o o.a, c.sSrc o o.b with
    | .ok a, .ok b =>
      let q := c.qBit (if o.second then .s1 else .s0) (Fin.ofNat 8 o.imm.toNat)
      .ok (c.sResult o 1 (if q != o.imm.getLsbD 3 then a else b))
    | .error h, _ => .error h
    | _, .error h => .error h) s

def execClz (o : SOp) (s : State) : Out := sUn (.clz o) o (fun a => BitVec.ofNat 64 (clzNat 64 a.toNat)) s
def execCtz (o : SOp) (s : State) : Out := sUn (.ctz o) o (fun a => BitVec.ofNat 64 (ctzNat 64 a.toNat)) s
def execPopc (o : SOp) (s : State) : Out := sUn (.popc o) o (fun a => BitVec.ofNat 64 (popcNat 64 a.toNat)) s

/-- The field that BEXT and BINS name: position and length (R125). -/
def bitPos (o : SOp) : Nat := field o.imm.toNat 0 6
def bitLen (o : SOp) : Nat := field o.imm.toNat 6 6 + 1

/-- BEXT (R125). -/
def execBext (o : SOp) (s : State) : Out :=
  sUn (.bext o) o (fun a =>
    let v := field a.toNat (bitPos o) (bitLen o)
    if o.imm.getLsbD 12 then BitVec.ofInt 64 (signedField (bitLen o) v) else BitVec.ofNat 64 v) s

/-- BINS (R125). -/
def execBins (o : SOp) (s : State) : Out :=
  sBin (.bins o) o 1 (fun a b =>
    let m := BitVec.ofNat 64 ((2 ^ bitLen o - 1) * 2 ^ bitPos o)
    (a &&& ~~~m) ||| ((b <<< bitPos o) &&& m)) s

def execClmul (o : SOp) (s : State) : Out :=
  sBin (.clmul o) o 2 (fun a b => BitVec.ofNat 64 (clmulNat a.toNat 64 b.toNat)) s

def execClmulh (o : SOp) (s : State) : Out :=
  sBin (.clmulh o) o 2 (fun a b => BitVec.ofNat 64 (clmulNat a.toNat 64 b.toNat / 2 ^ 64)) s

/-! ### Constants (R126) -/

/-- LI, LIH and LIX: LIH and LIX read the destination register as a source. -/
def sConst (i : Instr) (o : SOp) (reads : Bool) (f : Word → Word) (s : State) : Out :=
  sRun i o (fun c =>
    if reads then match c.getWord (if o.second then .s1 else .s0) (c.sReg o.second o.d) with
      | .ok d => .ok (c.sResult o 1 (f d))
      | .error h => .error h
    else .ok (c.sResult o 1 (f 0))) s

def execLi (o : SOp) (s : State) : Out := sConst (.li o) o false (fun _ => o.imm.signExtend 64) s

def execLih (o : SOp) (s : State) : Out :=
  sConst (.lih o) o true (fun d =>
    (d &&& ~~~(BitVec.ofNat 64 ((2 ^ 22 - 1) * 2 ^ 22))) ||| (o.imm.setWidth 64 <<< 22)) s

def execLix (o : SOp) (s : State) : Out :=
  sConst (.lix o) o true (fun d =>
    (d &&& BitVec.ofNat 64 (2 ^ 44 - 1)) ||| (o.imm.setWidth 64 <<< 44)) s

/-! ### Compares (R127) -/

/-- The conditions of R107: EQ, NE, LT, GE, LTU, GEU. -/
def condHolds (n : Nat) (a b : Word) : Bool :=
  match n with
  | 0 => a == b
  | 1 => a != b
  | 2 => a.slt b
  | 3 => !a.slt b
  | 4 => decide (a < b)
  | _ => !decide (a < b)

def execCmp (o : SOp) (s : State) : Out :=
  sRun (.cmp o) o (fun c =>
    match c.sSrc o o.a, c.sSrc o o.b with
    | .ok a, .ok b =>
      .ok (c.put (if o.second then .s1 else .s0) (.q (Fin.ofNat 8 o.d.val)) 1 (if condHolds o.sub.val a b then 1 else 0))
    | .error h, _ => .error h
    | _, .error h => .error h) s

def execCmpi (o : SOp) (s : State) : Out :=
  sRun (.cmpi o) o (fun c =>
    match c.sSrc o o.a with
    | .ok a =>
      .ok (c.put (if o.second then .s1 else .s0) (.q (Fin.ofNat 8 o.d.val)) 1
        (if condHolds o.sub.val a (sImm o) then 1 else 0))
    | .error h => .error h) s

/-! ### COPY (R128) -/

/-- A 64-bit value in each of the 32 lanes of a vector register. -/
def lanes64 (a : Word) : VWord := BitVec.ofNat 2048 ((List.range 32).foldl (fun n _ => n * 2 ^ 64 + a.toNat) 0)

/-- The register COPY names by its file code. -/
def Context.copyDst (c : Context) (file : Fin 8) (d : Fin 32) : RegId :=
  match file.val with
  | 0 => c.xReg d
  | 1 => c.yReg d
  | 2 => .a (Fin.ofNat 16 d.val)
  | 3 => .e (Fin.ofNat 16 d.val)
  | 4 => c.vReg d
  | _ => c.wReg d

def execCopy (o : SOp) (s : State) : Out :=
  sRun (.copy o) o (fun c =>
    match c.sSrc o o.a with
    | .ok a =>
      let k : Slot := if o.second then .s1 else .s0
      let v := if o.sub.val = 4 ∨ o.sub.val = 5 then lanes64 a else a.setWidth 2048
      let c1 := c.put k (c.copyDst o.sub o.d) 1 v
      .ok (if o.sub.val = (if o.second then 1 else 0) then c1.fillLatch k 1 v else c1)
    | .error h => .error h) s

/-! ### Status registers (R129 to R131) -/

/-- ST_QUAYID (R131). -/
def State.quayId (s : State) : Nat :=
  s.here + (s.here / 160) * 2 ^ 15 + (s.here % 160 / 4) * 2 ^ 16 + (s.here % 4) * 2 ^ 22 + s.devId % 64 * 2 ^ 24

/-- ST_JETTY (R188). -/
def Jetty.word (j : Jetty) : Nat :=
  j.fused.toNat + 2 * j.l1fused.toNat + 4 * j.strict.toNat + 8 * j.div.toNat + 16 * j.faultdec.toNat
    + j.divq.toNat * 2 ^ 8 + j.members.toNat * 2 ^ 12 + j.divpc.toNat * 2 ^ 16

/-- One snapshot of a status register (R130), for the acting context. -/
def State.statRead (s : State) (num : Nat) : Word :=
  let c := s.ctx
  match num with
  | 0x001 => BitVec.ofNat 64 s.quayId
  | 0x002 => BitVec.ofNat 64 (s.quay.cctx.val + 8 * c.handler.toNat)
  | 0x003 => s.quay.cycle
  | 0x010 => c.regs.lc.setWidth 64
  | 0x011 => BitVec.ofNat 64
      (c.regs.bases.x.toNat + 16 * c.regs.bases.y.toNat + 256 * c.regs.bases.v.toNat + 4096 * c.regs.bases.w.toNat)
  | 0x012 => c.tcqskew.setWidth 64
  | 0x020 => c.regs.srseed.setWidth 64
  | 0x021 => c.fpflags.setWidth 64
  | 0x030 => c.fault.setWidth 64
  | 0x031 => c.faultPc.setWidth 64
  | 0x032 => c.faultVa
  | 0x033 => BitVec.ofNat 64 (c.vecPc.toNat + c.vecEn.toNat * 2 ^ 32)
  | 0x040 => c.wdlimit.setWidth 64
  | 0x041 => c.cwcol.setWidth 64
  | 0x050 => BitVec.ofNat 64 (c.det.toNat + 2 * (s.crews.any fun k => some k.id == c.crew && k.late).toNat + 1120 * 2 ^ 12 + 2400 * 2 ^ 24 + 1800 * 2 ^ 36)
  | 0x060 => s.quay.dictwin
  | 0x061 => c.regs.dictsel.setWidth 64
  | 0x070 => BitVec.ofNat 64 (1 + 339 * 2 ^ 16 + 65 * 2 ^ 32 + 292 * 2 ^ 48)
  | 0x080 => BitVec.ofNat 64 s.jetty.word
  | _ => 0

def statNum (o : SOp) : Nat := field o.imm.toNat 0 12

/-- STAT (R129). -/
def execStat (o : SOp) (s : State) : Out :=
  sRun (.stat o) o (fun c => .ok (c.sResult o 1 (s.statRead (statNum o)))) s

/-- STATW (R129): ST_DICTWIN and ST_DICTSEL act from the next bundle (R84), every other register two bundles later. -/
def execStatw (o : SOp) (s : State) : Out :=
  sRun (.statw o) o (fun c =>
    match c.sSrc o o.a with
    | .ok a =>
      .ok (c.later (if statNum o = 0x060 ∨ statNum o = 0x061 then c.bidx + 1 else c.bidx + 2) (.statw (statNum o) a))
    | .error h => .error h) s

end Sys2Proof.Machine
end

