-- ==== Sys2Proof/Machine/Memory.lean ====
section
/-! DEFINITION. The M-slot operations (R132 to R145): addresses and their checks, loads and stores, handles, atomics and
memory-side reductions, fences, the dictionary, bollards, bitmaps, TMW and SENDH; and the events by which loads land,
stores perform and translations end. -/

namespace Sys2Proof.Machine

open Sys2Proof

/-! ### Addresses (R132) -/

/-- The offset a[IDX] plus a displacement, as a signed 64-bit value. -/
def Context.mOff (c : Context) (o : MOp) (d : Word) : Got Int :=
  match c.getWord .m (.a o.idx) with
  | .ok a => .ok (a + d).toInt
  | .error h => .error h

def mImm (o : MOp) : Word := o.imm.signExtend 64
def mImm12 (o : MOp) : Word := BitVec.ofNat 64 (o.imm.toNat % 4096)

/-- The ACCESS bits of R177. -/
def accR : BitVec 4 := 1
def accW : BitVec 4 := 2

/-- The checks of R132 for one access of `size` bytes through a handle, in order; the physical address, as R26 normalizes
it. -/
def State.handleAddr (s : State) (hd : Fin 16) (off : Int) (size align : Nat) (rd wr : Bool) : Got Nat :=
  let h := s.ctx.regs.h.get hd
  let va := h.vpage + off
  let vaw := BitVec.ofInt 64 va
  let acc := if wr then accW else accR
  if !h.valid && !h.pend then
    if h.page then .error (.handle .handleInvalid vaw acc (pageOf h.vpage) (some hd))
    else .error (.fault .handleInvalid (some h.lastVa))
  else if h.pend then .error (.handle .handlePending vaw acc (pageOf h.vpage) (some hd))
  else if off < 0 || off + size > pageBytes h.size then .error (.fault .handleRange (some vaw))
  else if (rd && !h.r) || (wr && !h.w) then .error (.fault .permission (some vaw))
  else if off.toNat % align ≠ 0 then .error (.fault .misaligned (some vaw))
  else
    let pa := h.pbase + off.toNat
    match s.memType pa with
    | .error e => .error (.fault e (some vaw))
    | .ok .hbm => if s.hbmFailed then .error (.fault .permission (some vaw))
        else if s.hbmWaits then .error .wait else .ok (s.normPhys pa)
    | .ok _ => .ok (s.normPhys pa)

/-- The checks of R132 for one access into the scratchpad range of the context (R438); the storage of its first byte. -/
def Context.spAddr (c : Context) (off : Int) (size align : Nat) : Got Nat :=
  if off < 0 || off + size > Nat.min c.spSize spBytes then .error (.fault .scratchRange (some (BitVec.ofInt 64 off)))
  else if off.toNat % align ≠ 0 then .error (.fault .misaligned (some (BitVec.ofInt 64 off)))
  else .ok off.toNat

/-- The locations of the bytes of one access, after its checks. -/
def State.mLocs (s : State) (o : MOp) (off : Int) (size align : Nat) (rd wr : Bool) : Got (List Loc) :=
  let c := s.ctx
  if o.sp then
    match c.spAddr off size align with
    | .ok n => .ok ((List.range size).map fun i => .sp (spStore c.spBase (o.base.val == 1) (n + i)))
    | .error h => .error h
  else
    match s.handleAddr o.base off size align rd wr with
    | .ok pa => .ok ((List.range size).map fun i => .phys (pa + i))
    | .error h => .error h

/-- The locations of several elements, checked in element order (R132). -/
def State.mElems (s : State) (o : MOp) (size : Nat) (rd wr : Bool) : List Int → Got (List Loc)
  | [] => .ok []
  | off :: t =>
    match s.mLocs o off size size rd wr with
    | .error h => .error h
    | .ok ls => match s.mElems o size rd wr t with
      | .error h => .error h
      | .ok r => .ok (ls ++ r)

/-- Runs an M operation: nothing when its guard is false (R96), else its effect, a wait or a fault. -/
def mRun (i : Instr) (o : MOp) (f : Got State) (s : State) : Out :=
  if !s.ctx.guardHolds .m o.g then .next s
  else match f with
    | .ok s => .next s
    | .error h => s.halted i .m h

/-! ### Loads (R135, R136) -/

/-- The register value of bytes that were read. -/
def LoadForm.read (f : LoadForm) (bs : List Byte) : VWord :=
  match f with
  | .sext n => ((BitVec.ofNat 64 (ofLeBytes bs)) <<< (64 - 8 * n) |>.sshiftRight (64 - 8 * n)).setWidth 2048
  | .zext _ => (BitVec.ofNat 64 (ofLeBytes bs)).setWidth 2048
  | .vec | .strided _ => BitVec.ofNat 2048 (ofLeBytes bs)
  | .bcast => lanes64 (BitVec.ofNat 64 (ofLeBytes bs))
  | .value v => v
  | .tm _ _ _ => 0

/-- Whether an outstanding load of the strand reads a line that an access reads (CoRR, R39). -/
def Context.lineBusy (c : Context) (ls : List Loc) : Bool :=
  c.loads.any fun l => l.locs.any fun a => match a with
    | .phys p => ls.any fun b => match b with
        | .phys q => p / 64 == q / 64
        | .sp _ => false
    | .sp _ => false

/-- Whether the M slot holds a native write of the same bundle ahead of a load into its register (R14). -/
def Context.loses (c : Context) (r : RegId) : Bool :=
  c.pend.any fun w => w.reg == r && w.homed && w.issued == c.bidx && !ownsFile .m r

/-- The code, the handle and the virtual address of an access, as a snapshot keeps them (R192). -/
structure Access where
  opc : Nat := 0
  hd : Nat := 0
  va : Word := 0
  deriving DecidableEq, Repr

/-- The access of an M operation at an offset. -/
def Context.access (c : Context) (i : Instr) (o : MOp) (off : Int) : Access :=
  { opc := match i.form with
      | .m n _ => n
      | _ => 0
    hd := o.base.val, va := BitVec.ofInt 64 ((c.regs.h.get o.base).vpage + off) }

/-- The physical addresses among some locations. -/
def physAddrs (ls : List Loc) : List Nat :=
  ls.filterMap fun l => match l with
    | .phys p => some p
    | .sp _ => none

/-- The packets of a read of peer memory (R383). -/
def State.sendReads (s : State) (age : Nat) (ls : List Loc) : State :=
  let as := physAddrs ls
  (s.peersOf as).foldl (fun s d =>
    s.toDev d (.memRead s.here s.quay.cctx.val age (as.filter fun a => s.homeDev a == d))) s

/-- A scoreboarded operation is outstanding; a native write of its bundle into its register discards it (R14). -/
def Context.addLoad (c : Context) (l : OLoad) : Context :=
  { c with
    loads := c.loads ++ [{ l with bidx := c.bidx, discard := c.loses l.reg, pc := c.curPc, lit := c.curLit }]
    cwcol := if c.loses l.reg then c.cwcol ||| l.reg.colBit else c.cwcol }

/-- A load: through scratchpad it lands 4 bundles later; through a handle it is scoreboarded, at most 16 at a time
(R117, R135, R162). -/
def State.load (s : State) (r : RegId) (form : LoadForm) (sp : Bool) (ls : List Loc) (x : Access) : Got State :=
  if sp then
    let (age, s) := s.nextAge
    let (bs, s) := s.readOwn s.quay.cctx age ls
    .ok (s.updCtx fun c => c.put .m r 4 (form.read bs))
  else if (s.ctx.loads.filter fun l => l.counted).length ≥ 16 || s.ctx.lineBusy ls then .error .wait
  else
    let (age, s) := s.nextAge
    let l : OLoad :=
      { reg := r, form := form, locs := ls, bidx := 0, age := age, va := x.va, hd := x.hd, opc := x.opc
        sentAt := s.quay.cycle.toNat, floor := s.floorOf (physAddrs ls) }
    .ok ((s.updCtx fun c => c.addLoad l).sendReads age ls)

def State.loadOp (s : State) (i : Instr) (o : MOp) (form : LoadForm) (offs : Got (List Int)) (size align : Nat) : Got State :=
  match offs with
  | .error h => .error h
  | .ok [off] => match s.mLocs o off size align true false with
    | .ok ls => s.load (s.ctx.mReg o.cls o.reg) form o.sp ls (s.ctx.access i o off)
    | .error h => .error h
  | .ok offs => match s.mElems o size true false offs with
    | .ok ls => s.load (s.ctx.mReg o.cls o.reg) form o.sp ls (s.ctx.access i o (offs.headD 0))
    | .error h => .error h

/-- A scalar or whole-vector load. -/
def execLoad (i : Instr) (o : MOp) (form : LoadForm) (size align : Nat) (s : State) : Out :=
  mRun i o (s.loadOp i o form ((s.ctx.mOff o (mImm o)).map fun x => [x]) size align) s

def execLdB (o : MOp) (s : State) : Out := execLoad (.ldB o) o (.sext 1) 1 1 s
def execLdBu (o : MOp) (s : State) : Out := execLoad (.ldBu o) o (.zext 1) 1 1 s
def execLdH (o : MOp) (s : State) : Out := execLoad (.ldH o) o (.sext 2) 2 2 s
def execLdHu (o : MOp) (s : State) : Out := execLoad (.ldHu o) o (.zext 2) 2 2 s
def execLdW (o : MOp) (s : State) : Out := execLoad (.ldW o) o (.sext 4) 4 4 s
def execLdWu (o : MOp) (s : State) : Out := execLoad (.ldWu o) o (.zext 4) 4 4 s
def execLdD (o : MOp) (s : State) : Out := execLoad (.ldD o) o (.zext 8) 8 8 s
def execVld (o : MOp) (s : State) : Out := execLoad (.vld o) o .vec 256 64 s
def execVldb (o : MOp) (s : State) : Out := execLoad (.vldb o) o .bcast 8 8 s

/-- The element size and the offsets of VLDS and VSTS (R136). -/
def stridedSize (o : MOp) : Nat := 2 ^ field o.imm.toNat 14 2
def stridedOffs (o : MOp) (off : Int) : List Int :=
  (List.range (256 / stridedSize o)).map fun (e : Nat) => off + (e : Int) * signedField 14 (o.imm.toNat % 2 ^ 14)

def execVlds (o : MOp) (s : State) : Out :=
  mRun (.vlds o) o
    (s.loadOp (.vlds o) o (.strided (stridedSize o)) ((s.ctx.mOff o 0).map (stridedOffs o)) (stridedSize o) (stridedSize o)) s

/-- The write that is last among those of a register that bundles before an index issued. -/
def Context.lastWrite (c : Context) (r : RegId) (idx : Nat) : Option PendWrite :=
  (c.pend.filter fun w => w.reg == r && decide (w.issued < idx)).getLast?

/-- The value of a scoreboarded operation of bundle index `idx` lands: in its register at the oldest index not retired, at the
earliest the one after its own (R116, R118), and in the shadow, unless a later write before the mark replaces it, when it
was issued before the mark (R165). In a context that has been rolled back it lands at once (R167). -/
def Context.landValue (c : Context) (r : RegId) (idx : Nat) (v : VWord) : Context :=
  if c.st == .parked || c.st == .faulted then { c.writeReg r v with shadow := Shadowed.write c.shadow r v }
  else
    let j := Nat.max c.oldest (idx + 1)
    let w : PendWrite :=
      { reg := r, val := v, own := j, other := j, slot := .m, issued := idx, homed := ownsFile .m r }
    let c := c.enqueue w
    let c := if c.lastWrite r c.markIdx == some w then { c with shadow := Shadowed.write c.shadow r v } else c
    if c.lastWrite r c.entryIdx == some w then { c with entry := Shadowed.write c.entry r v } else c

/-- The codes of R230's states. -/
def TmState.code : TmState → Nat
  | .idle => 0 | .run => 1 | .halt => 2 | .done => 3 | .abandon => 4

/-- The value, state and broken mark of tm`t` of a quay; a follower's entry holds what it has seen (R246). -/
def State.tmView (s : State) (q t : Nat) : Nat × TmState × Bool :=
  let m := vget {} (s.quayAt q).tms t
  (m.value, m.st, m.broken)

/-- The snapshot word of TMW. -/
def tmWord (v : Nat) (st : TmState) : Nat := v % 2 ^ 32 + st.code * 2 ^ 32

/-- What a TMW on tm`t` of a quay finds (R143): its snapshot word, a fault, a tidemark in HALT, or nothing yet. -/
def State.tmLook (s : State) (q t k : Nat) : Got VWord :=
  let (v, st, broken) := s.tmView q t
  if st == .abandon then .error (.fault (if broken then .hawserBroken else .frontierAbandoned) none)
  else if v > k || st == .done then .ok (BitVec.ofNat 2048 (tmWord v st))
  else if st == .halt then .error (.park (.tidemark q t))
  else .error .wait

/-- The scope at which a TMW on a tidemark acquires what it covers (R44, R417): haven where another device published it or a
collective wrote it, device for a global one, else quay. -/
def State.tmScope (s : State) (q t : Nat) : Nat :=
  let m := vget {} (s.quayAt q).tms t
  if m.wop = 0x51 || (m.fol && m.fdev != s.devId) then 3 else if m.fol || m.pub then 2 else 0

/-- An outstanding TMW of a context looks again: its word lands, it takes a fault at its bundle, or its strand becomes a
waiter. In a context that has been rolled back a word lands too, and nothing else comes of it (R167). -/
def State.tmLand (s : State) (ctx : Fin 8) (k : Nat) (l : OLoad) (q t n : Nat) : State :=
  let c := s.quay.ctx ctx
  let still : Bool := c.st == .parked || c.st == .faulted
  match s.tmLook q t n with
  | .ok v => (s.acquire (s.tmScope q t)).updCtxAt s.here ctx fun c =>
      let c := { c with loads := listErase c.loads k }
      if l.discard then c else c.landValue l.reg l.bidx v
  | .error (.fault f va) =>
    if still then s
    else (s.updCtxAt s.here ctx fun c => { c with loads := listErase c.loads k }).asCtx ctx fun s =>
      s.takeFault { code := f, origin := slotNum .m, va := va, pc := l.pc, lit := l.lit }
  | .error (.park w) => if still then s else s.asCtx ctx fun s => s.park w
  | .error _ => s

/-- Whether a rolled-back context waits for an outstanding load before its image is written (R167): one that lands, or a TMW
whose tidemark has not met HALT or ABANDON, which the strand meets again once it runs (DEDUCED, log 120). -/
def State.awaits (s : State) (l : OLoad) : Bool :=
  match l.form with
  | .tm q t n => match s.tmLook q t n with
    | .ok _ | .error .wait => true
    | _ => false
  | _ => true

/-- The k-th outstanding load of a context lands (R135). -/
def execLoadDataLand (ctx : Fin 8) (k : Nat) (s : State) : Out :=
  match (s.quay.ctx ctx).loads[k]? with
  | none => .next s
  | some l =>
    match l.form with
    | .tm q t n => .next (s.tmLand ctx k l q t n)
    | _ =>
      let crew := (s.quay.ctx ctx).crew
      if s.early crew l.floor l.sentAt then .next s
      else
      let s := s.noteLate crew l.floor l.sentAt
      let (bs, s) := match l.form with
        | .value _ => (([] : List Byte), s)
        | _ => s.readOwn ctx l.age l.locs
      .next (s.updCtxAt s.here ctx fun c =>
        let c := { c with loads := listErase c.loads k }
        if l.discard then c else c.landValue l.reg l.bidx (l.form.read bs))

/-! ### Stores (R32, R135, R136) -/

/-- A gated store. It waits behind the strand's outstanding loads (R39, LB). The 65th drains the buffer and makes its
own bundle the mark (R164). -/
def State.store (s : State) (kind : StoreKind) (hd : Nat) : Got State :=
  if !s.ctx.loads.isEmpty then .error .wait
  else
    let s := if s.ctx.gated.length ≥ 64 then s.drain.markHere else s
    let (age, s) := s.nextAge
    let q := s.quay.cctx
    .ok (s.updCtx fun c =>
      { c with gated := c.gated ++ [{ ctx := q, owner := c.born, kind := kind, bidx := c.bidx, age := age, hd := hd }] })

/-- The value of the register an M operation names. -/
def State.mVal (s : State) (o : MOp) : Got VWord := s.ctx.get .m (s.ctx.mReg o.cls o.reg)

def State.storeOp (s : State) (o : MOp) (off : Got Int) (size align : Nat) : Got State :=
  match off, s.mVal o with
  | .error h, _ => .error h
  | _, .error h => .error h
  | .ok off, .ok v => match s.mLocs o off size align false true with
    | .error h => .error h
    | .ok ls => s.store (.bytes (ls.zip (leBytes size v.toNat))) o.base.val

def execStore (i : Instr) (o : MOp) (size align : Nat) (s : State) : Out :=
  mRun i o (s.storeOp o (s.ctx.mOff o (mImm o)) size align) s

def execStB (o : MOp) (s : State) : Out := execStore (.stB o) o 1 1 s
def execStH (o : MOp) (s : State) : Out := execStore (.stH o) o 2 2 s
def execStW (o : MOp) (s : State) : Out := execStore (.stW o) o 4 4 s
def execStD (o : MOp) (s : State) : Out := execStore (.stD o) o 8 8 s
def execVst (o : MOp) (s : State) : Out := execStore (.vst o) o 256 64 s

/-- VSTS (R136): overlapping elements are written in ascending order. -/
def execVsts (o : MOp) (s : State) : Out :=
  mRun (.vsts o) o
    (match s.ctx.mOff o 0, s.mVal o with
      | .error h, _ => .error h
      | _, .error h => .error h
      | .ok off, .ok v => match s.mElems o (stridedSize o) false true (stridedOffs o off) with
        | .error h => .error h
        | .ok ls => s.store (.bytes (ls.zip (leBytes 256 v.toNat))) o.base.val) s

/-- Whether two stores touch a common byte. -/
def storeLocs (g : GStore) : List Loc :=
  match g.kind with
  | .bytes cells => cells.map Prod.fst
  | .reduce _ t es => es.flatMap fun e => (List.range (redBytes t)).map e.1.plus
  | .sendh _ _ => []

/-- Whether a store reaches only peer or host memory, whose stores keep no order among locations (R33). -/
def State.weakStore (s : State) (g : GStore) : Bool :=
  match g.kind with
  | .sendh _ _ => false
  | _ => (storeLocs g).all fun l => match l with
    | .sp _ => false
    | .phys p => match s.memType p with
      | .ok .peer | .ok .host => true
      | _ => false

/-- Whether two stores of a strand must perform in their order: both reach scratchpad or HBM, or they share a location
(R33, R39). -/
def State.ordered (s : State) (e g : GStore) : Bool :=
  e.owner == g.owner && ((!s.weakStore e && !s.weakStore g) || (storeLocs e).any fun l => (storeLocs g).contains l)

/-- Whether a drained store may perform before its strand's older ones, on whichever quay they drained, and its strand's reductions
that have left and are not applied (R33, R38, R39). -/
def State.mayPerform (s : State) (g : GStore) : Bool :=
  let older := s.quays.flatMap fun e => e.2.drained.filter fun x => x.owner == g.owner && decide (x.age < g.age)
  ((older ++ s.sentStores g.owner).all fun e => !s.ordered e g) && s.storeReady g

/-- The strand of a store whose route is unusable takes LINK_DOWN (R385); the system context receives it when the strand
holds no context. -/
def State.storeRefused (s : State) (g : GStore) : State :=
  match s.strandAt g.owner with
  | .ctx q c =>
    let home := s.here
    let s := { s with here := q }
    let old := s.quay.cctx
    let s := ((s.updQuay fun q => { q with cctx := c }).slotFault .m .linkDown).updQuay fun q => { q with cctx := old }
    { s with here := home }
  | _ => { s with sysInbox := s.sysInbox ++ [⟨FaultCode.linkDown.code, s.here, g.ctx.val, none, 0⟩] }

/-- The k-th drained store of the quay performs at its home (R31). -/
def execStorePerform (k : Nat) (s : State) : Out :=
  match s.quay.drained[k]? with
  | none => .next s
  | some g =>
    if s.mayPerform g then
      let s := s.updQuay fun q => { q with drained := listErase q.drained k }
      .next (if (s.storePeers g).all s.linkOk then s.performStore g else s.storeRefused g)
    else .next s

/-! ### Handles (R133, R134) -/

/-- XLATE (R133): the result comes after 32 cycles. -/
def execXlate (o : MOp) (s : State) : Out :=
  mRun (.xlate o) o
    (match s.ctx.getWord .m (.a o.idx) with
      | .error h => .error h
      | .ok a =>
        let now := s.quay.cycle.toNat
        .ok (s.updCtx fun c =>
          { c with xlates := c.xlates ++ [⟨Fin.ofNat 16 o.reg.val, a + mImm o, c.bidx, now⟩] })) s

/-- The handle that a translation leaves (R133), and the pager's next ticket. -/
def State.xlated (s : State) (slice : Nat) (va : Word) : Handle × Nat :=
  let t := s.pager.nextTicket
  if va.toNat / 2 ^ 56 ≠ 0 then ({ lastVa := va }, t)
  else match s.translate slice va.toNat with
    | some m => ({ valid := true, page := true, r := m.r, w := m.w, x := m.x, size := m.size, pbase := m.pa, vpage := m.va
                   lastVa := va }, t)
    | none => ({ pend := true, page := true, ticket := t, vpage := va.toNat / 2 ^ 16 * 2 ^ 16, lastVa := va }, t + 1)

/-- Writes a handle register of a register set. -/
def Shadowed.setHandle (h : Shadowed) (n : Fin 16) (x : Handle) : Shadowed := { h with h := h.h.set n.val x }

/-- The k-th translation of a context ends (R133). -/
def execXlateResult (ctx : Fin 8) (k : Nat) (s : State) : Out :=
  match (s.quay.ctx ctx).xlates[k]? with
  | none => .next s
  | some x =>
    if s.quay.cycle.toNat < x.cycle + 32 then .next s else
    let (h, t) := s.xlated (s.quay.ctx ctx).slice x.va
    let s := { s with pager := { s.pager with nextTicket := t } }
    .next (s.updCtxAt s.here ctx fun c =>
      let c := { c with xlates := listErase c.xlates k, regs := c.regs.setHandle x.h h }
      let c := if x.bidx < c.markIdx then { c with shadow := c.shadow.setHandle x.h h } else c
      if x.bidx < c.entryIdx then { c with entry := c.entry.setHandle x.h h } else c)

/-- HREL (R134): valid, pending and PAGE are cleared, any ticket released; the other fields stay (log 23). -/
def execHrel (o : MOp) (s : State) : Out :=
  mRun (.hrel o) o
    (.ok (s.updCtx fun c =>
      let h := c.regs.h.get (Fin.ofNat 16 o.reg.val)
      { c with
        regs := c.regs.setHandle (Fin.ofNat 16 o.reg.val)
                  { h with valid := false, pend := false, page := false, ticket := 0 } })) s

/-- The HSTAT word of a handle (R134); `tenant` hides PBASE. -/
def Handle.word (h : Handle) (tenant : Bool) : Nat :=
  h.valid.toNat + 2 * h.pend.toNat + 4 * (h.size % 4) + 16 * h.r.toNat + 32 * h.w.toNat + 64 * h.x.toNat
    + 128 * h.page.toNat + (if tenant then 0 else field h.pbase 16 36 * 2 ^ 16)
    + (if h.pend then h.ticket % 4096 * 2 ^ 52 else 0)

def execHstat (o : MOp) (s : State) : Out :=
  mRun (.hstat o) o
    (.ok (s.updCtx fun c =>
      c.put .m (c.mReg o.cls o.reg) 4 (BitVec.ofNat 2048 ((c.regs.h.get o.base).word true)))) s

/-! ### Committing operations (R163) -/

/-- Runs a committing operation once its checks pass: the gated stores drain, it acts, the next bundle is the mark. -/
def commit (s : State) (act : State → State) : State := (act s.flush).markNext

/-- A committing M operation, which waits while a reduction of its strand waits for room (R402). -/
def commits (s : State) (act : State → State) : Got State := if s.flushes then .ok (commit s act) else .error .wait

/-- What AMO writes (R137). -/
def amoNew (op : Nat) (old d : Word) : Word :=
  match op with
  | 0 => old + d
  | 1 => old &&& d
  | 2 => old ||| d
  | 3 => old ^^^ d
  | 4 => if d.slt old then d else old
  | 5 => if old.slt d then d else old
  | 6 => if d < old then d else old
  | 7 => if old < d then d else old
  | _ => d

/-- What an operation writes over an old value at its home; none where CAS does not. -/
def atomicNew (op : AtomicOp) (old : Word) : Option Word :=
  match op with
  | .amo code v => some (amoNew code old v)
  | .cas x v => if old == x then some v else none
  | .bits v => some (old ||| v)

/-- The indivisible read and write of AMO, CAS and BMSET at the home (R38): the old value with the state after it. -/
def State.atHome (s : State) (ls : List Loc) (op : AtomicOp) : Word × State :=
  let old := BitVec.ofNat 64 (ofLeBytes (ls.map s.readLoc))
  (old, match atomicNew op old with
    | some v => let cells := ls.zip (leBytes 8 v.toNat); (s.writeLocs cells).dropLines cells
    | none => s.dropOwnLines (physAddrs ls |>.map (· / 64)))

/-- AMO and CAS: the step at the home; the old value goes to a register. -/
def atomic (r : RegId) (sp : Bool) (ls : List Loc) (x : Access) (op : AtomicOp) (s : State) : State :=
  let (old, s) := s.atHome ls op
  if sp then s.updCtx fun c => c.put .m r 4 (old.setWidth 2048)
  else
    let (age, s) := s.nextAge
    let s := s.sendAtomic (.strand s.ctx.born) s.quay.cctx.val age op (physAddrs ls)
    let l : OLoad :=
      { reg := r, form := .value (old.setWidth 2048), locs := [], bidx := 0, age := age, va := x.va, hd := x.hd, opc := x.opc
        sentAt := s.quay.cycle.toNat, floor := s.floorOf (physAddrs ls) }
    s.updCtx fun c => c.addLoad l

/-- AMO and CAS count as a load followed by a store: they wait behind outstanding loads (R38, R39). -/
def execAmo (o : MOp) (s : State) : Out :=
  mRun (.amo o) o
    (match s.ctx.mOff o (mImm12 o), s.mVal o with
      | .error h, _ => .error h
      | _, .error h => .error h
      | .ok off, .ok d => match s.mLocs o off 8 8 true true with
        | .error h => .error h
        | .ok ls =>
          if !s.ctx.loads.isEmpty then .error .wait
          else commits s (atomic (s.ctx.mReg o.cls o.reg) o.sp ls (s.ctx.access (.amo o) o off)
            (.amo (field o.imm.toNat 12 4) (d.setWidth 64)))) s

def execCas (o : MOp) (s : State) : Out :=
  mRun (.cas o) o
    (match s.ctx.mOff o (mImm o), s.mVal o, s.mVal { o with reg := o.reg + 1 } with
      | .error h, _, _ => .error h
      | _, .error h, _ => .error h
      | _, _, .error h => .error h
      | .ok off, .ok d, .ok n => match s.mLocs o off 8 8 true true with
        | .error h => .error h
        | .ok ls =>
          if !s.ctx.loads.isEmpty then .error .wait
          else commits s (atomic (s.ctx.mReg o.cls o.reg) o.sp ls (s.ctx.access (.cas o) o off)
            (.cas (d.setWidth 64) (n.setWidth 64)))) s

/-- The operation codes of RED, VRED and CPR (R138, R254). -/
def redOp (code : Nat) : RedOp :=
  match code with
  | 0 => .add | 1 => .and | 2 => .or | 3 => .xor | 4 => .min | 5 => .max | 6 => .minu | 7 => .maxu | _ => .fadd

/-- RED (R138): 8 bytes, or 4 with FADD; gated as a store. -/
def execRed (o : MOp) (s : State) : Out :=
  mRun (.red o) o
    (match s.ctx.mOff o (mImm12 o), s.mVal o with
      | .error h, _ => .error h
      | _, .error h => .error h
      | .ok off, .ok v =>
        let op := redOp (field o.imm.toNat 12 4)
        let ty : RedTy := if op == .fadd then .f32 else .u64
        match s.mLocs o off (redBytes ty) (redBytes ty) false true with
        | .error h => .error h
        | .ok [] => .ok s
        | .ok (l :: _) => s.store (.reduce op ty [(l, v.setWidth (8 * redBytes ty) |>.setWidth 64)]) o.base.val) s

/-- VRED (R138): 64 lanes of 4 bytes. -/
def execVred (o : MOp) (s : State) : Out :=
  mRun (.vred o) o
    (match s.ctx.mOff o (mImm12 o), s.mVal o with
      | .error h, _ => .error h
      | _, .error h => .error h
      | .ok off, .ok v =>
        let op := redOp (field o.imm.toNat 12 4)
        let ty : RedTy := if op == .fadd then .f32 else .sat32
        match s.mLocs o off 256 64 false true with
        | .error h => .error h
        | .ok ls => s.store (.reduce op ty ((List.range 64).filterMap fun e =>
            (ls[4 * e]?).map fun l => (l, BitVec.ofNat 64 (field v.toNat (32 * e) 32)))) o.base.val) s

/-! ### Fences (R35 to R37, R139) -/

/-- Whether the acting strand has commands whose join edge has not come, on any quay it has run on (R37). -/
def State.commandsOf (s : State) : Bool := s.quays.any fun e => e.2.dock.any fun d => d.owner == s.ctx.born

/-- Whether the acting strand's own reductions wait for their acknowledgement, or stores of it wait to perform. -/
def State.storesOf (s : State) : Bool :=
  s.quays.any fun e => (e.2.unacked.any fun r => r.2.1 == s.ctx.born && r.2.2.cmd == none)
    || e.2.drained.any fun g => g.owner == s.ctx.born

/-- FENCE (R139): the kinds acquire, acquire-release and full wait for the outstanding loads; with ENG it waits for the
strand's commands; the kinds release, acquire-release and full drain and perform the strand's stores and set a mark; an
acquire discards the copies that others in its scope may have changed (R35). A release of the model orders
every earlier access to every target, with CUM or without it, which is one of the orders that R36 allows (DESIGN CHOICE,
log 104). While it waits for stores that have drained, the fence's own bundle is the mark (R32). -/
def execFence (o : MOp) (s : State) : Out :=
  let kind := field o.imm.toNat 3 2
  if !s.ctx.guardHolds .m o.g then .next s
  else if (kind != 1 && !s.ctx.loads.isEmpty) || (field o.imm.toNat 6 1 == 1 && s.commandsOf) then stall (.fence o) s
  else
    let s := if kind != 1 then s.acquire (field o.imm.toNat 0 3) else s
    if kind = 0 then .next s
    else
      let t := s.flush
      if t.storesOf then stall (.fence o) t.markHere else .next (commit t id)

/-- Drops lines from the L1 that holds them (R139, R189). -/
def State.invalidate (s : State) : List Nat → State
  | [] => s
  | l :: t =>
    let h := s.l1Home l
    (s.putQuay h { s.quayAt h with l1 := (s.quayAt h).l1.filter fun x => x.1 != l }).invalidate t

/-- RINV (R139): lines beyond the handle's page are ignored, and a handle that is not valid invalidates nothing. -/
def execRinv (o : MOp) (s : State) : Out :=
  mRun (.rinv o) o
    (match s.ctx.mOff o 0 with
      | .error h => .error h
      | .ok off =>
        let h := s.ctx.regs.h.get o.base
        if !h.valid then .ok s
        else
          let first := off / 64
          let n := o.imm.toNat + 1
          let held := s.l1Quays.flatMap fun q => (s.quayAt q).l1.map Prod.fst
          let start := s.normPhys h.pbase / 64
          let s1 := held.filter fun (l : Nat) =>
            let rel : Int := (l : Int) - (start : Int)
            decide (first ≤ rel) && decide (rel < first + (n : Int)) && decide (0 ≤ rel)
              && decide (rel < ((pageBytes h.size / 64 : Nat) : Int))
          .ok (s.invalidate s1)) s

/-- LRFENCE (R139, R228): the record cache loses its contents once the drained stores have performed. -/
def execLrfence (o : MOp) (s : State) : Out :=
  mRun (.lrfence o) o (commits s fun s => s.updQuay fun q => { q with rcache := [] }) s

/-! ### DICTLD (R140, R85) -/

/-- The entries that bytes hold. -/
def dictEntries : Nat → List Byte → List (BitVec 384)
  | 0, _ => []
  | n + 1, bs => BitVec.ofNat 384 (ofLeBytes (bs.take 48)) :: dictEntries n (bs.drop 48)

/-- Writes entries into the dictionary store; the issuing context's target buffers empty now, the others' at their first
bundle after their next yield. -/
def dictWrite (e : Nat) (es : List (BitVec 384)) (s : State) : State :=
  (s.updQuay fun q =>
    { q with
      dict := sparseSetAll 0 q.dict (es.zipIdx.map fun p => (e + p.2, p.1))
      ctxs := Vector.ofFn fun i =>
        if i = q.cctx then (q.ctx i).windowChange else { q.ctx i with dictRefill := true } })

/-- A strand has read bytes at their homes: it keeps no older copy of their lines (R30), and a peer's answered a request (R383). -/
def State.readAtHome (s : State) (as : List Nat) : State :=
  let (age, s) := s.nextAge
  (s.askReads (.strand s.ctx.born) s.quay.cctx.val age as).dropOwnLines (as.map (· / 64)).eraseDups

def execDictld (o : MOp) (s : State) : Out :=
  mRun (.dictld o) o
    (match s.mVal o, s.ctx.mOff o 0 with
      | .error h, _ => .error h
      | _, .error h => .error h
      | .ok v, .ok off =>
        let e := field v.toNat 0 12
        let n := field o.imm.toNat 0 12 + 1
        if e + n > 4096 then .error (.fault .dictRange none)
        else match s.mLocs o off (48 * n) 16 true false with
          | .error h => .error h
          | .ok ls => commits s fun s =>
              (dictWrite e (dictEntries n (ls.map s.readLoc)) s).readAtHome (physAddrs ls)) s

/-! ### Bitmaps (R144) -/

/-- The location of the 8 bytes of bit j, and the bit in them. -/
def State.bitLocs (s : State) (o : MOp) (rd wr : Bool) : Got (List Loc × Nat) :=
  match s.ctx.mOff o (mImm o), s.mVal o with
  | .error h, _ => .error h
  | _, .error h => .error h
  | .ok off, .ok v =>
    let j := (v.setWidth 64).toNat
    match s.mLocs o (off + 8 * (j / 64 : Nat)) 8 8 rd wr with
    | .error h => .error h
    | .ok ls => .ok (ls, j % 64)

/-- The scope of a bitmap's memory type (R46): device for HBM, haven for a peer's memory, system for the host's; a bitmap in
scratchpad is the quay's. -/
def State.memScope (s : State) (ls : List Loc) : Nat :=
  match ls with
  | .phys p :: _ => match s.memType p with
    | .ok .peer => 3
    | .ok .host => 4
    | _ => 2
  | _ => 0

/-- BMWAIT: waits until the bit is 1 at the home, the strand's own earlier stores included, and acquires at the scope of the
bitmap's memory, behind the strand's earlier loads (R46). -/
def execBmwait (o : MOp) (s : State) : Out :=
  mRun (.bmwait o) o
    (match s.bitLocs o true false with
      | .error h => .error h
      | .ok (ls, j) =>
        if !s.unbound && (ofLeBytes (s.readHome s.quay.cctx s.ages ls)).testBit j then
          .ok ((s.readAtHome (physAddrs ls)).acquire (s.memScope ls))
        else .error .wait) s

/-- BMSET: the bit is ORed in at the home, as a cumulative release. -/
def execBmset (o : MOp) (s : State) : Out :=
  mRun (.bmset o) o
    (match s.bitLocs o false true with
      | .error h => .error h
      | .ok (ls, j) =>
        if !s.ctx.loads.isEmpty then .error .wait
        else commits s fun s =>
          let op : AtomicOp := .bits (BitVec.ofNat 64 (2 ^ j))
          let (age, s) := (s.atHome ls op).2.nextAge
          s.sendAtomic (.strand s.ctx.born) s.quay.cctx.val age op (physAddrs ls)) s

/-! ### Bollards (R141, R142) -/

/-- Sets SEEN of a bollard to the GEN it is bound to, in every context of the quay. -/
def State.seenAll (s : State) (b : Nat) : State :=
  let g := (s.bollard s.here b).gen
  s.updQuay fun q =>
    { q with
      ctxs := q.ctxs.map fun c => { c with regs := { c.regs with seen := vput c.regs.seen b g } } }

/-- BLDSET (R142): `thr` of 0 means 65,536. -/
def bollardSet (b thr : Nat) (crew : Option (Nat × Nat)) (s : State) : State :=
  let t := if thr = 0 then 65536 else thr
  let x := vget {} s.quay.bols b
  match crew with
  | none =>
    (s.updQuay fun q =>
      { q with bols := vput q.bols b { x with thr := t, cnt := 0, crew := none } }).seenAll b
  | some (id, n) =>
    let s := s.updQuay fun q => { q with bols := vput q.bols b { x with crew := some (id, n) } }
    let bind : Crew → Crew := fun c =>
      if c.id == id && !(c.bols.any fun e => e.1 == n) then { c with bols := sparsePut c.bols n { thr := t } } else c
    let s := { s with crews := s.crews.map bind }
    s.seenAll b

/-- Of a strand without a crew, BLDSET with CREW binds to the quay's own state: no crew bollard exists (log 24). -/
def execBldset (o : MOp) (s : State) : Out :=
  mRun (.bldset o) o
    (match s.mVal o with
      | .error h => .error h
      | .ok v =>
        let crew := if o.imm.getLsbD 6 then s.ctx.crew.map fun id => (id, field o.imm.toNat 7 8) else none
        commits s (bollardSet (field o.imm.toNat 0 6) (field v.toNat 0 16) crew)) s

/-- The BLDRD word (R142). -/
def Bollard.word (b : Bollard) : Nat :=
  b.cnt % 2 ^ 16 + b.gen.toNat * 2 ^ 16 + b.thr % 2 ^ 16 * 2 ^ 32
    + (match b.crew with
      | none => 0
      | some (_, n) => 2 ^ 48 + n % 256 * 2 ^ 49)

def execBldrd (o : MOp) (s : State) : Out :=
  mRun (.bldrd o) o
    (let b := field o.imm.toNat 0 6
     let x := s.bollard s.here b
     .ok (s.updCtx fun c =>
       let c := c.put .m (c.mReg o.cls o.reg) 4 (BitVec.ofNat 2048 x.word)
       { c with regs := { c.regs with seen := vput c.regs.seen b x.gen } })) s

/-- BPOST (R142): a cumulative release, behind the strand's outstanding loads (R46). -/
def execBpost (o : MOp) (s : State) : Out :=
  mRun (.bpost o) o
    (if !s.ctx.loads.isEmpty then .error .wait
     else commits s fun s => s.post s.here (field o.imm.toNat 0 6) (field o.imm.toNat 6 4 + 1)) s

/-! ### TMW (R143) -/

/-- TMW: it retires when it issues (R164); the slot's later operations and the readers of d wait for it. -/
def execTmw (o : MOp) (s : State) : Out :=
  mRun (.tmw o) o
    (match s.ctx.getWord .m (.a o.idx) with
      | .error h => .error h
      | .ok a =>
        let t := field o.imm.toNat 0 6
        let r := s.ctx.mReg o.cls o.reg
        match s.tmLook s.here t (field a.toNat 0 32) with
        | .ok v => .ok ((s.acquire (s.tmScope s.here t)).updCtx fun c => if c.loses r then { c with cwcol := c.cwcol ||| r.colBit } else c.landValue r c.bidx v)
        | .error .wait =>
          let (age, s) := s.nextAge
          let l : OLoad :=
            { reg := r, form := .tm s.here t (field a.toNat 0 32), locs := [], bidx := 0, age := age, counted := false }
          .ok (s.updCtx fun c => c.addLoad l)
        | .error h => .error h) s

/-! ### SENDH (R145) -/

/-- Whether a device is the own one, or a member of the haven that the slice's haven map names (R145, R319). -/
def State.reaches (s : State) (slice dev : Nat) : Bool :=
  dev == s.devId || (s.members.getLsbD dev && (vget {} s.slices slice).hmap.getLsbD dev)

/-- The sender's checks of a landing (R145): the quay, the device, the offset with the payload's length, its alignment. -/
def State.landingFits (s : State) (slice dev quay off len : Nat) : Option (FaultCode × Option Word) :=
  if quay ≥ 320 || !s.reaches slice dev then some (.permission, none)
  else if off + len > spBytes then some (.scratchRange, some (BitVec.ofNat 64 off))
  else if off % 64 ≠ 0 then some (.misaligned, some (BitVec.ofNat 64 off))
  else none

/-- The sender's checks of a landing word (R145): device [5:0], quay [14:6], offset [37:16]. -/
def State.landingCheck (s : State) (slice : Nat) (w : Word) (len : Nat) : Option (FaultCode × Option Word) :=
  match s.landingFits slice (field w.toNat 0 6) (field w.toNat 6 9) (field w.toNat 16 22) len with
  | some f => some f
  | none => if field w.toNat 15 1 ≠ 0 || field w.toNat 38 26 ≠ 0 then some (.reservedField, none) else none

def execSendh (o : MOp) (s : State) : Out :=
  mRun (.sendh o) o
    (let a := fun n => s.ctx.getWord .m (.a (o.idx + n))
     match a 0, a 1, a 2, a 3, s.mVal o with
     | .ok w, .ok pc, .ok x3, .ok x4, .ok v =>
       match s.landingCheck s.ctx.slice w 256 with
       | some (f, va) => .error (.fault f va)
       | none =>
         if !s.linkOk (field w.toNat 0 6) then .error (.fault .linkDown none) else
         let l : Landing :=
           { kind := .sendh, quay := field w.toNat 6 9, srcDev := s.devId, srcQuay := s.here, srcSeq := s.ctx.born
             srcCtx := s.quay.cctx.val, srcPc := s.ctx.curPc.toNat, srcCrew := s.ctx.crew.getD 0, slice := s.ctx.slice
             addr := field w.toNat 16 22, extent := 256, swizzled := false
             cells := (leBytes 256 v.toNat).zipIdx.map fun p => ((p.2 : Int), p.1)
             upto := 1, last := true, handler := some (field pc.toNat 0 32), bytes := 256, attempt := s.ages, ident := (s.here, s.ctx.born)
             x3 := x3, x4 := x4, x5 := o.imm.setWidth 64 }
         s.store (.sendh l (field w.toNat 0 6)) 0
     | .error h, _, _, _, _ => .error h
     | _, .error h, _, _, _ => .error h
     | _, _, .error h, _, _ => .error h
     | _, _, _, .error h, _ => .error h
     | _, _, _, _, .error h => .error h) s

end Sys2Proof.Machine
end

