-- ==== Sys2Proof/Machine/Fetch.lean ====
section
/-! DEFINITION. The fetch of code words (R77 to R79), the dictionary windows through which they name bundles (R81 to R86),
and the fill of target buffers (R148). -/

namespace Sys2Proof.Machine

open Sys2Proof

/-! ### Code fetch (R77 to R79) -/

/-- The virtual byte address of the code word at an address. -/
def Context.codeVa (c : Context) (pc : Nat) : Nat := c.cb + 2 * pc

/-- The fetched line that holds a byte. -/
def Context.line? (c : Context) (va : Nat) : Option (BitVec 512) := (c.lines.find? fun l => l.1 == va / 64).map Prod.snd

/-- The code word at a byte address of a line. -/
def lineWord (d : BitVec 512) (va : Nat) : Nat := field d.toNat (8 * (va % 64)) 16

/-- A fetched code word. -/
def Context.codeWord (c : Context) (pc : Nat) : Option Nat :=
  (c.line? (c.codeVa pc)).map fun d => lineWord d (c.codeVa pc)

/-- The first byte of the 64 KiB page, or of the larger mapped page, that holds an address. -/
def State.pageStart (s : State) (slice va : Nat) : Nat :=
  match s.translate slice va with
  | some m => m.va
  | none => va / 2 ^ 16 * 2 ^ 16

/-- ACCESS of a code fetch (R177): X and code fetch. -/
def accX : BitVec 4 := 12

/-- Reads a line of code words: its data, or the fault, or nothing while HBM trains. -/
def State.readCode (s : State) (slice line : Nat) : Got (BitVec 512) :=
  match s.translate slice (line * 64) with
  | none => .error (.fault .fetchFault none)
  | some m =>
    if !m.x then .error (.fault .permission none)
    else match s.memType (mapPhys m (line * 64)) with
      | .error e => .error (.fault e none)
      | .ok .hbm =>
        if s.hbmFailed then .error (.fault .permission none)
        else if s.hbmWaits then .error .wait
        else .ok (BitVec.ofNat 512 (s.readNum (mapPhys m (line * 64)) 64))
      | .ok _ => .ok (BitVec.ofNat 512 (s.readNum (mapPhys m (line * 64)) 64))

/-! ### Dictionary windows (R81 to R86) -/

/-- ST_DICTWIN's BASE of a window, in units of 16 entries (R81). -/
def winBase (win : Word) (w : Nat) : Nat := field win.toNat (16 * w) 8

/-- ST_DICTWIN's SIZE of a window in units of 16 entries; 0 stands for 256 (R81). -/
def winSize (win : Word) (w : Nat) : Nat :=
  let n := field win.toNat (16 * w + 8) 8
  if n = 0 then 256 else n

/-- The dictionary entry that a code word names through the window of a context, or its fault (R82, R83). -/
def State.entryOf (s : State) (quay : Nat) (c : Context) (w : Nat) : Except FaultCode (BitVec 384) :=
  let sel := c.regs.dictsel.toNat
  let e := 16 * winBase c.win sel + w
  if w ≥ 0xFFF0 then .error .codeReserved
  else if w ≥ 16 * winSize c.win sel || e ≥ 4096 then .error .dictRange
  else .ok (sparseGet 0 (s.quayAt quay).dict e)

/-- The bundle that 24 code words spell (R77). -/
def literalOf (ws : List Nat) : BitVec 384 := BitVec.ofNat 384 (ofLeBytes (ws.flatMap fun w => leBytes 2 w))

/-- The code words of a bundle: one, or 25 for a literal one (R77). -/
def bundleLen (lit : Bool) : Nat := if lit then 25 else 1

/-! ### Target buffers (R148) -/

/-- A code word as the fill of a buffer reads it. -/
def State.fillWord (s : State) (c : Context) (pc : Nat) : Option Nat :=
  match s.readCode c.slice (c.codeVa pc / 64) with
  | .ok d => some (lineWord d (c.codeVa pc))
  | .error _ => none

/-- A bundle as the fill of a buffer reads it; none where a fetch of it would fault. -/
def State.fillBundle (s : State) (quay : Nat) (c : Context) (pc : Nat) : Option Held :=
  match s.fillWord c pc with
  | none => none
  | some w =>
    if w = 0xFFFE then
      let ws := (List.range 24).filterMap fun i => s.fillWord c (pc + 1 + i)
      if ws.length = 24 then some ⟨literalOf ws, true⟩ else none
    else match s.entryOf quay c w with
      | .ok raw => some ⟨raw, false⟩
      | .error _ => none

/-- The first two bundles at a target, as far as they can be read: no fault is raised (R79, R148). -/
def State.fillFrom (s : State) (quay : Nat) (c : Context) (pc : BitVec 32) : List Held :=
  match s.fillBundle quay c pc.toNat with
  | none => []
  | some a => match s.fillBundle quay c ((pc.toNat + bundleLen a.lit) % 2 ^ 32) with
    | none => [a]
    | some b => [a, b]

/-- The filled buffers of a context are filled anew (R174, R190). -/
def State.refillTargets (s : State) (quay : Nat) (c : Context) (ts : Vector Target 8) : Vector Target 8 :=
  ts.map fun t => if t.filled then { t with bundles := s.fillFrom quay c t.addr } else t

/-- The bundles that a transfer takes from a buffer, with their addresses. -/
def Target.at (t : Target) : List (BitVec 32 × Held) :=
  match t.bundles with
  | [] => []
  | [a] => [(t.addr, a)]
  | a :: b :: _ => [(t.addr, a), (t.addr + BitVec.ofNat 32 (bundleLen a.lit), b)]

end Sys2Proof.Machine
end

