-- ==== Sys2Proof/Machine/Context.lean ====
section
/-! DEFINITION. Contexts as a whole (R155 to R175): run deques, how a leg ends and the next context is
chosen, how a strand starts, resumes, suspends and halts, and its image in memory. -/

namespace Sys2Proof.Machine

open Sys2Proof

/-! ### Run deques (R331): the first element is the top -/

/-- Pushes a record; a full deque sends it to the overflow list of its crew. -/
def State.moor (s : State) (quay : Nat) (top : Bool) (m : Mooring) : State :=
  let q := s.quayAt quay
  if q.deque.length < 1024 then
    s.putQuay quay { q with deque := if top then m :: q.deque else q.deque ++ [m] }
  else s.updCrew m.crew.toNat fun c => { c with overflow := c.overflow ++ [(s.refTime, quay, m)] }

/-- The oldest overflow entry for a quay's deque: by push time, then crew id, then place in its list. -/
def State.oldestOverflow (s : State) (quay : Nat) : Option (Nat × Nat × Mooring) :=
  let all := s.crews.flatMap fun c => (c.overflow.filter fun e => e.2.1 == quay).map fun e => (e.1, c.id, e.2.2)
  all.foldl (fun best e => match best with
    | none => some e
    | some b => if e.1 < b.1 || (e.1 == b.1 && decide (e.2.1 < b.2.1)) then some e else some b) none

/-- Drops the first entry of a list that `p` picks. -/
def dropFirst {α : Type} (p : α → Bool) : List α → List α
  | [] => []
  | x :: t => if p x then t else x :: dropFirst p t

/-- Removes the k-th record of a quay's deque; the oldest overflow record of that deque comes to its top. -/
def State.unmoor (s : State) (quay k : Nat) : State :=
  let q := s.quayAt quay
  let s := s.putQuay quay { q with deque := listErase q.deque k }
  match s.oldestOverflow quay with
  | none => s
  | some (t, id, m) =>
    let s := s.updCrew id fun c =>
      { c with overflow := dropFirst (fun e => e.1 == t && e.2.1 == quay) c.overflow }
    s.putQuay quay { s.quayAt quay with deque := m :: (s.quayAt quay).deque }

/-! ### Header waits (R141) and the choice of the ACTIVE context (R156) -/

/-- GEN − SEEN for a context of a quay. -/
def State.lagOf (s : State) (q : Nat) (c : Context) (b : Nat) : Nat :=
  ((s.bollard q b).gen - vget 0 c.regs.seen b).toNat

/-- The header wait of a context's next bundle, read from its code as it stands (R155): none where the bundle has none, or cannot
be read or decoded. -/
def State.nextWait (s : State) (q : Nat) (c : Context) : Option (Fin 64 × Nat) :=
  if c.seqEnd || c.dictMismatch then none
  else match s.fillBundle q c c.pc.toNat with
  | none => none
  | some h => match decodeBundle h.raw.toNat with
    | .ok b => if b.hdr.sop % 2 = 1 then some (b.hdr.bol, b.hdr.count) else none
    | .error _ => none

/-- The header wait at which a context stands: that of the bundle in its queues, else of its next one. -/
def State.waitAt (s : State) (q : Nat) (c : Context) : Option (Fin 64 × Nat) :=
  match c.queue.head?.map QEntry.what with
  | some (.event (.headerWait b n)) => some (b, n)
  | some _ => none
  | none => s.nextWait q c

/-- Whether a WAITING context can become READY: its header wait would be satisfied or would fault, or an asynchronous
fault waits to be taken. -/
def State.waitOver (s : State) (q : Nat) (c : Context) : Bool :=
  !c.asyncs.isEmpty || match s.waitAt q c with
    | some (b, n) => decide (n ≤ s.lagOf q c b.val)
    | none => true

/-- WAITING contexts whose wait is over become READY. -/
def State.wakeWaiting (s : State) : State :=
  if s.quay.ctxs.toList.any (fun c => c.st == .waiting && s.waitOver s.here c) then
    s.updQuay fun q =>
      { q with ctxs := q.ctxs.map fun c => if c.st == .waiting && s.waitOver s.here c then { c with st := .ready } else c }
  else s

/-- Whether the harbourmaster holds a crew's contexts: it has asked the crew to stop, or is restoring it (R190, R342). -/
def State.crewHeld (s : State) (crew : Option Nat) : Bool :=
  match crew.bind s.crew with
  | some c => c.stop || c.restoring
  | none => false

/-- Whether the acting quay may make a context ACTIVE. -/
def State.mayRun (s : State) (c : Fin 8) : Bool :=
  (s.quay.ctx c).st == .ready && !s.crewHeld (s.quay.ctx c).crew && match s.lockedCtx with
    | none => true
    | some f => f == c.val

/-- The contexts in the order of the choice: from the one after `c` round to `c`. -/
def afterCtx (c : Fin 8) : List (Fin 8) := (List.finRange 8).map fun i => c + i + 1

/-- The first READY context in that order. -/
def State.nextReady (s : State) : Option (Fin 8) := (afterCtx s.quay.cctx).find? fun c => s.mayRun c

/-- Makes the next READY context ACTIVE when none is (R156): its leg begins with the watchdog at 0, and a change of
context empties the latches (R99), but for a leg that goes on after its crew was saved (R190). -/
def State.pickActive (s : State) : State :=
  let s := s.wakeWaiting
  if s.ctx.st == .active then s
  else match s.nextReady with
    | none => s
    | some n =>
      let old := s.quay.cctx
      let s := s.updQuay fun q => { q with cctx := n }
      s.updCtx fun c =>
        { c with st := .active, wdCount := 0, latches := if n = old || !c.legStart then c.latches else [] }

/-- Ends the leg of the acting context in a new state. -/
def State.endLeg (s : State) (st : CtxState) : State :=
  s.updCtx fun c => { c with st := st, wdCount := 0, legStart := true, lines := [], held := [], ran := [] }

/-! ### Freeing a context (R154, R155) -/

/-- A strand that runs again on a quay whose fused context it was is its fused context there (R186). -/
def State.refuse (s : State) (quay : Nat) (n : Fin 8) : State :=
  let j := sparseGet ({} : Jetty) s.jetties (quay / 4)
  if j.fused && vget 0 j.fborn (quay % 4) == ((s.quayAt quay).ctx n).born then
    { s with jetties := sparsePut s.jetties (quay / 4) { j with fctx := vput j.fctx (quay % 4) n.val } }
  else s

/-- The commands of a strand that halts or suspends set no tag any longer (R175). -/
def State.untag (s : State) : State :=
  let b := s.ctx.born
  let mark : DockEntry → DockEntry := fun d => if d.owner == b then { d with untagged := true } else d
  { s with quays := s.quays.map fun e => (e.1, { e.2 with dock := e.2.dock.map mark }) }

/-- Asynchronous faults not yet taken go to the system context when their strand leaves (R183). -/
def State.orphanFaults (s : State) : State :=
  let c := s.ctx
  let s := c.asyncs.foldl (fun s a =>
    s.report a.code s.here s.quay.cctx.val c.crew (BitVec.ofNat 64 (a.pc.toNat + a.index.toNat * 2 ^ 32))) s
  s.updCtx fun c => { c with asyncs := [] }

/-- DECOUPLE ends lock-step of the jetty (R186). -/
def State.endLockstep (s : State) : State :=
  if s.jetty.fused then
    s.setJetty { s.jetty with members := 0, rejoin := 0, nextPc := Vector.replicate 4 none }
  else s

/-- The context is freed (R154): every slot has retired, so results land; the stores drain; it becomes DORMANT. A TMW that has
not returned waits no longer. A DECOUPLE of the bundle takes effect after its last slot (R89). -/
def State.freeCtx (s : State) : State :=
  let dec := s.ctx.queue.any fun e => match e.what with
    | .event .decouple => true
    | _ => false
  let s := if dec then s.endLockstep else s
  let s := (s.drain.landAll).untag.orphanFaults.quitLockstep.dropRejoin
  let s := s.updCtx fun c =>
    { c with queue := [], realigns := [], loads := c.loads.filter OLoad.lands, regs := { c.regs with tags := 0 } }
  (s.endLeg .dormant).pickActive

/-- HALT (R154): the strand retires. -/
def State.haltStrand (s : State) : State :=
  let s := match s.ctx.crew with
    | some id => s.subLive id
    | none => s
  s.freeCtx

/-- The WINDOW field of a mooring record (R86). -/
def State.windowField (s : State) : BitVec 16 :=
  let w := s.ctx.regs.dictsel.toNat
  BitVec.ofNat 16 (w + winBase s.quay.dictwin w * 4)

/-- The FLAGS half-word (R172). -/
def recFlags (aff energy : Nat) (det fr : Bool) : BitVec 16 :=
  BitVec.ofNat 16 (aff % 4 + energy % 4 * 4 + det.toNat * 16 + fr.toNat * 32)

/-- Whether a scoreboarded operation is still to write a register that a mooring record holds, x0 to x5 (R116, R154). -/
def Context.recordBusy (c : Context) : Bool :=
  c.loads.any fun l => !l.discard && match l.reg with
    | .x r => decide (r.val < 6)
    | _ => false

/-- The record of the acting strand's suspension (R154, R171). -/
def State.suspRecord (s : State) (aff : Nat) : Mooring :=
  let s := s.landAll
  let c := s.ctx
  { resume := c.pc, window := s.windowField, flags := recFlags aff c.energy c.det false
    crew := BitVec.ofNat 32 (c.crew.getD 0), hint := BitVec.ofNat 32 s.here
    x := Vector.ofFn fun i => vget 0 c.regs.x i.val, strand := c.strand, born := c.born }

/-- SUSP (R154): the record goes to the bottom of the quay's deque, and the context is freed. -/
def State.suspStrand (s : State) (aff : Nat) : State :=
  let m := s.suspRecord aff
  s.freeCtx.moor s.here false m

/-! ### Starting and resuming (R173, R328) -/

/-- SEEN as a start or resume sets it (R141). -/
def State.seenNow (s : State) (q : Nat) : Vector (BitVec 16) 64 := Vector.ofFn fun b => (s.bollard q b.val).gen

/-- The register state of a resume (R173): everything at zero but what the crew's launch record and the record name. The
fault registers keep what they hold. -/
def Context.resumed (c : Context) (lr : LaunchRec) (pc : BitVec 32) (sel : BitVec 2) (win : Word)
    (x : Vector Word 6) (e15 : Word) (seen : Vector (BitVec 16) 64) : Context :=
  let regs : Shadowed :=
    { x := Vector.ofFn fun i => vget 0 x i.val, e := (Vector.replicate 16 0).set 15 e15
      srseed := BitVec.ofNat 32 lr.seed, dictsel := sel, seen := seen }
  { st := .ready, regs := regs, shadow := regs, entry := regs, pc := pc, curPc := pc, mark := pc, markIdx := 1
    fault := c.fault, faultPc := c.faultPc, faultVa := c.faultVa
    vecEn := lr.fven, vecPc := BitVec.ofNat 32 lr.fvec, wdlimit := BitVec.ofNat 32 lr.wdlimit, det := lr.det, win := win
    reservedBy := c.reservedBy, crew := c.crew, strand := c.strand, slice := c.slice, cb := lr.cb
    spBase := c.spBase, spSize := c.spSize, energy := lr.energy, lastAff := c.lastAff, born := c.born }

/-- The position of a quay in its crew's placement. -/
def Crew.pos (c : Crew) (quay : Nat) : Nat := c.quays.findIdx fun q => q == quay

/-- The dictionary window of a crew on a quay. -/
def Crew.winOf (c : Crew) (quay : Nat) : Nat := c.window.getD (c.pos quay) 0

/-- Starts a strand of a crew in a context of a quay with the register state of a resume. The start acquires at haven scope, so that
the strand reads what its starter has released to it (R22, R326, R352, R417; log 117). -/
def State.startStrand (s : State) (quay : Nat) (n : Fin 8) (crew : Crew) (strand born : Nat) (pc : BitVec 32)
    (sel : BitVec 2) (x : Vector Word 6) (e15 : Word) : State :=
  let win := (s.quayAt quay).dictwin
  let seen := s.seenNow quay
  ((s.atQuay quay fun s => s.acquire 3).updCtxAt quay n fun c =>
    { c with crew := some crew.id, strand := strand, born := born, slice := crew.slice, lastAff := 0
             spBase := crew.spBases.getD (crew.pos quay) 0, spSize := crew.spSize }.resumed crew.lr pc sel win x e15 seen).refuse
      quay n

/-- A DORMANT context of a quay that a crew reserved. -/
def State.dormantOf (s : State) (quay id : Nat) : Option (Fin 8) :=
  (List.finRange 8).find? fun n =>
    let c := (s.quayAt quay).ctx n
    c.st == .dormant && c.reservedBy == some id

/-! ### Context images (R169 to R175) -/

/-- The number of images in the pool, as system software sized it, at most 2^20 (R169, R429). -/
def State.imageCount (s : State) : Nat := Nat.min s.host.imgCount.toNat (2 ^ 20)

/-- The lowest free image below a number. -/
def State.freeImage (s : State) (n : Nat) : Option Nat :=
  (List.range n).find? fun k => !s.images.any fun i => i.no == k

/-- A 256-bit or narrower vector of registers as bytes, the first lowest. -/
def vecBytes {w n : Nat} (size : Nat) (v : Vector (BitVec w) n) : List Byte := v.toList.flatMap fun x => leBytes size x.toNat

/-- A vector of bits as a number. -/
def bitsNat {n : Nat} (v : Vector Bool n) : Nat := v.toList.foldr (fun b n => b.toNat + 2 * n) 0

/-- A stream's 64 bytes of a context image (R262): its binding and its index table, then zero. -/
def Stream.bytes (st : Stream) (seq : Nat) : List Byte :=
  leBytes 1 (st.bound.toNat + 2 * st.write.toNat + 4 * st.indirect.toNat + 8 * st.table.toNat) ++ leBytes 1 st.dIdx
    ++ leBytes 1 st.dim ++ leBytes 1 (if st.write then st.tm else 0) ++ leBytes 4 (if st.bound then seq else 0)
    ++ leBytes 4 st.count ++ leBytes 4 st.tabOff ++ leBytes 4 st.tabCnt ++ leBytes 4 st.bindPc.toNat
    ++ List.replicate 40 0

/-- The bytes of a context image (R170), of a context whose registers have landed. -/
def Context.imageBytes (c : Context) (resume : BitVec 32) : List Byte :=
  let r := c.regs
  let full : Bool := decide (16 ≤ r.tcq.length)
  let filled := bitsNat (r.targets.map Target.filled)
  let stack : List (BitVec 32) := r.ret.reverse ++ List.replicate (8 - r.ret.length) 0
  leBytes 2 1 ++ leBytes 1 c.parkCode ++ leBytes 1 (if filled = 0 then 0 else 1) ++ leBytes 4 c.faultPc.toNat ++ leBytes 8 c.faultVa.toNat
    ++ leBytes 4 resume.toNat ++ leBytes 4 r.lc.toNat
    ++ leBytes 2 (r.bases.x.toNat + 16 * r.bases.y.toNat + 256 * r.bases.v.toNat + 4096 * r.bases.w.toNat)
    ++ leBytes 1 (bitsNat r.q) ++ leBytes 1 r.dictsel.toNat ++ leBytes 4 r.srseed.toNat ++ leBytes 2 r.tags.toNat
    ++ leBytes 2 ((r.tcq.zipIdx.map fun p => p.1.toNat * 2 ^ ((r.tcqHead + p.2) % 16)).sum)
    ++ leBytes 1 (r.tcqHead % 16 + (if full then 0 else r.tcq.length) * 16) ++ leBytes 1 (r.skewLeft % 16 + full.toNat * 16)
    ++ leBytes 1 r.ret.length ++ leBytes 1 filled ++ leBytes 1 c.fpflags.toNat
    ++ leBytes 1 c.cwcol.toNat ++ leBytes 2 0 ++ leBytes 4 c.fault.toNat ++ vecBytes 4 (r.targets.map Target.addr)
    ++ stack.flatMap (fun a => leBytes 4 a.toNat) ++ List.replicate 16 0
    ++ vecBytes 8 r.x ++ vecBytes 8 r.y ++ vecBytes 8 r.a ++ vecBytes 8 r.e
    ++ r.h.toList.flatMap (fun h => leBytes 8 h.vpage ++ leBytes 8 (h.word false))
    ++ vecBytes 2 r.seen ++ (List.finRange 8).flatMap (fun i => (c.streams.get i).bytes (r.streamPos.get i))
    ++ vecBytes 32 (c.k.set 0 (BitVec.allOnes 256)) ++ vecBytes 32 (c.g.set 0 (BitVec.allOnes 256))
    ++ vecBytes 256 c.v ++ vecBytes 256 c.w

/-- Whether a crew holds something on the quay that ties a fault-resume record to it (R172). -/
def Crew.tied (c : Crew) : Bool := decide (0 < c.spSize) || c.lr.banks != 0 || c.lr.berths != 0

/-- The record of a pager waiter (R167, R172). -/
def State.waiterRecord (s : State) (c : Context) (no : Nat) : Mooring :=
  let tied := match c.crew.bind s.crew with
    | some k => k.tied
    | none => false
  { resume := c.mark, window := s.windowField
    flags := recFlags (if tied then 2 else c.lastAff) c.energy c.det true
    crew := BitVec.ofNat 32 (c.crew.getD 0), hint := BitVec.ofNat 32 (s.here + no * 2 ^ 12)
    x := Vector.ofFn fun i => vget 0 c.regs.x i.val, strand := c.strand, born := c.born }

/-- The ready tags that a command names: its own, and its follow-on's (R240, R250). -/
def DockEntry.tags (d : DockEntry) : List (Fin 16) :=
  ((d.op :: d.follow.toList).filterMap fun i => match i.form with
    | .e _ o => some o.tag
    | _ => none).filter fun t => t != 0

/-- Whether a command of a strand that names a ready tag is still in a dock (R175). -/
def State.tagPending (s : State) (born : Nat) : Bool :=
  s.quays.any fun e => e.2.dock.any fun d => d.owner == born && !d.untagged && !d.tags.isEmpty

/-- The records of images whose wait is over, and whose tagged commands have completed, enter the run deques of their
hint quays at the bottom (R175, R331). -/
def State.moorImages (s : State) : State :=
  let now := s.images.filter fun i => i.resolved && !i.moored && !s.tagPending i.mooring.born
  let mark : Image → Image := fun i => if now.any (fun n => n.no == i.no) then { i with moored := true } else i
  let s := { s with images := s.images.map mark }
  now.foldl (fun s i => s.moor (field i.mooring.hint.toNat 0 9) false i.mooring) s

/-- The waits on a tidemark of a quay are over: it has left HALT (R168). -/
def State.releaseTm (s : State) (q t : Nat) : State :=
  let free : Image → Image := fun i => if i.waitOn == .tidemark q t then { i with resolved := true } else i
  { s with images := s.images.map free }.moorImages

/-- Whether a wait is over already: a tidemark that stands in HALT no longer, or nothing to wait for. -/
def State.waitEnded (s : State) (w : WaitOn) : Bool :=
  match w with
  | .page _ _ _ => false
  | .tidemark q t => (vget {} (s.quayAt q).tms t).st != .halt
  | .nothing => true

/-- Whether a write stream holds accepted elements that are not written yet. -/
def Context.streamsBusy (c : Context) : Bool := c.streams.toList.any fun t => !t.out.isEmpty

/-- A rolled-back context of a quay becomes FAULTED with PERMISSION (R178, R431), and the system context is told. -/
def State.denyCtx (s : State) (quay : Nat) (n : Fin 8) : State :=
  let s := s.updCtxAt quay n fun c =>
    { c with st := .faulted, fault := (c.fault &&& 0xFFFFFF00) ||| BitVec.ofNat 32 FaultCode.permission.code }
  let c := (s.quayAt quay).ctx n
  s.report .permission quay n.val c.crew c.faultVa

/-- Whether the image pool lies in the device's own HBM (R169, R429). -/
def State.poolInHbm (s : State) : Bool := decide (s.normPhys (s.softPhys s.host.imgBase.toNat) < 0xC000000000)

/-- A PARKED context writes its image once the loads issued before its mark have landed, its write streams have written
what they accepted (R262), HBM answers (R431), and an image is free (R167,
R169): the image and its record wait for the page or the tidemark, and the context becomes DORMANT. -/
def State.writeImage (s : State) (n : Fin 8) : State :=
  let c := s.quay.ctx n
  if c.st != .parked || c.loads.any s.awaits || !c.xlates.isEmpty || c.streamsBusy then s
  else if s.poolInHbm && s.hbmFailed then s.denyCtx s.here n
  else if s.poolInHbm && s.hbmWaits then s
  else match s.freeImage s.imageCount with
    | none => s
    | some no =>
      s.asCtx n fun s =>
        let s := s.landAll
        let c := s.ctx
        let s := s.writePool no 0 (c.imageBytes c.mark)
        let img : Image :=
          { no := no, mooring := s.waiterRecord c no, ctx := c, quay := s.here, waitOn := c.waitOn
            resolved := s.waitEnded c.waitOn }
        let s := { s with images := s.images ++ [img] }
        let s := s.quitLockstep
        ((s.updCtx fun c => { c with asyncs := [] }).endLeg .dormant).moorImages

/-- A handle at a fault restore (R174): one that holds a ticket of the answered future becomes valid with the new mapping,
and so does the handle that the fault came through, whose page the pager has translated again (R167). -/
def State.refreshHandle (s : State) (slice : Nat) (c : Context) (i : Fin 16) : Handle :=
  let h := c.regs.h.get i
  if (h.pend && c.served.contains h.ticket) || (c.answered && c.waitHd == some i && !h.valid) then
    match s.translate slice h.vpage with
    | some m => { h with valid := true, pend := false, page := true, r := m.r, w := m.w, x := m.x, size := m.size
                         ticket := 0, pbase := m.pa, vpage := m.va }
    | none => h
  else h

/-- A fault restore (R174) into a context of a quay, which acquires at haven scope like a start (log 117); a Denied one becomes
FAULTED with PERMISSION (R178). -/
def State.restoreImage (s : State) (quay : Nat) (n : Fin 8) (crew : Crew) (m : Mooring) (img : Image) : State :=
  let sel := BitVec.ofNat 2 m.window.toNat
  let win := (s.quayAt quay).dictwin
  let regs := { img.ctx.regs with
    dictsel := sel, h := Vector.ofFn fun i => s.refreshHandle crew.slice img.ctx i }
  let regs := { regs with targets := s.refillTargets quay { img.ctx with regs := regs, win := win } regs.targets }
  let s := (s.atQuay quay fun s => s.acquire 3).updCtxAt quay n fun old =>
    { img.ctx with
      st := .ready, regs := regs, shadow := regs, entry := regs, pc := m.resume, curPc := m.resume, mark := m.resume
      markIdx := img.ctx.lastIdx + 1, reservedBy := old.reservedBy, win := win
      dictMismatch := winBase win sel.toNat != field m.window.toNat 2 8
      spBase := crew.spBases.getD (crew.pos quay) 0, waitOn := .nothing, answered := false, served := [], queue := []
      lines := [], held := [], latches := [] }
  let s := ({ s with images := s.images.filter fun i => i.no != img.no } : State).refuse quay n
  if img.denied then s.denyCtx quay n else s

end Sys2Proof.Machine
end

