-- ==== Sys2Proof/Machine/Branch.lean ====
section
/-! DEFINITION. The B-slot operations (R146 to R154): target buffers, transfers, the return stack, the loop count, the
tile condition queue, traps and the end of a strand. -/

namespace Sys2Proof.Machine

open Sys2Proof

/-! ### Guards (R146) -/

/-- The condition of a B operation: a q register, or with CK a whole mask, which must not be mixed. -/
def State.bGuard (s : State) (o : BOp) : Got Bool :=
  let c := s.ctx
  match o.g with
  | .always => .ok true
  | .on neg n =>
    if !o.ck then .ok (c.qBit .b n != neg)
    else
      let m : MaskWord := (c.readReg .b c.bidx (if o.imm.getLsbD 16 then .g n else .k n)).setWidth 256
      if m = BitVec.allOnes 256 then .ok (true != neg)
      else if m = 0 then .ok (false != neg)
      else .error (.fault .nonuniform none)

/-- Runs a B operation when its condition holds. -/
def bRun (i : Instr) (o : BOp) (f : State → Out) (s : State) : Out :=
  match s.bGuard o with
  | .error h => s.halted i .b h
  | .ok true => f s
  | .ok false => .next s

/-! ### Transfers (R147, R148) -/

/-- The strand's next bundle is at an address. -/
def State.transfer (s : State) (t : BitVec 32) (held : List (BitVec 32 × Held) := []) : State :=
  s.updCtx fun c => { c with pc := t, held := held, seqEnd := false }

/-- Transfers through a target buffer, which supplies the bundles it holds. -/
def State.goThrough (s : State) (t : Fin 8) : Out :=
  let b := s.ctx.regs.targets.get t
  if b.filled then .next (s.transfer b.addr b.at) else .next (s.slotFault .b .targetEmpty)

/-- A fused quay decides a transfer-capable operation (R187). -/
def State.decided (s : State) : State :=
  match s.lockedCtx with
  | some _ => s.setJetty { s.jetty with nextPc := vput s.jetty.nextPc (s.here % 4) (some s.ctx.pc) }
  | none => s

/-- Runs a transfer-capable B operation: whatever its condition, it decides the next bundle (R147). -/
def bDecide (i : Instr) (o : BOp) (f : State → Out) (s : State) : Out := bRun i o f s.decided

/-- The register that PREP and LPSET name in IMM17[4:0]. -/
def Context.bReg (c : Context) (o : BOp) : Got Word := c.getWord .b (c.xReg (Fin.ofNat 32 (field o.imm.toNat 0 5)))

/-- Fills a target buffer (R148). -/
def State.fillTarget (s : State) (t : Fin 8) (a : BitVec 32) : State :=
  let bs := s.fillFrom s.here s.ctx a
  s.updCtx fun c => { c with regs := { c.regs with targets := c.regs.targets.set t.val ⟨true, a, bs⟩ } }

def execPrep (o : BOp) (s : State) : Out :=
  bRun (.prep o) o (fun s =>
    match s.ctx.bReg o with
    | .ok v => .next (s.fillTarget o.t (v.setWidth 32))
    | .error h => s.halted (.prep o) .b h) s

def execPrepi (o : BOp) (s : State) : Out :=
  bRun (.prepi o) o (fun s => .next (s.fillTarget o.t (s.ctx.curPc + o.imm.signExtend 32))) s

def execGo (o : BOp) (s : State) : Out := bDecide (.go o) o (fun s => s.goThrough o.t) s

/-- The next sequential bundle: the length is that of the bundle as it was decoded (R149). -/
def Context.sequential (c : Context) : BitVec 32 := c.curPc + BitVec.ofNat 32 (bundleLen c.curLit)

/-- CALL (R149): a full stack is found before an empty buffer. -/
def execCall (o : BOp) (s : State) : Out :=
  bDecide (.call o) o (fun s =>
    if s.ctx.regs.ret.length ≥ 8 then .next (s.slotFault .b .retstack)
    else (s.updCtx fun c => { c with regs := { c.regs with ret := c.sequential :: c.regs.ret } }).goThrough o.t) s

/-- RET (R149). -/
def execRet (o : BOp) (s : State) : Out :=
  bDecide (.ret o) o (fun s =>
    match s.ctx.regs.ret with
    | [] => .next (s.slotFault .b .retstack)
    | a :: t => .next ((s.updCtx fun c => { c with regs := { c.regs with ret := t } }).transfer a)) s

/-! ### Loops and rotation (R150, R151) -/

/-- One rotation. -/
def Bases.rotate (b : Bases) : Bases := ⟨b.x + 15, b.y + 15, b.v + 15, b.w + 15⟩

def execLoop (o : BOp) (s : State) : Out :=
  bDecide (.loop o) o (fun s =>
    let lc := s.ctx.regs.lc
    if lc = 0 then .next s
    else
      let s := s.updCtx fun c => { c with regs := { c.regs with lc := lc - 1, bases := c.regs.bases.rotate } }
      if lc - 1 = 0 then .next s else s.goThrough o.t) s

def State.setLc (s : State) (v : BitVec 32) : State := s.updCtx fun c => { c with regs := { c.regs with lc := v } }

def execLpset (o : BOp) (s : State) : Out :=
  bRun (.lpset o) o (fun s => .next (s.setLc (BitVec.ofNat 32 (field o.imm.toNat 0 16)))) s

def execLpsetReg (o : BOp) (s : State) : Out :=
  bRun (.lpsetReg o) o (fun s =>
    match s.ctx.bReg o with
    | .ok v => .next (s.setLc (v.setWidth 32))
    | .error h => s.halted (.lpsetReg o) .b h) s

def execRrb (o : BOp) (s : State) : Out :=
  bRun (.rrb o) o (fun s =>
    let k := o.imm.setWidth 4
    .next (s.updCtx fun c => { c with regs := { c.regs with bases := ⟨k, k, k, k⟩ } })) s

/-! ### The tile condition queue (R152) -/

/-- The tile condition bits on their way enter the queue, in their order. -/
def State.landTcq (s : State) : State :=
  let bits := s.ctx.effects.filterMap fun e => match e.what with
    | .tcq b => some b
    | _ => none
  s.updCtx fun c =>
    { c with
      regs := { c.regs with tcq := c.regs.tcq ++ bits }
      effects := c.effects.filter fun e => match e.what with
        | .tcq _ => false
        | _ => true }

/-- TCQGO. With the queue empty it waits for an entry; the bits of the operations that have begun arrive while it does
(DEDUCED, log 115). -/
def execTcqgo (o : BOp) (s : State) : Out :=
  bDecide (.tcqgo o) o (fun s =>
    let r := s.ctx.regs
    if r.skewLeft > 0 then .next (s.updCtx fun c => { c with regs := { c.regs with skewLeft := r.skewLeft - 1 } })
    else
      let s := if r.tcq.isEmpty then s.landTcq else s
      match s.ctx.regs.tcq with
      | [] => stall (.tcqgo o) s
      | b :: t =>
        let s := s.updCtx fun c => { c with regs := { c.regs with tcq := t, tcqHead := (r.tcqHead + 1) % 16 } }
        if b then s.goThrough o.t else .next s) s

/-! ### Operations that act once the other slots of their bundle have retired (R153, R154) -/

/-- The place of an operation that acts behind the other slots and the post of its bundle, before its DECOUPLE and yield. -/
def lastPos : Nat := 12

/-- Whether every action of the bundle that comes before such an operation is done. -/
def Context.lastReady (c : Context) : Bool :=
  !c.queue.any fun e => decide (e.idx < c.bidx) || (e.idx == c.bidx && decide (e.pos < lastPos))

/-- The operation with its condition found true. -/
def settledOp (o : BOp) : BOp := { o with g := .always, ck := false, imm := o.imm &&& 0x0FFFF }

/-- Acts last in the bundle: an operation whose condition holds goes behind the others first. -/
def bLast (i : BOp → Instr) (o : BOp) (f : State → Out) (s : State) : Out :=
  bDecide (i o) o (fun s =>
    if s.ctx.lastReady then f s else .next (s.updCtx fun c => c.requeue (i (settledOp o)) lastPos)) s

/-- TRAP (R153): SOFTWARE_TRAP with its code. -/
def execTrap (o : BOp) (s : State) : Out :=
  bLast .trap o (fun s =>
    .next (s.takeFault
      { code := .softwareTrap, origin := slotNum .b, trap := field o.imm.toNat 0 8, pc := s.ctx.curPc, lit := s.ctx.curLit })) s

/-- HALT (R154). It waits until the write streams have written the elements they accepted (DEDUCED, log 43). -/
def execHalt (o : BOp) (s : State) : Out :=
  bLast .halt o (fun s => if s.ctx.streamsBusy then stall (.halt (settledOp o)) s else .next s.haltStrand) s

/-- SUSP (R154): a FUTW of the bundle has asked for the affinity itself. It waits for the values of x0 to x5 on their way. -/
def execSusp (o : BOp) (s : State) : Out :=
  bLast .susp o (fun s =>
    if s.ctx.streamsBusy || s.ctx.recordBusy then stall (.susp (settledOp o)) s else .next (s.suspStrand (field o.imm.toNat 0 2))) s

/-- FAULTRET (R153): outside a handler it gives ILLEGAL_OP. -/
def execFaultret (o : BOp) (s : State) : Out :=
  bLast .faultret o (fun s =>
    if s.ctx.handler then .next (s.faultReturn (o.imm.getLsbD 0)) else .next (s.slotFault .b .illegalOp)) s

end Sys2Proof.Machine
end

