-- ==== Sys2Proof/Machine/Front.lean ====
section
/-! DEFINITION. The front end of the control core (R77 to R101, R155 to R187): fetch, decode and dispatch of bundles,
header waits and posts, yields, lock-step, asynchronous faults, the watchdog and the writing of context images. -/

namespace Sys2Proof.Machine

open Sys2Proof

/-! ### Code fetch (R77 to R79) -/

/-- The bundle at the pc that a transfer took from its target buffer. -/
def Context.heldHere (c : Context) : Option Held := (c.held.find? fun p => p.1 == c.pc).map Prod.snd

/-- The first line that the bundle at the pc needs and that is not fetched: that of its first code word, then for a literal
bundle that of the escape word's followers. -/
def Context.missingLine (c : Context) : Option Nat :=
  if c.heldHere.isSome then none
  else match c.codeWord c.pc.toNat with
  | none => some (c.codeVa c.pc.toNat / 64)
  | some w =>
    if w = 0xFFFE then
      if (c.line? (c.codeVa (c.pc.toNat + 24))).isNone then some (c.codeVa (c.pc.toNat + 24) / 64) else none
    else none

/-- Whether the first code word of the bundle at the pc has been fetched. -/
def Context.fetched (c : Context) : Bool := c.heldHere.isSome || (c.codeWord c.pc.toNat).isSome

/-- Whether the bundle at the pc is a literal one. -/
def Context.litAtPc (c : Context) : Bool :=
  match c.heldHere with
  | some h => h.lit
  | none => c.codeWord c.pc.toNat == some 0xFFFE

/-- A fault of fetch, decode or header at a bundle. -/
def State.frontFault (s : State) (code : FaultCode) (pc : BitVec 32) (lit : Bool) (va : Option Word := none)
    (access : BitVec 4 := 0) : State :=
  s.takeFault { code := code, origin := 7, va := va, pc := pc, lit := lit, access := access }

/-- The bundle at the pc and whether it is literal, or its fault: reserved, a window that moved while the strand was suspended
(R86), outside the window. None while its code is not fetched. A literal bundle whose words run past the last code-word address
goes on at the byte addresses that follow, and the bundle after it takes FETCH_FAULT (DESIGN CHOICE, log 119). -/
def State.nextBundle (s : State) : Option (Except FaultCode (BitVec 384) × Bool) :=
  let c := s.ctx
  match c.heldHere with
  | some h => some (.ok h.raw, h.lit)
  | none =>
    if c.missingLine.isSome then none
    else (c.codeWord c.pc.toNat).map fun w =>
      let lit : Bool := w == 0xFFFE
      let r : Except FaultCode (BitVec 384) :=
        if lit then .ok (literalOf ((List.range 24).map fun i => (c.codeWord (c.pc.toNat + 1 + i)).getD 0))
        else s.entryOf s.here c w
      match r with
      | .error .codeReserved => (.error .codeReserved, lit)
      | r => (if c.dictMismatch then .error .dictRange else r, lit)

/-! ### Dispatch (R89, R101, R159, R163) -/

/-- Whether an M operation is committing (R163). -/
def committingM : Instr → Bool
  | .amo _ | .cas _ | .bmset _ | .bldset _ | .bpost _ | .dictld _ | .lrfence _ => true
  | .fence o => field o.imm.toNat 3 2 != 0
  | _ => false

/-- Whether an M operation makes a gated store (R32). -/
def storesM : Instr → Bool
  | .stB _ | .stH _ | .stW _ | .stD _ | .vst _ | .vsts _ | .red _ | .vred _ | .sendh _ => true
  | _ => false

/-- The place of a slot operation among the actions of its bundle: those that do not commit by slot, then a committing M
operation, then the E command (R163). -/
def slotPos (k : Slot) (i : Instr) : Nat :=
  if k == .e then 10 else if committingM i then 9 else 2 + slotNum k

/-- The actions of a bundle with their places: its header wait and REJOIN, its operations, its post, behind which an operation
of `lastPos` acts, DECOUPLE and the yield (R89, R163). -/
def bundleItems (b : Bundle) : List (Nat × QItem) :=
  (if b.hdr.sop % 2 = 1 then [(0, .event (.headerWait b.hdr.bol b.hdr.count))] else [])
    ++ (if b.hdr.fu = 2 then [(1, .event .rejoin)] else [])
    ++ (b.ops.map fun p => (slotPos p.1 p.2.2, .slot p.1 p.2.1))
    ++ (if b.hdr.sop / 2 = 1 then [(11, .event (.headerPost b.hdr.bol b.hdr.count))] else [])
    ++ (if b.hdr.fu = 1 then [(13, .event .decouple)] else [])
    ++ (if b.hdr.yld then [(14, .event .yieldLeg)] else [])

/-- The queues of a context with the actions of its newest bundle. -/
def Context.enterQueues (c : Context) (b : Bundle) : List QEntry :=
  (bundleItems b).foldl (fun q p => insertEntry
    { what := p.2, idx := c.lastIdx, pos := p.1, pc := c.lastPc, lit := c.lastLit, bases := c.regs.bases } q) c.queue

/-- Whether a queued action holds the dispatch of later bundles: a header wait or REJOIN, a committing operation, the post, an
operation that acts last, DECOUPLE, a yield, a transfer-capable B operation or one that changes the bases (R89, R147, R151,
R163), and a STATW, whose new value the bundles from its index plus 2 on must see (R129). -/
def QEntry.holds (e : QEntry) : Bool :=
  decide (e.pos < 2) || decide (9 ≤ e.pos) || match e.what with
    | .event _ => true
    | .slot k w => match slotInstr k w with
      | some (.go _) | some (.call _) | some (.ret _) | some (.loop _) | some (.tcqgo _) | some (.faultret _)
      | some (.trap _) | some (.halt _) | some (.susp _) | some (.rrb _) | some (.statw _) => true
      | _ => false

/-- Whether a bundle's index must find every slot retired: it becomes the mark or may have to (R160, R164), or joins the views
(R48). -/
def Context.needsEmpty (c : Context) (b : Bundle) : Bool :=
  b.hdr.mark || b.hdr.vj || b.ops.any fun p => match p.2.2 with
    | .fence _ => committingM p.2.2
    | i => storesM i && decide (64 ≤ c.gated.length + (c.queue.filter fun e => match e.what with
        | .slot .m w => (slotInstr .m w).any storesM
        | _ => false).length)

/-- Whether a queue entry is a header action that comes before the bundle's dispatch into the queues. -/
def QEntry.isFront (e : QEntry) : Bool := decide (e.pos < 2)

/-- The last bundle is still to be dispatched: it leaves the queues, and its index is free again. -/
def Context.takeBack (c : Context) : Context :=
  { c with
    queue := c.queue.filter fun e => e.idx != c.lastIdx, realigns := c.realigns.filter fun r => r.1 != c.lastIdx
    pc := c.lastPc, lastIdx := c.lastIdx - 1, seqEnd := false, waitCycles := 0 }

/-- Whether the last bundle waits at its header. -/
def Context.atHeader (c : Context) : Bool := c.queue.any QEntry.isFront

/-- A bundle that waits at its header is still to be dispatched (R183, R190). -/
def Context.undispatch (c : Context) : Context := if c.atHeader then c.takeBack else c

/-- Whether a queue entry is a transfer-capable B operation (R147). -/
def QEntry.transfers (e : QEntry) : Bool :=
  match e.what with
  | .event _ => false
  | .slot k w => match slotInstr k w with
    | some (.go _) | some (.call _) | some (.ret _) | some (.loop _) | some (.tcqgo _) | some (.faultret _) | some (.trap _)
    | some (.halt _) | some (.susp _) => true
    | _ => false

/-- The quays of the acting jetty in lock-step. -/
def State.lockedQuays (s : State) : List Nat :=
  ((List.range 4).filter fun p => s.jetty.fused && s.jetty.members.getLsbD p).map fun p => s.here / 4 * 4 + p

/-- The fused context of a quay of the acting jetty. -/
def State.fusedCtx (s : State) (q : Nat) : Context :=
  vget {} (s.quayAt q).ctxs (vget 0 s.jetty.fctx (q % 4))

/-- The quays that dispatch together with the acting one: the members of its lock-step, or itself alone. -/
def State.together (s : State) : List Nat := if s.lockedCtx.isSome then s.lockedQuays else [s.here]

/-- Whether a member of the lock-step has decided a transfer-capable B operation that is not compared yet (R187). -/
def State.deciding (s : State) : Bool := s.lockedCtx.isSome && s.jetty.nextPc.toList.any Option.isSome

/-- The decisions of the last bundle index are done with. -/
def State.clearNext (s : State) : State :=
  if s.lockedCtx.isSome then s.setJetty { s.jetty with nextPc := Vector.replicate 4 none } else s

/-- Whether the core holds the fetch and the dispatch of the next bundle of the acting context back: all but a pending asynchronous
fault, which lets the next bundle's first code word still be fetched (R183). -/
def State.frontHeld (s : State) : Bool :=
  let c := s.ctx
  c.st != .active || s.crewHeld c.crew || s.deciding || c.queue.any QEntry.holds
    || decide (c.oldest + 15 < c.lastIdx + 1)
    || (!c.queue.isEmpty && c.effects.any fun e => decide (e.land ≤ c.lastIdx + 1) && match e.what with
      | .statw _ _ => true
      | _ => false)

/-- Whether the core holds the dispatch of the next bundle of the acting context back. -/
def State.dispatchHeld (s : State) : Bool := s.frontHeld || !s.ctx.asyncs.isEmpty

/-- Whether a bundle's realignment holds its dispatch: in lock-step, where what holds one quay holds all, until the slots it names
have retired what is before it (R160, R185). -/
def State.realignHeld (s : State) (b : Bundle) : Bool :=
  s.lockedCtx.isSome && s.ctx.queue.any fun e => b.hdr.ra.testBit e.lane

/-- Whether the next bundle of the acting context can be dispatched, or takes its fault now: a fault is taken only once program
order has reached the bundle (R79). -/
def State.bundleReady (s : State) : Bool :=
  let c := s.ctx
  let none' : Bool := c.queue.isEmpty
  if c.seqEnd then none' && !s.frontHeld else !s.dispatchHeld && match s.nextBundle with
    | none => false
    | some (.error _, _) => none'
    | some (.ok raw, _) => match decodeBundle raw.toNat with
      | .error _ => none'
      | .ok b => if c.needsEmpty b then none' && !(b.hdr.vj && c.streamsBusy) else !s.realignHeld b

/-- Puts a decoded bundle into the slot queues: its index, its bases, its realignment point (R160), its view join (R48) and, with
MK, its mark (R164). -/
def State.enterBundle (s : State) (b : Bundle) (lit : Bool) : State :=
  let fresh := s.ctx.queue.isEmpty
  let before := s.shadowNow
  let age := s.ages
  let s := s.updCtx fun c =>
    let n := c.lastIdx + 1
    let ras := c.realigns.filter fun (r : Nat × BitVec 7) => decide (c.oldest < r.1)
    let c : Context :=
      { c with
        lastIdx := n, lastPc := c.pc, lastLit := lit
        entry := if fresh then before else c.entry, entryIdx := if fresh then n else c.entryIdx
        realigns := if b.hdr.ra = 0 then ras else ras ++ [(n, BitVec.ofNat 7 b.hdr.ra)]
        streams := if b.hdr.vj then c.streams.map fun (t : Stream) => { t with buf := [] } else c.streams
        joinAge := if b.hdr.vj then age else c.joinAge
        waitCycles := if b.hdr.sop % 2 = 1 then c.waitCycles else 0
        dictMismatch := false, held := c.held.filter fun (p : BitVec 32 × Held) => p.1 != c.pc
        legStart := c.legStart && b.hdr.sop % 2 == 1 }
    let len := bundleLen lit
    { c with
      queue := c.enterQueues b, pc := c.pc + BitVec.ofNat 32 len, seqEnd := decide (2 ^ 32 ≤ c.pc.toNat + len) }
  if b.hdr.mark then s.drain.markAt s.ctx.lastPc s.ctx.lastIdx else s

/-- Dispatches the next bundle of the acting context, after the checks of R101 in order. -/
def State.dispatchNext (s : State) : State :=
  let c := s.ctx
  if c.seqEnd then
    s.frontFault .fetchFault c.pc false (some (BitVec.ofNat 64 (s.pageStart c.slice ((c.cb + 2 ^ 33) % 2 ^ 64)))) accX
  else match s.nextBundle with
    | none => s
    | some (.error f, lit) => (s.updCtx fun c => { c with dictMismatch := false }).frontFault f c.pc lit
    | some (.ok raw, lit) => match decodeBundle raw.toNat with
      | .error f => s.frontFault f c.pc lit
      | .ok b => s.enterBundle b lit

/-- Lands what the oldest bundle index not retired sees (R116). -/
def State.settleOldest (s : State) : State := s.settle s.ctx.oldest

/-! ### Lock-step (R185 to R187) -/

/-- Whether the members' decisions at the last bundle differ (R187). -/
def State.diverged (s : State) : Bool := s.deciding && ((s.lockedQuays.map fun q => (s.fusedCtx q).pc).eraseDups.length > 1 : Bool)

/-- A divergence (R187): lock-step ends, or with STRICT every fused quay takes FUSE_DIVERGE at that bundle. -/
def State.diverge (s : State) : State :=
  let qs := s.lockedQuays
  if s.jetty.strict then
    let s := s.clearNext
    qs.foldl (fun s q => s.atQuay q fun s =>
      s.takeFault { code := .fuseDiverge, origin := 9, pc := s.ctx.lastPc, lit := s.ctx.lastLit }) s
  else match qs with
    | [] => s
    | l :: _ =>
      let low := s.fusedCtx l
      let dq := (qs.filter fun q => (s.fusedCtx q).pc != low.pc).foldl (fun b q => b ||| BitVec.twoPow 4 (q % 4)) 0
      s.setJetty
        { s.jetty with div := true, divq := dq, divpc := low.lastPc, members := 0, nextPc := Vector.replicate 4 none }

/-- The decisions of the last bundle index are compared once every member has made its own (R187). -/
def State.judgeNext (s : State) : State :=
  if !s.deciding || !s.lockedQuays.all fun q => !(s.fusedCtx q).queue.any QEntry.transfers then s
  else if s.diverged then s.diverge
  else s.clearNext

/-- A fetch from a peer's memory is a request to it (R383). -/
def State.askCode (s : State) (line : Nat) : State :=
  match s.translate s.ctx.slice (line * 64) with
  | some m =>
    if s.homeDev (mapPhys m (line * 64)) = s.devId then s
    else
      let (age, s) := s.nextAge
      s.askReads (.strand s.ctx.born) s.quay.cctx.val age ((List.range 64).map fun i => mapPhys m (line * 64) + i)
  | none => s

/-- CODE_FETCH: a line arrives, at most four being kept. A line that cannot be read faults only when the bundle at the
pc of the ACTIVE context needs it and nothing holds that bundle back (R79). -/
def execCodeFetch (line : Nat) (s : State) : Out :=
  let c := s.ctx
  if c.st != .active then .next s
  else match s.readCode c.slice line with
    | .ok d => .next ((s.askCode line).updCtx fun c => { c with lines := (line, d) :: (c.lines.filter fun l => l.1 != line).take 3 })
    | .error (.fault code _) =>
      if c.queue.isEmpty && !c.seqEnd && !s.frontHeld && (c.asyncs.isEmpty || !c.fetched) && c.missingLine == some line then
        .next (s.frontFault code c.pc c.litAtPc (some (BitVec.ofNat 64 (s.pageStart c.slice (line * 64)))) accX)
      else .next s
    | .error _ => .next s

/-- BUNDLE_DISPATCH: the next bundle of the acting context enters its slot queues, in lock-step those of every member in the
same cycle (R185). It waits while the bundle's code is not fetched or something holds dispatch back, in any of them. -/
def execBundleDispatch (s : State) : Out :=
  let qs := s.together
  let t := qs.foldl (fun s q => s.atQuay q State.settleOldest) s
  if !qs.all fun q => State.bundleReady { t with here := q } then .next s
  else .next (qs.foldl (fun s q => s.atQuay q fun s => s.dispatchNext.tick) t)

/-! ### Header actions (R89, R141) -/

/-- A header wait of a context of the acting quay is satisfied (R141): SEEN moves on, and a wait on a crew bollard acquires at
device scope (R46). -/
def State.waitDone (s : State) (bol : Fin 64) (n : Nat) : State :=
  let s := if (s.bollard s.here bol.val).crew.isSome then s.acquire 2 else s
  s.updCtx fun c =>
    { c with
      regs := { c.regs with seen := c.regs.seen.set bol.val (c.regs.seen.get bol + BitVec.ofNat 16 n) }
      waitCycles := 0, legStart := false }

/-- Whether the header waits of the other members of the lock-step are satisfied, too: what holds one quay holds all (R185). -/
def State.othersReady (s : State) : Bool :=
  s.together.all fun q => q == s.here || match (s.fusedCtx q).queue.head?.map QEntry.what with
    | some (.event (.headerWait b n)) =>
      let c := s.fusedCtx q
      decide (n ≤ s.lagOf q c b.val) && decide (s.lagOf q c b.val < 32768) && !c.loads.any OLoad.lands
    | _ => true

/-- The header waits of the other members of the lock-step are over in the same cycle. -/
def State.passWaits (s : State) : State :=
  s.together.foldl (fun s q =>
    if q == s.here then s
    else match (s.fusedCtx q).queue with
      | e :: t => match e.what with
        | .event (.headerWait b n) => s.atQuay q fun s => (s.updCtx fun c => { c with queue := t }).waitDone b n
        | _ => s
      | [] => s) s

/-- HEADER_WAIT: satisfied, behind the strand's earlier loads (R46) and in lock-step together with the waits of the other members
(R185), a fault when the lag is too large, or a wait: at the start of a leg the context is WAITING and gives up the issue slot
(R155, R156). -/
def execHeaderWait (bol : Fin 64) (n : Nat) (s : State) : Out :=
  let lag := s.lag bol.val
  if lag ≥ 32768 then .next (s.frontFault .bollardOverflow s.ctx.curPc s.ctx.curLit)
  else if n ≤ lag then
    if s.unbound || !s.othersReady then stall (.headerWait bol n) s else .next ((s.waitDone bol n).passWaits)
  else
    let now := s.quay.cycle.toNat + 1
    let s := s.updCtx fun c => { c with waitCycles := if c.waitCycles = 0 then now else c.waitCycles }
    if s.ctx.legStart then
      .next ((s.updCtx fun c => c.requeue (.headerWait bol n) c.curPos).endLeg .waiting).pickActive.tick
    else stall (.headerWait bol n) s

/-- HEADER_POST: a committing action (R163) and a release, which waits for the strand's outstanding loads (R46) and, as every
committing operation, for room for its reductions (R402). A TMW has retired at its issue (R164). -/
def execHeaderPost (bol : Fin 64) (n : Nat) (s : State) : Out :=
  if s.unbound || !s.flushes then stall (.headerPost bol n) s else .next (commit s fun s => s.post s.here bol.val n)

/-- YIELD: the stores drain, the next bundle is the mark, a new ST_DICTWIN and others' DICTLDs apply (R84, R85), the target
buffers hold the code as it now stands (R80). The context is WAITING where its next bundle has a header wait that is not satisfied,
else READY (R155; its code is read at the yield: DEDUCED, log 121), and the next READY context becomes ACTIVE. -/
def execYieldLeg (s : State) : Out :=
  let s := s.drain
  let win := s.quay.dictwin
  let s := s.updCtx fun c => { (if c.dictRefill then c.windowChange else c) with win := win, dictRefill := false }
  let ts := s.refillTargets s.here s.ctx s.ctx.regs.targets
  let s := s.updCtx fun c => { c with regs := { c.regs with targets := ts } }
  let s := s.markNext.endLeg .ready
  let now := s.quay.cycle.toNat + 1
  let s := if s.waitOver s.here s.ctx then s else s.updCtx fun c => { c with st := .waiting, waitCycles := now }
  .next s.pickActive

/-- DECOUPLE (R186). -/
def execDecouple (s : State) : Out := .next s.endLockstep

/-- A quay's rejoin line is high when its fused context waits at a REJOIN or has stopped, also where another strand has its
context since (R186). -/
def State.rejoinHigh (s : State) (p : Nat) : Bool :=
  let c := s.fusedCtx (s.here / 4 * 4 + p)
  s.jetty.rejoin.getLsbD p || c.born != vget 0 s.jetty.fborn p || match c.st with
    | .dormant | .parked | .faulted => true
    | _ => false

/-- The REJOIN of a quay's fused context is dispatched. -/
def State.passRejoin (s : State) (q : Nat) : State :=
  s.updCtxAt q (Fin.ofNat 8 (vget 0 s.jetty.fctx (q % 4))) fun c =>
    { c with queue := c.queue.filter fun e => e.what != .event .rejoin }

/-- REJOIN (R186): waits until all four lines are high, in lock-step as well; then the waiting quays dispatch their REJOIN
bundles and run in lock-step again. In another context than the fused one it has no effect (DESIGN CHOICE, log 122). -/
def execRejoin (s : State) : Out :=
  if !s.jetty.fused || s.ctx.born != vget 0 s.jetty.fborn (s.here % 4) then .next s
  else
    let s := s.setJetty { s.jetty with rejoin := s.jetty.rejoin ||| BitVec.twoPow 4 (s.here % 4) }
    if (List.range 4).all s.rejoinHigh then
      let qs := ((List.range 4).filter fun p => s.jetty.rejoin.getLsbD p).map fun p => s.here / 4 * 4 + p
      .next ((qs.foldl State.passRejoin s).setJetty
        { s.jetty with members := s.jetty.rejoin, rejoin := 0, nextPc := Vector.replicate 4 none })
    else stall .rejoin s

/-! ### Asynchronous faults, watchdog, timeouts (R158, R168, R183) -/

/-- Whether the context stands at a bundle boundary: every slot has retired the bundles dispatched, but for one that still
waits at its header. -/
def Context.atBoundary (c : Context) : Bool :=
  match c.queue with
  | [] => true
  | e :: _ => e.isFront

/-- The address and the length of the oldest bundle not retired by every slot. -/
def Context.oldestBundle (c : Context) : BitVec 32 × Bool :=
  match c.queue with
  | [] => (c.pc, c.litAtPc)
  | e :: _ => (e.pc, e.lit)

/-- Whether an asynchronous fault can be taken now (R183): at the next bundle, once its first code word is fetched. -/
def Context.takesAsync (c : Context) : Bool :=
  !c.asyncs.isEmpty && c.atBoundary && (!c.queue.isEmpty || (!c.seqEnd && c.fetched))

/-- ASYNC_FAULT_TAKEN (R183): at the next bundle, which has not been dispatched while it waits at its header. A refused SENDH has
ORIGIN 2 and no tidemark (R17). -/
def execAsyncFaultTaken (s : State) : Out :=
  let c := s.ctx
  match c.asyncs with
  | [] => .next s
  | a :: t =>
    if c.st != .active || s.deciding || !c.takesAsync then .next s
    else
      let (pc, lit) := c.oldestBundle
      let s := s.updCtx fun c => { c.undispatch with asyncs := t }
      .next (s.takeFault
        { code := a.code, origin := a.origin, tm := a.tm, pc := pc, lit := lit
          va := some (BitVec.ofNat 64 (a.pc.toNat + a.index.toNat * 2 ^ 32)) })

/-- The watchdog limit: 0 stands for 2^32 (R158). -/
def Context.wdMax (c : Context) : Nat := if c.wdlimit = 0 then 2 ^ 32 else c.wdlimit.toNat

/-- WATCHDOG (R158): at the oldest bundle not retired by every slot. -/
def execWatchdog (s : State) : Out :=
  let c := s.ctx
  if c.st == .active && decide (c.wdMax ≤ c.wdCount) then
    .next (s.frontFault .watchdog c.oldestBundle.1 c.oldestBundle.2)
  else .next s

/-- PAGER_WAITER_IMAGE_WRITE (R169). -/
def execPagerWaiterImageWrite (ctx : Fin 8) (s : State) : Out := .next (s.writeImage ctx)

end Sys2Proof.Machine
end

