-- ==== Sys2Proof/Machine/Layout.lean ====
section
/-! DEFINITION. Layout records (R223 to R227): their fields and checks, the walk through a region, the addresses of
elements, and the reading and writing of elements by an engine. -/

namespace Sys2Proof.Machine

open Sys2Proof

/-! ### Fields (R224) -/

/-- A layout record of 64 bytes. -/
def Layout.ofBits (raw : BitVec 512) : Layout :=
  let n := raw.toNat
  { base := field n 0 64, fmt := field n 64 4, pstore := field n 68 4, pread := field n 72 4, sp := field n 76 1 == 1
    swz := field n 77 1 == 1, rank := field n 78 2 + 1, perm := field n 80 8, dir := field n 88 4, gran := field n 92 4
    ring := field n 96 8, tm := field n 104 8, scale := field n 112 16
    ext := [field n 128 32, field n 160 32, field n 192 32, field n 224 32]
    stride := [256, 320, 384, 448].map fun b => signedField 64 (field n b 64) }

/-- The record's 64 bytes (R224). -/
def Layout.toBits (r : Layout) : BitVec 512 :=
  BitVec.ofNat 512 (r.base + r.fmt * 2 ^ 64 + r.pstore * 2 ^ 68 + r.pread * 2 ^ 72 + r.sp.toNat * 2 ^ 76 + r.swz.toNat * 2 ^ 77
    + (r.rank - 1) * 2 ^ 78 + r.perm * 2 ^ 80 + r.dir * 2 ^ 88 + r.gran * 2 ^ 92 + r.ring * 2 ^ 96 + r.tm * 2 ^ 104
    + r.scale * 2 ^ 112
    + ((List.range 4).map fun k => r.ext.getD k 0 * 2 ^ (128 + 32 * k)
        + (BitVec.ofInt 64 (r.stride.getD k 0)).toNat * 2 ^ (256 + 64 * k)).sum)

/-- The extent of a dimension. -/
def Layout.extent (r : Layout) (k : Nat) : Nat := r.ext.getD k 0

/-- The stride of a dimension. -/
def Layout.step (r : Layout) (k : Nat) : Int := r.stride.getD k 0

/-- The dimension at a traversal position, outermost first. -/
def Layout.at (r : Layout) (j : Nat) : Nat := field r.perm (2 * j) 2

def Layout.descends (r : Layout) (k : Nat) : Bool := r.dir.testBit k

/-- Whether the region is of NBP or E2M1. -/
def Layout.isNbp (r : Layout) : Bool := r.fmt == 9
def Layout.isE2m1 (r : Layout) : Bool := r.fmt == 8

/-- Bits of an element in memory: all P planes of NBP (R225). -/
def Layout.elemBits (r : Layout) : Nat :=
  if r.isNbp then r.pstore
  else match Fmt.ofCode r.fmt with
    | some f => f.bits
    | none => 8

/-- Bytes of an element of a format of 8 bits or more; 1 for the packed ones. -/
def Layout.elemBytes (r : Layout) : Nat := if r.isNbp || r.isE2m1 then 1 else r.elemBits / 8

/-- END: the number of elements (R226). -/
def Layout.count (r : Layout) : Nat := (r.ext.take r.rank).foldl (· * ·) 1

/-- The bytes of the region's elements, rounded up (R253, R259). -/
def Layout.bytes (r : Layout) : Nat := (r.count * r.elemBits + 7) / 8

/-- A berth reference (R247). -/
def Layout.berth? (r : Layout) : Option Nat := if r.sp && r.base / 2 ^ 63 == 1 then some (r.base % 16) else none

/-- The checks of R227, in the order of its table. They come before a use of the record: a berth reference with BASE[62:22] set
gives RESERVED_FIELD and not R247's REGION_SHAPE (DESIGN CHOICE, log 127). -/
def Layout.check (r : Layout) : Option FaultCode :=
  let ps := (List.range r.rank).map r.at
  let beyond := (List.range 4).filter fun k => k ≥ r.rank
  let size := r.elemBytes
  if r.fmt ≥ 11 then some .reservedField
  else if !(ps.Nodup : Bool) || ps.any (fun k => k ≥ r.rank)
      || beyond.any (fun k => r.at k != 0 || r.descends k || r.extent k != 0 || r.step k != 0) then some .reservedField
  else if (!r.isNbp && (r.pstore != 0 || r.pread != 0))
      || (r.isNbp && (r.pstore < 1 || r.pstore > 8 || r.pread < 1 || r.pread > r.pstore)) then some .reservedField
  else if (64 ≤ r.ring && r.ring ≤ 254) || (64 ≤ r.tm && r.tm ≤ 254) || (r.swz && !r.sp)
      || (r.sp && field r.base 22 41 != 0) then some .reservedField
  else if (r.ext.take r.rank).any (· == 0) || r.count ≥ 2 ^ 32 then some .regionShape
  else if (r.isE2m1 || r.isNbp) && (r.at (r.rank - 1) != 0 || r.descends 0) then some .regionShape
  else if r.isE2m1 && r.gran < 1 then some .regionShape
  else if r.isNbp && (r.extent 0 % 64 != 0 || r.gran < 6) then some .regionShape
  else if r.berth?.isNone && r.base % size != 0 then some .misaligned
  else if (List.range r.rank).any (fun k => r.step k % (size : Int) != 0) then some .misaligned
  else none

/-! ### The walk (R226) -/

/-- WalkIndex of the coordinates c. -/
def Layout.walkIndex (r : Layout) (c : List Nat) : Nat :=
  (List.range r.rank).foldl (fun idx j =>
    let k := r.at j
    let x := c.getD k 0
    idx * r.extent k + (if r.descends k then r.extent k - 1 - x else x)) 0

/-- The coordinates of a walk index, along the positions from the innermost outward. -/
def Layout.unwalk (r : Layout) : Nat → Nat → List Nat → List Nat
  | 0, _, c => c
  | j + 1, w, c =>
    let k := r.at j
    let e := r.extent k
    let x := if e = 0 then 0 else w % e
    r.unwalk j (if e = 0 then 0 else w / e) (c.set k (if r.descends k then e - 1 - x else x))

/-- The coordinates of a walk index (the inverse of R226). -/
def Layout.coords (r : Layout) (w : Nat) : List Nat := r.unwalk r.rank w [0, 0, 0, 0]

/-- Σ c[k] × STRIDEk over the dimensions from `lo`. -/
def Layout.offset (r : Layout) (c : List Nat) (lo : Nat) : Int :=
  ((List.range r.rank).filter fun k => lo ≤ k).foldl (fun a k => a + (c.getD k 0 : Int) * r.step k) 0

/-- BASE as an address: a scratchpad offset with SP. -/
def Layout.start (r : Layout) : Nat := r.base

/-- The lowest byte of the region, counted from BASE: negative where strides lead below it. -/
def Layout.lowest (a : Layout) : Int :=
  (List.range a.rank).foldl (fun (x : Int) k =>
    if (a.isE2m1 || a.isNbp) && k = 0 then x
    else if a.step k < 0 then x + ((a.extent k - 1 : Nat) : Int) * a.step k else x) 0

/-- The end of the highest byte of the region, counted from BASE. -/
def Layout.highest (a : Layout) : Nat :=
  let hi := (List.range a.rank).foldl (fun (x : Int) k =>
    if (a.isE2m1 || a.isNbp) && k = 0 then x
    else if a.step k > 0 then x + ((a.extent k - 1 : Nat) : Int) * a.step k else x) (0 : Int)
  hi.toNat + (if a.isNbp then a.extent 0 * a.pstore / 8 else if a.isE2m1 then (a.extent 0 + 1) / 2 else a.elemBytes)

/-- Where an element lies (R225): the address of its first byte, and for E2M1 its nibble, for NBP its place in its
vector. -/
def Layout.place (r : Layout) (c : List Nat) : Int × Nat :=
  if r.isE2m1 then ((r.start : Int) + (c.getD 0 0 / 2 : Nat) + r.offset c 1, c.getD 0 0 % 2)
  else if r.isNbp then ((r.start : Int) + r.offset c 1, c.getD 0 0)
  else ((r.start : Int) + r.offset c 0, 0)

/-- The record of a chaser and of the writer it chases agree (R233). -/
def Layout.agrees (a b : Layout) : Bool :=
  a.base == b.base && a.sp == b.sp && a.swz == b.swz && a.rank == b.rank && a.ext == b.ext && a.stride == b.stride
    && a.fmt == b.fmt && a.pstore == b.pstore

/-- The longest run of elements from a walk index that one beat may take (R235). -/
def Layout.beat (r : Layout) (w : Nat) : Nat :=
  let c := r.coords w
  let k := r.at (r.rank - 1)
  let run := if r.descends k then c.getD k 0 + 1 else r.extent k - c.getD k 0
  let (a, sub) := r.place c
  let size := r.elemBytes
  let step := if r.descends k then -(r.step k) else r.step k
  let inBlock : Nat := 64 - (a % 64).toNat
  if r.isNbp then Nat.min run (64 - sub % 64)
  else if r.isE2m1 then Nat.min run (inBlock * 2 - sub)
  else if step ≠ size then 1
  else Nat.max 1 (Nat.min run (inBlock / size))

/-! ### Accesses of an engine (R237) -/

/-- Why an engine's access cannot be made now: a fault of the command, a page that is not mapped, or HBM that trains. -/
inductive Stop where
  | fault (c : FaultCode)
  | page (n : Nat) (access : BitVec 4)
  | wait
  deriving DecidableEq, Repr

abbrev Reach (α : Type) := Except Stop α

/-- The context of an engine's access: the slice and the scratchpad range of the crew. -/
structure Reacher where
  slice : Nat
  spBase : Nat
  spSize : Nat
  deriving DecidableEq, Repr

/-- The locations of `n` bytes at an address in a space, after the checks of R237: SCRATCH_RANGE, MISALIGNED, the page
and its permission, the range of R26. -/
def State.reach (s : State) (e : Reacher) (sp swz : Bool) (a : Int) (n align : Nat) (wr : Bool) : Reach (List Loc) :=
  if sp then
    if a < 0 || a + n > Nat.min e.spSize spBytes then .error (.fault .scratchRange)
    else if a % align ≠ 0 then .error (.fault .misaligned)
    else .ok ((List.range n).map fun i => .sp (spStore e.spBase swz (a.toNat + i)))
  else
    let va := (a % 2 ^ 64).toNat
    if va % align ≠ 0 then .error (.fault .misaligned)
    else if va / 2 ^ 56 ≠ 0 then .error (.fault .permission)
    else match s.translate e.slice va with
      | none => .error (.page (pageOf va) (if wr then accW else accR))
      | some m =>
        if (wr && !m.w) || (!wr && !m.r) then .error (.fault .permission)
        else if m.va + pageBytes m.size < va + n then .error (.page (pageOf (va + n)) (if wr then accW else accR))
        else match s.memType (mapPhys m va) with
          | .error c => .error (.fault c)
          | .ok .hbm =>
            if s.hbmFailed then .error (.fault .permission)
            else if s.hbmWaits then .error .wait
            else .ok ((List.range n).map fun i => .phys (mapPhys m va + i))
          | .ok _ => .ok ((List.range n).map fun i => .phys (mapPhys m va + i))

/-- The addresses of the bytes that hold plane bits of an NBP element: plane k at byte offset k·L/8 (R56). -/
def Layout.planeAddr (r : Layout) (a : Int) (sub k : Nat) : Int := a + (k * r.extent 0 / 8 + sub / 8 : Nat)

/-- The locations of an element's bytes, all of its planes for NBP. -/
def State.elemLocs (s : State) (e : Reacher) (r : Layout) (p : Int × Nat) (wr : Bool) : Reach (List Loc) :=
  if r.isNbp then
    (List.range r.pstore).foldl (fun acc k => match acc, s.reach e r.sp r.swz (r.planeAddr p.1 p.2 k) 1 1 wr with
      | .ok ls, .ok l => .ok (ls ++ l)
      | .error h, _ => .error h
      | _, .error h => .error h) (.ok [])
  else s.reach e r.sp r.swz p.1 r.elemBytes r.elemBytes wr

/-- The bits of an element from the bytes at its locations: NBP's plane 0 is the top bit (R56); S24 has 24 bits (R57). -/
def Layout.gather (r : Layout) (sub : Nat) (bs : List Byte) : Nat :=
  if r.isNbp then bs.foldl (fun v b => 2 * v + (if b.toNat.testBit (sub % 8) then 1 else 0)) 0
  else if r.isE2m1 then field ((bs.headD 0).toNat) (4 * sub) 4
  else if r.fmt = 10 then ofLeBytes bs % 2 ^ 24
  else ofLeBytes bs

/-- The bytes at an element's locations after its bits are written over the old ones. -/
def Layout.scatter (r : Layout) (sub v : Nat) (old : List Byte) : List Byte :=
  if r.isNbp then old.zipIdx.map fun p =>
    let m : Byte := BitVec.ofNat 8 (2 ^ (sub % 8))
    if v.testBit (r.pstore - 1 - p.2) then p.1 ||| m else p.1 &&& ~~~m
  else if r.isE2m1 then old.map fun b =>
    (b &&& ~~~(BitVec.ofNat 8 (15 * 2 ^ (4 * sub)))) ||| BitVec.ofNat 8 (v % 16 * 2 ^ (4 * sub))
  else if r.fmt = 10 then leBytes 4 (v % 2 ^ 24)
  else leBytes r.elemBytes v

/-- Reads the element at a place. -/
def State.readPlace (s : State) (e : Reacher) (r : Layout) (p : Int × Nat) : Reach Nat :=
  match s.elemLocs e r p false with
  | .ok ls => .ok (r.gather p.2 (ls.map s.readLoc))
  | .error h => .error h

/-- Writes the element at a place. -/
def State.writePlace (s : State) (e : Reacher) (r : Layout) (p : Int × Nat) (v : Nat) : Reach State :=
  match s.elemLocs e r p true with
  | .ok ls => .ok (s.writeLocs (ls.zip (r.scatter p.2 v (ls.map s.readLoc))))
  | .error h => .error h

/-- Reads the element with the given walk index. -/
def State.readElem (s : State) (e : Reacher) (r : Layout) (w : Nat) : Reach Nat := s.readPlace e r (r.place (r.coords w))

/-- Reads `n` bytes at an address of a space as a number. -/
def State.readAt (s : State) (e : Reacher) (sp swz : Bool) (a : Int) (n align : Nat) : Reach Nat :=
  match s.reach e sp swz a n align false with
  | .ok ls => .ok (ofLeBytes (ls.map s.readLoc))
  | .error h => .error h

/-- Writes bytes at an address of a space. -/
def State.writeAt (s : State) (e : Reacher) (sp swz : Bool) (a : Int) (align : Nat) (bs : List Byte) : Reach State :=
  match s.reach e sp swz a bs.length align true with
  | .ok ls => .ok (s.writeLocs (ls.zip bs))
  | .error h => .error h

/-- Reads a virtual range of any length, byte by byte. -/
def State.readRange (s : State) (e : Reacher) : Int → Nat → Reach (List Byte)
  | _, 0 => .ok []
  | a, n + 1 =>
    match s.reach e false false a 1 1 false with
    | .error h => .error h
    | .ok ls => match s.readRange e (a + 1) n with
      | .ok bs => .ok (ls.map s.readLoc ++ bs)
      | .error h => .error h

end Sys2Proof.Machine
end

