-- ==== Sys2Proof/Machine/Dock.lean ====
section
/-! DEFINITION. Tidemarks (R230 to R234, R245) and the dock of a quay (R228, R237 to R243, R274): the tidemark table,
coverage, dock entries, their faults, page waits, completion and abandonment, claim lists and engine units. -/

namespace Sys2Proof.Machine

open Sys2Proof

/-! ### The tidemark table -/

/-- Tidemark `t` of the acting quay. -/
def State.tm (s : State) (t : Nat) : Tidemark := vget {} s.quay.tms t

/-- What a publisher copies into its global tidemark (R245). -/
def globalCopy (quay t : Nat) (m : Tidemark) : GlobalMark :=
  { value := m.value, st := m.st, wop := m.wop, endv := m.endv, pubQuay := quay, pubTm := t, bound := true
    broken := m.broken, fcode := m.fcode, findex := m.findex, layout := m.layout }

/-- What the haven's other devices see of a global tidemark (R245). -/
def GlobalMark.remote (g : GlobalMark) : RemoteMark :=
  { value := g.value, state := g.st.code, endv := g.endv, broken := g.broken
    record := match g.layout with
      | some l => l.toBits
      | none => 0 }

/-- The other devices of the haven. -/
def State.otherMembers (s : State) : List Nat := (List.range 64).filter fun d => s.members.getLsbD d && d != s.devId

/-- Changes a tidemark of the acting quay: a publisher copies a change (R245), for the haven's other devices too, and the
waits behind a HALT that ends are over (R168). -/
def State.putTm (s : State) (t : Nat) (m : Tidemark) : State :=
  let old := s.tm t
  let s := s.updQuay fun q => { q with tms := vput q.tms t m }
  let g := globalCopy s.here t m
  let s := if m.pub && sparseGet {} s.gtms m.gidx != g then
      s.otherMembers.foldl (fun s d => s.toDev d (.tidemark m.gidx g.remote)) { s with gtms := sparsePut s.gtms m.gidx g }
    else s
  if old.st == .halt && m.st != .halt then s.releaseTm s.here t else s

/-- The writer of a tidemark's run raises its value in RUN; at END the tidemark is DONE (R231). Another's value changes nothing: the
run that it took is over (R263). -/
def State.publish (s : State) (t v : Nat) (w : Option TmWriter) : State :=
  let m := s.tm t
  let v := Nat.min v m.endv
  if m.st != .run || m.writer != w || decide (v ≤ m.value) then s
  else s.putTm t { m with value := v, st := if v = m.endv then .done else m.st }

/-- A tidemark halts at a walk index with a fault code (R231, R237). -/
def State.haltTm (s : State) (t code index : Nat) : State :=
  let m := s.tm t
  if m.st == .run || m.st == .halt then s.putTm t { m with st := .halt, fcode := code, findex := index } else s

/-- A halted tidemark returns to RUN (R231). -/
def State.resumeTm (s : State) (t : Nat) : State :=
  let m := s.tm t
  if m.st == .halt then s.putTm t { m with st := .run } else s

/-- Whether a writer can take a tidemark (R232). -/
def Tidemark.takable (m : Tidemark) : Bool := m.st == .idle || (m.st == .done && m.chasers == 0)

/-- The fields of a tidemark that a TMRST clears (R256). -/
def Tidemark.cleared (m : Tidemark) : Tidemark :=
  { gidx := m.gidx, pub := m.pub, fol := m.fol, fdev := m.fdev, chasers := m.chasers
    crew := if m.pub || m.fol then m.crew else none }

/-- The tidemark as a writer takes it (R231, R232). -/
def Tidemark.taken (m : Tidemark) (opc ctx rec endv : Nat) (l : Layout) (crew : Option Nat) (writer : TmWriter) : Tidemark :=
  { m with
    crew := crew, writer := some writer
    value := 0, st := .run, wop := opc, wctx := ctx, wrec := rec, fcode := 0, findex := 0, endv := endv
    layout := some l, broken := false }

/-! ### Coverage (R233) -/

/-- Whether the element with given coordinates of a record, in the tile of its berth that begins at writer index `base`,
is covered; or the fault of its chaser. -/
def State.covered (s : State) (r : Layout) (base : Nat) (c : List Nat) : Except FaultCode Bool :=
  if r.tm = 0xFF then .ok true
  else
    let m := s.tm r.tm
    match m.st with
    | .abandon => .error (if m.broken then .hawserBroken else .frontierAbandoned)
    | .idle => .ok false
    | st => match m.layout with
      | none => .error .regionShape
      | some l =>
        if !r.agrees l then .error .regionShape
        else .ok (st == .done || decide (m.value > base + l.walkIndex c))

/-- Whether all of several elements are covered. -/
def State.allCovered (s : State) : List (Layout × Nat × List Nat) → Except FaultCode Bool
  | [] => .ok true
  | (r, b, c) :: t =>
    match s.covered r b c with
    | .error f => .error f
    | .ok false => .ok false
    | .ok true => s.allCovered t

/-- The tidemark that the first uncovered of several elements waits on (R241). -/
def State.waitsOn (s : State) (l : List (Layout × Nat × List Nat)) : Option Nat :=
  (l.find? fun e => match s.covered e.1 e.2.1 e.2.2 with
    | .ok true => false
    | _ => true).map fun e => e.1.tm

/-! ### Dock entries -/

/-- The operand fields of a command. -/
def cmdOp (i : Instr) : EOp :=
  match i.form with
  | .e _ o => o
  | _ => {}

/-- The OPC of a command. -/
def cmdOpc (i : Instr) : Nat :=
  match i.form with
  | .e c _ => c
  | _ => 0

def DockEntry.o (d : DockEntry) : EOp := cmdOp d.op
def DockEntry.opc (d : DockEntry) : Nat := cmdOpc d.op
def DockEntry.fn (d : DockEntry) : Nat := d.o.func.toNat
def DockEntry.reacher (d : DockEntry) : Reacher := ⟨d.slice, d.spBase, d.spSize⟩

/-- The index of the strand's fault registers that a failed check at dock entry gives (R227). -/
def noIndex : Nat := 0xFFFFFFFF

def State.cmd? (s : State) (seq : Nat) : Option DockEntry := s.quay.dock.find? fun d => d.seq == seq

def State.updCmd (s : State) (seq : Nat) (f : DockEntry → DockEntry) : State :=
  s.updQuay fun q => { q with dock := q.dock.map fun d => if d.seq == seq then f d else d }

def State.dropCmd (s : State) (seq : Nat) : State :=
  s.updQuay fun q => { q with dock := q.dock.filter fun d => d.seq != seq }

/-- Dock entries in use: a CPMM holds a second one for its follow-on (R238). -/
def Quay.dockUsed (q : Quay) : Nat := (q.dock.map fun d => if d.follow.isSome then 2 else 1).sum

/-- Marks progress of a command, for the waits of R241 and R242. -/
def State.progress (s : State) (seq : Nat) : State :=
  let now := s.quay.cycle.toNat
  s.updCmd seq fun d => { d with waited := now, walkAt := some 4096 }

/-- A command enters the dock after all that have entered it (R274). -/
def State.rankCmd (s : State) (seq : Nat) : State :=
  let n := s.quay.nextRank + 1
  (s.updQuay fun q => { q with nextRank := n }).updCmd seq fun d => { d with rank := if d.rank = 0 then n else d.rank }

/-! ### Units and claims (R235, R239, R274, R278, R284, R308) -/

/-- The engines of a quay. The last six never run out of units here: the tidemark and register commands, the streams, the KV page
engine and its hash unit, the collective engine and the harbourmaster. -/
inductive Engine where
  | crane | array | epilogue | projection | build | lookup | marks | streams | page | hash | collective | harbour
  deriving DecidableEq, Repr

/-- Whether a command is served by a home engine of KV pages in its serial steps. -/
def DockEntry.isKv (d : DockEntry) : Bool := decide (0x41 ≤ d.opc) && decide (d.opc ≤ 0x49)

def DockEntry.engine (d : DockEntry) : Engine :=
  let c := d.opc
  if 1 ≤ c ∧ c ≤ 8 then .crane
  else if 0x18 ≤ c ∧ c ≤ 0x1A then .streams
  else if c = 0x20 ∨ c = 0x21 then .array
  else if c = 0x22 ∨ c = 0x23 then .epilogue
  else if c = 0x24 then .projection
  else if c = 0x31 then .lookup
  else if 0x30 ≤ c ∧ c ≤ 0x35 then .build
  else if c = 0x40 then .hash
  else if d.isKv then .page
  else if 0x50 ≤ c ∧ c ≤ 0x5F then .collective
  else if 0x60 ≤ c then .harbour
  else .marks

/-- Units of an engine. -/
def Engine.units : Engine → Nat
  | .crane => 4
  | .array | .epilogue | .projection | .build | .lookup => 1
  | _ => 64

/-- Whether an engine has a free unit; a TLK that rebuilds a register occupies the build unit (R301). -/
def State.unitFree (s : State) (e : Engine) : Bool :=
  decide ((s.quay.dock.filter fun d => d.phase == .running
    && (d.engine == e || (e == .build && d.opc == 0x31 && d.group == 1))).length < e.units)

/-- What a command claims: a bank, a projection register to read or fill, a table register. -/
inductive Claim where
  | acc (n : Nat)
  | proj (n : Nat) (reads : Bool)
  | tab (n : Nat)
  deriving DecidableEq, Repr

/-- TLK's fields of its descriptor (R311). -/
def tlkTab (pa : Word) : Nat := field pa.toNat 0 5
def tlkSpan (pa : Word) : Nat := field pa.toNat 5 5 + 1
def tlkTok (pa : Word) : Nat := field pa.toNat 10 2 + 1
def tlkW0 (pa : Word) : Nat := field pa.toNat 14 14
def tlkKb0 (pa : Word) : Nat := field pa.toNat 32 32
def DockEntry.tlkBank (d : DockEntry) : Nat := field d.fn 3 4

def DockEntry.claims (d : DockEntry) : List Claim :=
  match d.op with
  | .mma _ =>
    .acc (d.fn % 16) :: (if d.o.var.val % 4 = 0 then [] else [.proj (field d.pa.toNat 16 2) true])
  | .mmas _ | .acz _ | .epi _ => [.acc (d.fn % 16)]
  | .pjld _ => [.proj (d.fn % 4) false]
  | .tbld _ | .tspl _ | .tfil _ => [.tab (d.fn % 32)]
  | .tinv _ => if d.fn.testBit 5 then (List.range 32).map .tab else [.tab (d.fn % 32)]
  | .tlk _ =>
    (List.range (tlkTok d.pa)).map (fun i => .acc (d.tlkBank + i))
      ++ (List.range (tlkTok d.pa * tlkSpan d.pa)).map (fun i => .tab (tlkTab d.pa + i))
  | _ => []

/-- Whether two claims exclude each other: readers of one projection register run together (R278). -/
def Claim.excludes : Claim → Claim → Bool
  | .acc a, .acc b => a == b
  | .proj a r, .proj b q => a == b && !(r && q)
  | .tab a, .tab b => a == b
  | _, _ => false

/-- Whether a command is at the head of every claim list it is on (R274). -/
def State.atHead (s : State) (d : DockEntry) : Bool :=
  s.quay.dock.all fun e => e.rank == 0 || decide (d.rank ≤ e.rank)
    || !(e.claims.any fun a => d.claims.any fun b => a.excludes b)

/-- Whether a bank is held by a command, or named by one that has been issued (R274, R275). -/
def State.bankHeld (s : State) (b : Nat) : Bool := s.quay.dock.any fun d => d.claims.contains (.acc b)

/-- Lands the bank writes of a list of effects. A command that only reads its bank leaves with each the words it replaced
(R116); one that writes it leaves none, since a read that follows it sees its words and no older ones (R295). -/
def State.landWrites (s : State) (p : Nat → Bool) (reads : Bool) : List PendEffect → State × List PendEffect
  | [] => (s, [])
  | e :: t =>
    let (s, e) : State × List PendEffect := match e.what with
      | .bank b cells =>
        if p b then
          let k : Bank := vget {} s.quay.banks b
          let old : List (Nat × BitVec 32) := cells.map fun (c : Nat × BitVec 32) => (c.1, sparseGet 0 k.words c.1)
          (e.what.apply s, if reads then [{ e with what := .bankOld b old }] else [])
        else (s, [e])
      | .bankOld b _ => (s, if p b && !reads then [] else [e])
      | _ => (s, [e])
    let (s, t) := s.landWrites p reads t
    (s, e ++ t)

/-- Bundle-port writes to a bank land before a command that names it starts (R275). -/
def State.landBanks (s : State) (d : DockEntry) : State :=
  let epi : Bool := match d.op with
    | .epi _ => true
    | _ => false
  (List.finRange 8).foldl (fun s n =>
    let (s, l) := s.landWrites (fun b => d.claims.contains (.acc b)) epi (s.quay.ctx n).effects
    s.updCtxAt s.here n fun c => { c with effects := l }) s

/-! ### Faults of commands (R183, R237) -/

/-- Whether the command moves its tidemark by its faults, resumes and abandonment: one it took, or the tail of the berth
that it has begun to write (R237, R247). -/
def DockEntry.owns (d : DockEntry) : Bool := d.taken || (d.berth.isSome && d.started)

/-- Berth `b` of the acting quay. -/
def State.berthAt (s : State) (b : Nat) : Berth := vget {} s.quay.berths b

/-- Whether a tidemark's run is still a command's: the one that it took, or that of its berth's tail. -/
def State.holds (s : State) (d : DockEntry) : Bool :=
  d.owns && (s.tm d.o.tm.val).writer == match d.berth with
    | none => some (.command d.seq)
    | some b => (s.berthAt b).setBy

/-- Collective slot `n`. -/
def State.slot (s : State) (n : Nat) : CollSlot := vget {} s.slots n

def State.updSlot (s : State) (n : Nat) (f : CollSlot → CollSlot) : State := { s with slots := vput s.slots n (f (s.slot n)) }

/-- Whether a command is a CLGO whose instance has started. -/
def DockEntry.instance? (d : DockEntry) : Bool := d.opc == 0x51 && d.started

/-- The tidemark whose run is a command's, with its quay: for a CLGO DA's of its slot (R396). -/
def State.markOf (s : State) (d : DockEntry) : Option (Nat × Nat) :=
  let x := s.slot (d.fn % 64)
  if d.instance? then
    if (vget {} (s.quayAt x.quay).tms x.tm).writer == some (.collective (d.fn % 64) x.gen) then some (x.quay, x.tm) else none
  else if s.holds d then some (s.here, d.o.tm.val) else none

/-- The tidemark whose run is a command's enters HALT. -/
def State.haltMark (s : State) (d : DockEntry) (code index : Nat) : State :=
  match s.markOf d with
  | some (q, t) => s.atQuay q fun s => s.haltTm t code index
  | none => s

/-- Reports an asynchronous fault to the strand `born`, in a context or in the image of a pager waiter; the system context has
it when the strand is in neither (R183). -/
def State.tellStrand (s : State) (born quay ctx : Nat) (crew : Option Nat) (a : AsyncFault) : State :=
  match s.strandAt born with
  | .ctx q c => s.updCtxAt q c fun x => { x with asyncs := x.asyncs ++ [a] }
  | .image n =>
    { s with images := s.images.map fun i =>
        if i.no == n then { i with ctx := { i.ctx with asyncs := i.ctx.asyncs ++ [a] } } else i }
  | .gone => s.report a.code quay ctx crew (BitVec.ofNat 64 (a.pc.toNat + a.index.toNat * 2 ^ 32))

/-- A command halts on an asynchronous fault: its tidemark halts, its unit is free, it keeps its entry, its claims and
its chaser registrations; its strand is told, or the system context when the strand holds no context. A CLGO's slot is HALTED with
its instance (R398). -/
def State.cmdFault (s : State) (seq : Nat) (code : FaultCode) (index : Nat) : State :=
  match s.cmd? seq with
  | none => s
  | some d =>
    let s := s.updCmd seq fun d => { d with phase := .halted, fcode := code.code, findex := index }
    let s := s.haltMark d code.code index
    let s := if d.instance? then s.updSlot (d.fn % 64) fun x => { x with st := .halted, fcode := code.code } else s
    s.tellStrand d.owner s.here d.ctx.val d.crew ⟨code, d.o.tm.val, d.pc, BitVec.ofNat 32 index, 8⟩

/-- A page wait (R237): the tidemark halts with HANDLE_PENDING, the unit is free, the pager holds the command. -/
def State.pageStop (s : State) (seq page : Nat) (access : BitVec 4) (index : Nat) : State :=
  match s.cmd? seq with
  | none => s
  | some d =>
    let s := s.updCmd seq fun d => { d with phase := .pageWait, page := some page, findex := index, fcode := 0 }
    let s := s.haltMark d FaultCode.handlePending.code index
    s.pagerFault { slice := d.slice, page := page, access := access, waiter := .command s.here seq }

/-- What a stop of an access does to a command at an element; a wait changes nothing. -/
def State.stopAt (s : State) (seq : Nat) (h : Stop) (index : Nat) : State :=
  match h with
  | .fault c => s.cmdFault seq c index
  | .page n a => s.pageStop seq n a index
  | .wait => s

/-! ### Chasers (R232, R233) -/

/-- The records that a command reads as regions. -/
def DockEntry.sources (d : DockEntry) : List Layout :=
  let ra := [0x20, 0x21, 0x24, 0x30, 0x31].contains d.opc
  (if ra then d.recA.toList else []) ++ d.recB.toList ++ d.sclA.toList ++ d.sclB.toList

/-- A chaser compares its record with that of a writer in progress when it enters the dock (R233). -/
def State.joinable (s : State) (r : Layout) : Except FaultCode Unit :=
  if r.tm = 0xFF then .ok ()
  else match (s.tm r.tm).st, (s.tm r.tm).layout with
    | .idle, _ => .ok ()
    | _, some l => if r.agrees l then .ok () else .error .regionShape
    | _, none => .ok ()

/-- Registers a command as chaser of a tidemark, once. -/
def State.chase (s : State) (seq t : Nat) : State :=
  if t ≥ 64 || (match s.cmd? seq with
      | some d => d.chases.contains t
      | none => true) then s
  else
    let s := s.updQuay fun q => { q with tms := vput q.tms t { vget {} q.tms t with chasers := (vget {} q.tms t).chasers + 1 } }
    s.updCmd seq fun d => { d with chases := d.chases ++ [t] }

/-- Ends a chaser registration. -/
def State.unchase (s : State) (t : Nat) : State :=
  s.updQuay fun q => { q with tms := vput q.tms t { vget {} q.tms t with chasers := (vget {} q.tms t).chasers - 1 } }

/-- The registered chasers of a tidemark of the acting quay that have not halted, with their quays: of its own dock, and CLGOs of
other quays. -/
def State.chasersOf (s : State) (t : Nat) : List (Nat × DockEntry) :=
  s.quays.flatMap fun e => (e.2.dock.filter fun d => d.entered && d.phase != .halted
    && ((e.1 == s.here && d.chases.contains t) || d.away == some (s.here, t))).map fun d => (e.1, d)

/-- When a writer starts, each waiting chaser compares its record with the writer's (R233). -/
def State.compareChasers (s : State) (t : Nat) : State :=
  match (s.tm t).layout with
  | none => s
  | some l =>
    let bad := (s.chasersOf t).filter fun e => e.2.sources.any fun r => r.tm == t && !r.agrees l
    bad.foldl (fun s e => s.atQuay e.1 fun s => s.cmdFault e.2.seq .regionShape noIndex) s

/-- Every registered chaser of an abandoned tidemark faults (R242, R243). -/
def State.faultChasers (s : State) (t : Nat) (broken : Bool) : State :=
  (s.chasersOf t).foldl (fun s e =>
    s.atQuay e.1 fun s => s.cmdFault e.2.seq (if broken then .hawserBroken else .frontierAbandoned) e.2.count) s

/-- A command takes its tidemark as the writer of a record (R232). -/
def State.takeTm (s : State) (d : DockEntry) (l : Layout) (endv : Nat) : State :=
  let t := d.o.tm.val
  let s := s.putTm t ((s.tm t).taken d.opc d.ctx.val d.o.da.val endv l d.crew (.command d.seq))
  (s.updCmd d.seq fun d => { d with taken := true }).compareChasers t

/-- A tidemark is abandoned: every registered chaser faults (R242, R243). -/
def State.abandonTm (s : State) (t : Nat) (broken : Bool) : State :=
  let m := s.tm t
  if m.st == .run || m.st == .halt then (s.putTm t { m with st := .abandon, broken := broken }).faultChasers t broken else s

/-! ### Memory beyond the quay: floors and requests (R338, R383) -/

/-- The physical addresses of elements of records that a command reads or writes. -/
def State.needAddrs (s : State) (d : DockEntry) (l : List (Layout × List Nat)) (wr : Bool) : List Nat :=
  l.flatMap fun e => if e.1.sp then [] else match s.elemLocs d.reacher e.1 (e.1.place e.2) wr with
    | .ok ls => physAddrs ls
    | .error _ => []

/-- The floor of accesses in several memories: that of the farthest. -/
def State.floorMax (s : State) (as : List Nat) : Nat := (as.map fun a => s.floorOf [a]).foldl Nat.max 0

/-- Whether the data that a command has asked for has arrived: in deterministic mode exactly at its floor (R338). -/
def State.dataReady (s : State) (d : DockEntry) (as : List Nat) : Bool :=
  !s.isDet d.crew || s.floorMax as == 0 || match d.reqAt with
    | some t => decide (t + s.floorMax as ≤ s.quay.cycle.toNat)
    | none => false

/-- The request for data leaves. -/
def State.request (s : State) (d : DockEntry) : State :=
  if d.reqAt.isSome then s else s.updCmd d.seq fun e => { e with reqAt := some s.quay.cycle.toNat }

/-- The packets of a command's reads in peers' memories (R383). -/
def State.askFor (s : State) (d : DockEntry) (as : List Nat) : State :=
  if (s.peersOf as).isEmpty then s
  else
    let (age, s) := s.nextAge
    s.askReads (.command d.seq) d.ctx.val age as

/-- The packets of what a command has written into peers' memories (R383). -/
def State.tellPeers (s : State) (d : DockEntry) (as : List Nat) : State :=
  if (s.peersOf as).isEmpty then s
  else
    let (age, s) := s.nextAge
    s.sendWrites (.command d.seq) d.ctx.val age (as.map fun a => (a, s.readByte a))

/-- A command acts on data at some addresses: its request leaves, and in deterministic mode it acts when the data arrives; data
later than its floor is noted (R338). -/
def State.withData (s : State) (d : DockEntry) (as : List Nat) (f : State → State) : State :=
  if !s.dataReady d as then s.request d
  else
    let s := s.noteLate d.crew (s.floorMax as) (d.reqAt.getD s.quay.cycle.toNat)
    f ((s.updCmd d.seq fun e => { e with reqAt := none }).askFor d as)

/-! ### Completion (R240) and removal -/

/-- The chaser registrations of a command end. -/
def State.endChases (s : State) (d : DockEntry) : State :=
  let s := match d.away with
    | some (q, t) => s.atQuay q fun s => s.unchase t
    | none => s
  d.chases.foldl State.unchase s

/-- A command leaves the dock with its chaser registrations. -/
def State.retireCmd (s : State) (d : DockEntry) : State := (s.endChases d).dropCmd d.seq

/-- What the completion of a command does (R240): its bollard is posted, its tag set, its flags raised, its registrations
end. -/
def State.settleCmd (s : State) (d : DockEntry) : State :=
  let s := (s.retireCmd d).give d.owner (if d.untagged then 0 else d.o.tag) d.flags
  if d.o.bol = 0 then s else s.post s.here d.o.bol.val 1

/-- A command completes; records that waited for its tag enter their deques (R175). -/
def State.complete (s : State) (d : DockEntry) : State := (s.settleCmd d).moorImages

/-! ### Issue (R22, R163, R238, R248) -/

/-- A new dock entry of the acting context. -/
def State.newEntry (s : State) (i : Instr) (a b : Word) (seq : Nat) : DockEntry :=
  let c := s.ctx
  { seq := seq, op := i, owner := c.born, ctx := s.quay.cctx, pc := c.curPc, pa := a, pb := b
    seed := c.regs.srseed, crew := c.crew, slice := c.slice, spBase := c.spBase, spSize := c.spSize, strand := c.strand
    issuedAt := s.refTime, bidx := c.bidx, waited := s.quay.cycle.toNat }

/-- Puts an entry into the dock under the next issue sequence number. -/
def State.enqueueCmd (s : State) (f : Nat → DockEntry) : State :=
  s.updQuay fun q => { q with dock := q.dock ++ [f q.nextSeq], nextSeq := q.nextSeq + 1 }

/-- The follow-on command that CPMM's e[PB] encodes (R250). An encoding of an allowed OPC that does not decode is none, so that
CPMM takes ILLEGAL_OP as for another OPC (DESIGN CHOICE, log 126). -/
def followOp (w : Word) : Option Instr :=
  match decodeE w.toNat with
  | .ok (some i) => match i with
    | .mma o | .mmas o | .acz o | .epi o => if o.g == .always then some i else none
    | _ => none
  | _ => none

/-- Reads the e register of a field that the operation uses. -/
def Context.eReg (c : Context) (used : Bool) (n : Fin 16) : Got Word := if used then c.getWord .e (.e n) else .ok 0

/-- Whether a command uses its PA and PB fields. -/
def usesRegs (i : Instr) : Bool × Bool :=
  match eRow (cmdOpc i) (cmdOp i).func.toNat with
  | some (u, _) => (u.pa, u.pb)
  | none => (false, false)

/-- Issues a command into the dock: it stalls while the dock has no room, then commits (R14, R24, R163), once its strand's reductions
have room (R402). -/
def issueE (i : Instr) (o : EOp) (s : State) : Out :=
  if !s.ctx.guardHolds .e o.g then .next s
  else match s.ctx.eReg (usesRegs i).1 o.pa, s.ctx.eReg (usesRegs i).2 o.pb with
    | .error h, _ => s.halted i .e h
    | _, .error h => s.halted i .e h
    | .ok a, .ok b =>
      let two : Bool := cmdOpc i == 0x02
      if s.quay.dockUsed + (if two then 2 else 1) > 32 then stall i s
      else if two then
        let fo := EFields.ofWord b.toNat
        match s.ctx.getWord .e (.e (Fin.ofNat 16 fo.pa)), s.ctx.getWord .e (.e (Fin.ofNat 16 fo.pb)) with
        | .ok a2, .ok b2 =>
          if s.flushes then
            .next (commit s fun s => s.enqueueCmd fun n =>
              { s.newEntry i a b n with pa2 := a2, pb2 := b2, follow := some ((followOp b).getD i) })
          else stall i s
        | .error h, _ => s.halted i .e h
        | _, .error h => s.halted i .e h
      else if s.flushes then .next (commit s fun s => s.enqueueCmd (s.newEntry i a b))
      else stall i s

/-! ### The record cache (R223, R228) -/

/-- The storage of record `n` of a command's crew. -/
def State.recordOff (s : State) (d : DockEntry) (n : Nat) : Nat :=
  let rtab := match d.crew.bind s.crew with
    | some c => c.lr.rtab
    | none => s.quay.rtab
  d.spBase + rtab + 64 * n

/-- A record's bytes through the record cache; an entry that is not valid is filled, which adds 8 cycles before the
command can start. -/
def State.cachedRecord (s : State) (d : DockEntry) (n : Nat) : State × BitVec 512 :=
  let k := s.recordOff d n
  match s.quay.rcache.find? fun e => e.1 == k with
  | some (_, r) => (s, r)
  | none =>
    let r := BitVec.ofNat 512 (ofLeBytes ((List.range 64).map fun i => s.quay.spByte (k + i)))
    let ready := s.quay.cycle.toNat + 8
    ((s.updQuay fun q => { q with rcache := q.rcache ++ [(k, r)] }).updCmd d.seq fun d => { d with readyAt := ready }, r)

/-- A checked record (R227). -/
def State.record (s : State) (d : DockEntry) (n : Nat) : Except FaultCode (State × Layout) :=
  let (s, raw) := s.cachedRecord d n
  let l := Layout.ofBits raw
  match l.check with
  | some f => .error f
  | none => .ok (s, l)

/-- The raw bytes of a record. -/
def State.recordRaw (s : State) (d : DockEntry) (n : Nat) : BitVec 512 := (s.cachedRecord d n).2

/-- RECORD_CACHE_REFILL: 8-byte word `w` of record `d` is read again from the tables of the crews of the quay whose
records are cached (R228). -/
def execRecordCacheRefill (d : Fin 256) (w : Fin 8) (s : State) : Out :=
  let fresh : Nat × BitVec 512 → Nat × BitVec 512 := fun e =>
    if (e.1 / 64) % 256 = d.val then
      let v := ofLeBytes ((List.range 8).map fun i => s.quay.spByte (e.1 + 8 * w.val + i))
      let m := BitVec.ofNat 512 ((2 ^ 64 - 1) * 2 ^ (64 * w.val))
      (e.1, (e.2 &&& ~~~m) ||| BitVec.ofNat 512 (v * 2 ^ (64 * w.val)))
    else e
  .next (s.updQuay fun q => { q with rcache := q.rcache.map fresh })

/-! ### Berths (R247, R283) -/

def State.putBerth (s : State) (b : Nat) (x : Berth) : State := s.updQuay fun q => { q with berths := vput q.berths b x }

/-- A record laid over a tile of a berth. -/
def Layout.inTile (r : Layout) (b : Berth) (n : Nat) : Layout :=
  { r with base := b.base + n % b.slots * b.slotSize }

/-- Assigns the next tile of a berth to a writer: its record in the tile's slot (R247, R283). -/
def State.berthWrite (s : State) (seq b tm : Nat) (r : Layout) : Except FaultCode (State × Layout) :=
  let x := s.berthAt b
  if !x.placed then .error .berthOverrun
  else if field r.base 4 59 ≠ 0 ∨ tm ≠ x.tail then .error .regionShape
  else if r.count > x.tile ∨ (x.w + 1) * x.tile > 2 ^ 32 - 1 then .error .berthOverrun
  else
    let n := x.w
    let s := s.putBerth b { x with w := x.w + 1 }
    .ok (s.updCmd seq fun d => { d with berth := some b, tile := n, tailBase := n * x.tile }, r.inTile x n)

/-- Whether a writer's tile has its slot free (R247). -/
def State.slotFree (s : State) (d : DockEntry) : Bool :=
  match d.berth with
  | none => true
  | some b => decide (d.tile + 1 ≤ (s.berthAt b).h + (s.berthAt b).slots)

/-- The destination of a writer: its tidemark is no follower (R245), and a berth gives its next tile. -/
def State.destOf (s : State) (d : DockEntry) (r : Layout) : Except FaultCode (State × Layout) :=
  match r.berth? with
  | some b => s.berthWrite d.seq b d.o.tm.val r
  | none => .ok (s, r)

/-- Whether a writer may take its tidemark now: PERMISSION for one that has become a follower (R245), TIDEMARK_REWIND when a
publisher stands at DONE (R232). -/
def State.canTake (s : State) (d : DockEntry) : Except FaultCode Bool :=
  let m := s.tm d.o.tm.val
  if d.taken || d.berth.isSome then .ok true
  else if m.fol then .error .permission
  else if m.pub && m.st == .done then .error .tidemarkRewind
  else .ok m.takable

/-- The committed elements that a writer may publish under R234. -/
def granulate (gran total n : Nat) : Nat := if n = total then n else n - n % 2 ^ gran

/-- The next publication that the tail of a berth has reached: of a tile written whole, or of one being written. -/
def State.nextTile (s : State) (b : Nat) : Option (Nat × Berth) :=
  let x := s.berthAt b
  let v := (s.tm x.tail).value
  match x.ready.find? fun e => decide (e.1 * x.tile ≤ v ∧ v < e.1 * x.tile + e.2) with
  | some e => some (e.1 * x.tile + e.2, { x with ready := x.ready.filter fun y => y.1 != e.1 })
  | none =>
    (s.quay.dock.find? fun d => d.berth == some b && d.started && d.opc != 0x04 && d.tailBase == v
        && match d.recA with
          | some r => decide (0 < granulate r.gran r.count d.count)
          | none => false).map fun d =>
      (v + granulate ((d.recA.getD {}).gran) ((d.recA.getD {}).count) d.count, x)

/-- The tail of a berth publishes the tiles it has reached, in tile order (R232, R247). -/
def State.catchUp (s : State) (b : Nat) : Nat → State
  | 0 => s
  | k + 1 => match s.nextTile b with
    | none => s
    | some (v, x) => ((s.putBerth b x).publish x.tail v x.setBy).catchUp b k

/-- Publishes `n` committed elements of a walk of `total` under R234; a berth tile publishes only once the tail has
reached it (R247). -/
def State.publishWalk (s : State) (d : DockEntry) (gran total n : Nat) : State :=
  let v := granulate gran total n
  let t := d.o.tm.val
  match d.berth with
  | none => s.publish t v (some (.command d.seq))
  | some b =>
    if (s.tm t).st != .run || decide ((s.tm t).value < d.tailBase) then
      if n = total then s.putBerth b { s.berthAt b with ready := (s.berthAt b).ready ++ [(d.tile, n)] } else s
    else (s.publish t (d.tailBase + v) (s.berthAt b).setBy).catchUp b 64

/-- The index from which a writer continues after a resume (R237): VALUE, within its tile. -/
def State.resumeIndex (s : State) (d : DockEntry) : Nat := (s.tm d.o.tm.val).value - d.tailBase

/-- The walk indices acknowledged so far: all before the oldest beat in flight. -/
def DockEntry.settled (d : DockEntry) : Nat :=
  match d.flight with
  | [] => d.count
  | b :: _ => b.first

/-- Whether a command's elements are acknowledged by a home or a receiving quay, each once: what it has sent it does not send
again (R253, R254, R263). -/
def DockEntry.sends (d : DockEntry) : Bool := d.opc == 0x06 || d.opc == 0x07 || (d.opc == 0x23 && d.route.isSome)

/-- A halted or waiting command waits for a unit again: a writer goes back to VALUE, except that one whose beats are
acknowledged goes on behind those it has sent, and what was acknowledged meanwhile is published (R231, R237, R254). -/
def State.requeueCmd (s : State) (seq : Nat) : State :=
  match s.cmd? seq with
  | none => s
  | some d =>
    let s := if s.holds d then s.resumeTm d.o.tm.val else s
    let s := match d.berth, d.recA with
      | some b, _ => s.catchUp b 64
      | none, some a => if d.owns && d.sends && decide (d.settled < a.count) then s.publishWalk d a.gran a.count d.settled else s
      | none, none => s
    let n := if s.holds d && !d.sends && d.opc != 0x18 then s.resumeIndex d else d.count
    s.updCmd seq fun d =>
      { d with phase := if d.entered then .waiting else .issued, page := none, count := n, reqAt := none
               flight := if d.sends then d.flight else [] }

end Sys2Proof.Machine
end

