-- ==== Sys2Proof/Machine/Streams.lean ====
section
/-! DEFINITION. Stream registers (R200 to R202, R221, R259 to R262): the addresses of their elements, reading ahead and
writing behind, what a V operation takes from them and hands to them, and the commands SBIND, SUNB and SIDX. -/

namespace Sys2Proof.Machine

open Sys2Proof

/-! ### Addresses -/

/-- Region elements in one stream element (R259). -/
def Stream.per (st : Stream) : Nat := if st.layout.isE2m1 then 512 else 256 / st.layout.elemBytes

/-- The stream elements of a region (R259). -/
def streamCount (r : Layout) : Nat := r.count * r.elemBits / 2048

/-- Why a stream element cannot be read or accepted now. -/
inductive StreamStop where
  | fault (c : FaultCode)
  | page (va : Word)
  | halt (t : Nat)
  | wait
  | cmd (c : FaultCode) (index : Nat)
  deriving DecidableEq, Repr

/-- An entry of an index table in the linear view (R251): a signed 32-bit byte offset. -/
def State.tableEntry (s : State) (e : Reacher) (off n : Nat) : Reach Int :=
  (s.readAt e true false ((off + 4 * n : Nat) : Int) 4 4).map fun v => signedField 32 v

/-- The place of an element whose dimension `k` takes its offset from an index table (R251). -/
def Layout.placeBy (r : Layout) (c : List Nat) (k : Nat) (t : Int) : Int × Nat :=
  let (a, sub) := r.place c
  let own : Int := if r.isE2m1 && k == 0 then ((c.getD 0 0 / 2 : Nat) : Int)
    else if r.isNbp && k == 0 then 0
    else (c.getD k 0 : Int) * r.step k
  (a - own + t, sub)

/-- The place of a stream's region element with a walk index, or why it has none yet. -/
def State.streamPlace (s : State) (e : Reacher) (st : Stream) (w : Nat) : Except StreamStop (Int × Nat) :=
  let c := st.layout.coords w
  if !st.indirect then .ok (st.layout.place c)
  else if c.getD st.dim 0 ≥ st.tabCnt then .error (.fault .streamFault)
  else match s.tableEntry e st.tabOff (c.getD st.dim 0) with
    | .ok t => .ok (st.layout.placeBy c st.dim t)
    | .error (.fault f) => .error (.cmd f w)
    | .error _ => .error .wait

/-- The locations of a region element of a stream, after the checks of R202 and R237. -/
def State.streamLocs (s : State) (e : Reacher) (st : Stream) (w : Nat) (wr : Bool) :
    Except StreamStop (List Loc × Nat) :=
  match s.streamPlace e st w with
  | .error h => .error h
  | .ok p => match s.elemLocs e st.layout p wr with
    | .ok ls => .ok (ls, p.2)
    | .error (.fault f) => .error (.cmd f w)
    | .error (.page _ _) => .error (.page (BitVec.ofInt 64 p.1))
    | .error .wait => .error .wait

/-- The bytes of region elements from walk index `w` on; a read stream reads only covered ones. Where the records disagree the
binding command has faulted (R233), and the stream waits. -/
def State.streamBytes (s : State) (e : Reacher) (st : Stream) (w : Nat) : Nat →
    Except StreamStop (List (Loc × Nat))
  | 0 => .ok []
  | n + 1 =>
    let cov : Except FaultCode Bool := if st.write then .ok true else s.covered st.layout 0 (st.layout.coords w)
    match cov with
    | .error f => .error (if f = .regionShape then .wait else .fault f)
    | .ok false => if (s.tm st.layout.tm).st == .halt then .error (.halt st.layout.tm) else .error .wait
    | .ok true => match s.streamLocs e st w st.write with
      | .error h => .error h
      | .ok (ls, sub) => match s.streamBytes e st (w + 1) n with
        | .error h => .error h
        | .ok r => .ok (ls.map (fun l => (l, sub)) ++ r)

/-- The reach of a context's streams. -/
def Context.reacher (c : Context) : Reacher := ⟨c.slice, c.spBase, c.spSize⟩

/-- The bytes at locations as a stream of a context reads them: the strand's stores from before its last view join are seen
though they have not performed (R48). -/
def State.streamSees (s : State) (c : Fin 8) (ls : List Loc) : List Byte := s.readHome c (s.quay.ctx c).joinAge ls

/-- Stream element `n` of a context as 256 bytes: the elements packed in walk order (R259). -/
def State.streamFetch (s : State) (c : Fin 8) (st : Stream) (n : Nat) : Except StreamStop VWord :=
  match s.streamBytes (s.quay.ctx c).reacher st (n * st.per) st.per with
  | .error h => .error h
  | .ok ls =>
    let bs := s.streamSees c (ls.map Prod.fst)
    if st.layout.isE2m1 then
      .ok (BitVec.ofNat 2048 ((ls.zip bs).foldr (fun p v => field p.2.toNat (4 * p.1.2) 4 + 16 * v) 0))
    else .ok (BitVec.ofNat 2048 (ofLeBytes bs))

/-- The physical addresses of stream element `n`. -/
def State.streamAddrs (s : State) (e : Reacher) (st : Stream) (n : Nat) : List Nat :=
  match s.streamBytes e st (n * st.per) st.per with
  | .error _ => []
  | .ok ls => physAddrs (ls.map Prod.fst)

/-! ### The binding command -/

/-- The SBIND that binds stream `k` of a context, running or halted. -/
def State.binder (s : State) (c : Fin 8) (k : Nat) : Option DockEntry :=
  s.quay.dock.find? fun d => d.owner == (s.quay.ctx c).born && d.opc == 0x18 && d.fn % 8 == k && d.performed

/-- Where a command of the dock finds the streams of its strand: in a context of this quay, in the image of a pager waiter, or
nowhere; a strand that moved to another quay has ended its bindings here (R154; log 43). -/
def State.streamHost (s : State) (d : DockEntry) : Place :=
  match s.strandAt d.owner with
  | .ctx q c => if q = s.here then .ctx q c else .gone
  | p => p

def State.updStream (s : State) (c : Fin 8) (k : Fin 8) (f : Stream → Stream) : State :=
  s.updCtxAt s.here c fun x => { x with streams := x.streams.set k.val (f (x.streams.get k)) }

/-- Ends a stream's binding: its command completes (R259, R260). The write stream has written what it accepted: its
tidemark becomes DONE at END, else IDLE without chasers and ABANDON with them; one that is bound as a publisher becomes IDLE as
well, and its global value falls to 0 with it (DESIGN CHOICE, log 124). -/
def State.unbind (s : State) (c : Fin 8) (k : Fin 8) : State :=
  let st := (s.quay.ctx c).streams.get k
  let b := s.binder c k.val
  let s := if st.write && ((b.map DockEntry.berth).getD none).isNone then
      let m := s.tm st.tm
      if (m.st == .run || m.st == .halt) && (b.map s.holds).getD false then
        (if m.chasers = 0 then s.putTm st.tm m.cleared else s.abandonTm st.tm false) else s
    else s
  let s := s.updStream c k fun _ => {}
  match b with
  | some d => s.complete d
  | none => s

/-- Whether the binding command of a stream is halted (R237): the stream reads and writes nothing until it is resumed. -/
def State.bindHalted (s : State) (c k : Fin 8) : Bool :=
  match s.binder c k.val with
  | some d => d.phase != .running
  | none => false

/-- An element of a stream that cannot be reached is a fault of the binding command. -/
def State.streamFault (s : State) (c k : Fin 8) (f : FaultCode) (w : Nat) : State :=
  match s.binder c k.val with
  | some d => s.cmdFault d.seq f w
  | none => s

/-- What a stream of a context asks of peers' memories (R383): its binding command asks, or its strand without one. -/
def State.streamAsker (s : State) (c k : Fin 8) : Asker :=
  match s.binder c k.val with
  | some d => .command d.seq
  | none => .strand (s.quay.ctx c).born

/-- A strand's stream has read bytes at their homes: it acquires what its tidemark covers (R44), and no later load of the strand
reads an older value of them (R30). -/
def State.streamSaw (s : State) (c k : Fin 8) (t : Nat) (as : List Nat) : State :=
  let (age, s) := s.nextAge
  ((s.askReads (s.streamAsker c k) c.val age as).dropOwnLines (as.map (· / 64)).eraseDups).acquire
    (if t < 64 then s.tmScope s.here t else 0)

/-- STREAM_READ_ELEMENT (R201): the next element is read ahead, at most eight being kept (DESIGN CHOICE, log 44); an
address fault is one of the binding command. -/
def execStreamReadElement (ctx k : Fin 8) (s : State) : Out :=
  let c := s.quay.ctx ctx
  let st := c.streams.get k
  let n := st.seq + st.buf.length
  if !st.bound || st.write || n ≥ st.count || st.buf.length ≥ 8 || (st.indirect && !st.table) || s.bindHalted ctx k then .next s
  else match s.streamFetch ctx st n with
    | .ok v =>
      let s := s.streamSaw ctx k st.layout.tm (s.streamAddrs c.reacher st n)
      .next (s.updStream ctx k fun st => { st with buf := st.buf ++ [v] })
    | .error (.cmd f w) => .next (s.streamFault ctx k f w)
    | .error _ => .next s

/-- The bytes of a write stream's element that its mask lets through, at their locations. -/
def streamCells (e2m1 : Bool) (ls : List (Loc × Nat)) (v : VWord) (m : MaskWord) (old : Loc → Byte) : List (Loc × Byte) :=
  if e2m1 then
    (ls.zipIdx.filter fun p => m.getLsbD (p.2 / 2)).map fun p =>
      let nib := field v.toNat (4 * p.2) 4
      (p.1.1, (old p.1.1 &&& ~~~(BitVec.ofNat 8 (15 * 2 ^ (4 * p.1.2)))) ||| BitVec.ofNat 8 (nib * 2 ^ (4 * p.1.2)))
  else (ls.zipIdx.filter fun p => m.getLsbD p.2).map fun p => (p.1.1, BitVec.ofNat 8 (field v.toNat (8 * p.2) 8))

/-- Writes cells one after another: two nibbles of one byte are both kept. -/
def State.writeNibbles (s : State) (v : VWord) (m : MaskWord) : Nat → List (Loc × Nat) → State
  | _, [] => s
  | i, p :: t =>
    (s.writeLocs (if m.getLsbD (i / 2) then
      [(p.1, (s.readLoc p.1 &&& ~~~(BitVec.ofNat 8 (15 * 2 ^ (4 * p.2))))
        ||| BitVec.ofNat 8 (field v.toNat (4 * i) 4 * 2 ^ (4 * p.2)))] else [])).writeNibbles v m (i + 1) t

/-- STREAM_WRITE_ELEMENT (R201, R259): the oldest accepted element is written, and the tidemark published; at END the
binding command completes. A page that is no longer mapped makes it wait. A stream whose SBIND was abandoned (R243) stays bound
and still writes what it has accepted, and publishes nothing (DESIGN CHOICE, log 123). -/
def execStreamWriteElement (ctx k : Fin 8) (s : State) : Out :=
  let c := s.quay.ctx ctx
  let st := c.streams.get k
  match st.out with
  | [] => .next s
  | (n, v, m) :: rest =>
    if s.bindHalted ctx k then .next s
    else match s.streamBytes c.reacher st (n * st.per) st.per with
    | .error (.cmd f w) => .next (s.streamFault ctx k f w)
    | .error _ => .next s
    | .ok ls =>
      let s := if st.layout.isE2m1 then s.oneWrite (s.writeNibbles v m 0 ls)
        else s.writeLocs (streamCells false ls v m s.readLoc)
      let (age, s) := s.nextAge
      let as := (physAddrs (ls.map Prod.fst)).eraseDups
      let s := s.sendWrites (s.streamAsker ctx k) ctx.val age (as.map fun a => (a, s.readByte a))
      let w := Nat.max st.written (n + 1)
      let s := s.updStream ctx k fun st => { st with out := rest, written := w }
      match s.binder ctx k.val with
      | none => .next s
      | some d =>
        let s := s.updCmd d.seq fun d => { d with count := w * st.per }
        let s := s.publishWalk { d with count := w * st.per } st.layout.gran st.layout.count (w * st.per)
        if w = st.count then
          match s.cmd? d.seq with
          | some d => .next (s.complete d)
          | none => .next s
        else .next s

/-- A restored context's bound streams take their layouts from the record table again (R262); in a berth, in the tile that
they write. -/
def State.rebind (s : State) (q : Nat) (n : Fin 8) : State :=
  s.updCtxAt q n fun c =>
    let rtab := match c.crew.bind s.crew with
      | some k => k.lr.rtab
      | none => (s.quayAt q).rtab
    let again : Stream → Stream := fun st =>
      if !st.bound then st
      else
        let at' := c.spBase + rtab + 64 * st.dIdx
        let r := Layout.ofBits (BitVec.ofNat 512 (ofLeBytes ((List.range 64).map fun i => (s.quayAt q).spByte (at' + i))))
        { st with layout := if r.berth?.isSome then { r with base := st.layout.base } else r }
    { c with streams := c.streams.map again }

/-! ### What a V operation does with a stream (R200 to R202) -/

/-- The stream that a register name of a V slot may denote. -/
def streamOf (second : Bool) (r : Fin 32) : Option (Fin 8) :=
  if r.val < 28 then none else some (Fin.ofNat 8 (r.val - 28 + (if second then 4 else 0)))

/-- Whether a command of the acting strand that binds, unbinds or attaches a table to a stream has been issued at least
two bundles before and has not acted (R259). -/
def State.streamPending (s : State) (k : Nat) : Bool :=
  s.quay.dock.any fun d => d.owner == s.ctx.born && (d.opc == 0x18 || d.opc == 0x19 || d.opc == 0x1A)
    && d.fn % 8 == k && !d.performed && d.phase != .halted && decide (d.bidx + 2 ≤ s.ctx.bidx)

/-- The stream that a register name denotes at the current bundle (R151, R259). -/
def State.stream? (s : State) (second : Bool) (r : Fin 32) : Got (Option (Fin 8)) :=
  match streamOf second r with
  | none => .ok none
  | some k =>
    if s.streamPending k.val then .error .wait
    else
      let st := s.ctx.streams.get k
      .ok (if st.bound && decide (st.inForce ≤ s.ctx.bidx) then some k else none)

/-- What a V operation meets when its stream's element cannot be had. -/
def StreamStop.halted (h : StreamStop) (q : Nat) (wr : Bool) : Halt :=
  match h with
  | .fault f => .fault f none
  | .page va => .handle .handlePending va (if wr then accW else accR) (pageOf va.toNat) none
  | .halt t => .park (.tidemark q t)
  | .wait => .wait
  | .cmd _ _ => .wait

/-- The next element of a read stream as an operand (R200 to R202). -/
def State.streamPeek (s : State) (k : Fin 8) : Got VWord :=
  let st := s.ctx.streams.get k
  if st.write || st.seq ≥ st.count || (st.indirect && !st.table) then .error (.fault .streamFault none)
  else match st.buf with
    | v :: _ => .ok v
    | [] => match s.streamFetch s.quay.cctx st st.seq with
      | .ok _ => .error .wait
      | .error h => .error (h.halted s.here false)

/-- A read stream advances when an operation that names it begins; the delivery of the last element completes the binding
command (R259). -/
def State.streamPop (s : State) (k : Fin 8) : State :=
  let c := s.quay.cctx
  let s := s.updStream c k fun st => { st with seq := st.seq + 1, buf := st.buf.drop 1 }
  let st := s.ctx.streams.get k
  if st.seq ≥ st.count then
    match s.binder c k.val with
    | some d => s.complete d
    | none => s
  else s

/-- Whether a write stream can accept an element now (R201, R202). -/
def State.streamRoom (s : State) (k : Fin 8) : Got Unit :=
  let st := s.ctx.streams.get k
  if !st.write || st.seq ≥ st.count || (st.indirect && !st.table) then .error (.fault .streamFault none)
  else if st.out.length ≥ 8 then .error .wait
  else match s.streamBytes s.ctx.reacher st (st.seq * st.per) st.per with
    | .ok _ => .ok ()
    | .error (.cmd _ _) => .ok ()
    | .error h => .error (h.halted s.here true)

/-- A write stream accepts an element with the mask of its written bytes. -/
def State.streamPush (s : State) (k : Fin 8) (v : VWord) (m : MaskWord) : State :=
  s.updStream s.quay.cctx k fun st => { st with seq := st.seq + 1, out := st.out ++ [(st.seq, v, m)] }

/-! ### SBIND, SUNB and SIDX in the dock (R259 to R261) -/

/-- The dock entry of SBIND. -/
def sbindEntry (d : DockEntry) (s : State) : Except FaultCode State :=
  if d.fn.testBit 3 && (s.tm d.o.tm.val).fol then .error .permission
  else match s.record d d.o.da.val with
    | .error f => .error f
    | .ok (s, r) =>
      if r.isNbp || r.count * r.elemBits % 2048 ≠ 0 then .error .regionShape
      else if d.fn.testBit 3 then
        match s.destOf d r with
        | .error f => .error f
        | .ok (s, r2) => .ok (s.updCmd d.seq fun d => { d with recA := some r2, rawA := 0 })
      else (s.joinable r).map fun _ => s.updCmd d.seq fun d => { d with recB := some r }

/-- Whether a command on a stream of its strand may act (R259, R260): not while its strand waits in an image, nor while an
earlier binding still has accepted elements to write. -/
def State.streamFree (s : State) (d : DockEntry) : Bool :=
  match s.streamHost d with
  | .ctx _ c => d.opc == 0x1A || ((s.quay.ctx c).streams.get (Fin.ofNat 8 d.fn)).out.isEmpty
  | .image _ => false
  | .gone => true

/-- A read stream is bound: its command compares its record with that of a writer in progress and becomes a chaser, a write
stream's takes its tidemark (R232, R233). -/
def State.streamJoin (s : State) (d : DockEntry) (r : Layout) : Except FaultCode State :=
  if !d.fn.testBit 3 then (s.joinable r).map fun _ => s.chase d.seq r.tm
  else if d.berth.isSome then .ok s
  else if (s.tm d.o.tm.val).fol then .error .permission
  else .ok (s.takeTm d r r.count)

/-- SBIND starts: an earlier binding of the stream ends, but its index table stays attached (R261), then the new one stands.
One that was halted goes on where it stood (R237). Without its strand it completes at once. -/
def sbindStart (d : DockEntry) (s : State) : Except FaultCode State :=
  match s.streamHost d with
  | .ctx _ c => do
    let k : Fin 8 := Fin.ofNat 8 d.fn
    let wr := d.fn.testBit 3
    let r := (if wr then d.recA else d.recB).getD {}
    if d.performed then
      if !wr then s.joinable r
      pure s
    else
      let old := (s.quay.ctx c).streams.get k
      let s := if old.bound then s.unbind c k else s
      let s ← s.streamJoin d r
      let s := s.updStream c k fun _ =>
        { bound := true, write := wr, indirect := d.fn.testBit 4, dim := field d.fn 5 2, dIdx := d.o.da.val
          tm := d.o.tm.val, count := streamCount r, table := old.table, tabOff := old.tabOff, tabCnt := old.tabCnt
          bindPc := d.pc, inForce := d.bidx + 2, layout := r }
      let zero : Shadowed → Shadowed := fun h => { h with streamPos := h.streamPos.set k.val 0 }
      let s := s.updCtxAt s.here c fun x => { x with shadow := zero x.shadow, entry := zero x.entry }
      pure (s.updCmd d.seq fun d => { d with performed := true })
  | _ => .ok (s.complete d)

/-- SUNB acts. -/
def sunbAct (d : DockEntry) (s : State) : State :=
  match s.streamHost d with
  | .ctx _ c =>
    let k : Fin 8 := Fin.ofNat 8 d.fn
    if ((s.quay.ctx c).streams.get k).bound then (s.unbind c k).complete d else (s.updStream c k fun _ => {}).complete d
  | _ => s.complete d

/-- The index table that e[PA] names (R251): offset and count, or its fault. -/
def indexTable (pa : Word) : Except FaultCode (Nat × Nat) :=
  if field pa.toNat 22 10 ≠ 0 ∨ field pa.toNat 48 16 ≠ 0 then .error .reservedField
  else if field pa.toNat 0 22 % 4 ≠ 0 then .error .misaligned
  else .ok (field pa.toNat 0 22, field pa.toNat 32 16)

def sidxEntry (d : DockEntry) (s : State) : Except FaultCode State := (indexTable d.pa).map fun _ => s

def sidxAct (d : DockEntry) (s : State) : State :=
  match s.streamHost d with
  | .ctx _ c =>
    let (off, cnt) := match indexTable d.pa with
      | .ok p => p
      | .error _ => (0, 0)
    (s.updStream c (Fin.ofNat 8 d.fn) fun st => { st with table := true, tabOff := off, tabCnt := cnt }).complete d
  | _ => s.complete d

/-- A binding whose strand has ended or left ends as by SUNB (log 43). -/
def sbindOrphan (d : DockEntry) (s : State) : State :=
  let m := s.tm d.o.tm.val
  let s := if s.holds d && d.berth.isNone && (m.st == .run || m.st == .halt) then
      (if m.chasers = 0 then s.putTm d.o.tm.val m.cleared else s.abandonTm d.o.tm.val false)
    else s
  s.complete d

def execSbind (o : EOp) (s : State) : Out := issueE (.sbind o) o s
def execSunb (o : EOp) (s : State) : Out := issueE (.sunb o) o s
def execSidx (o : EOp) (s : State) : Out := issueE (.sidx o) o s

end Sys2Proof.Machine
end

