-- ==== Sys2Proof/Machine/Crane.lean ====
section
/-! DEFINITION. The crane (R235, R237, R249 to R254): dock entry, the elements a copy needs, and its beats; and the tidemark
commands TMSET, TMRST, TMGLB and TMQ (R255 to R258) with the update of followers (R245, R246). -/

namespace Sys2Proof.Machine

open Sys2Proof

/-! ### Dock entry of the copies -/

/-- A record of DB or of a scale or bias, read as a source: registered as a chaser. -/
def State.joinChase (s : State) (seq : Nat) (r : Layout) : Except FaultCode State := do
  s.joinable r
  pure (s.chase seq r.tm)

/-- A writer names no follower (R245). -/
def State.ownTm (s : State) (d : DockEntry) : Except FaultCode Unit :=
  if (s.tm d.o.tm.val).fol then .error .permission else .ok ()

/-- No engine but the array reads a berth: a crane source, an EPI bias record or a PJLD source that names one gives BERTH_OVERRUN
when it is not placed, else REGION_SHAPE (DESIGN CHOICE, log 46). -/
def State.plainSource (s : State) (r : Layout) : Except FaultCode Unit :=
  match r.berth? with
  | none => .ok ()
  | some b => .error (if (s.berthAt b).placed then .regionShape else .berthOverrun)

/-- The shape that source and destination share (R249). -/
def copyShape (a b : Layout) : Except FaultCode Unit :=
  if a.fmt == b.fmt && a.pstore == b.pstore && a.rank == b.rank && a.ext == b.ext then .ok () else .error .regionShape

/-- The records of a copy, checked (R249). -/
def copyRecords (d : DockEntry) (s : State) : Except FaultCode (State × Layout × Layout) := do
  s.ownTm d
  let (s, a) ← s.record d d.o.da.val
  let (s, b) ← s.record d d.o.db.val
  copyShape a b
  s.plainSource b
  pure (s, a, b)

/-- Both records walk alike. -/
def sameOrder (a b : Layout) : Except FaultCode Unit :=
  if a.perm == b.perm && a.dir == b.dir then .ok () else .error .regionShape

/-- Keeps the records of a copy and registers it as a chaser. -/
def State.copyEnter (s : State) (d : DockEntry) (a b : Layout) : Except FaultCode State := do
  let (s, a) ← s.destOf d a
  (s.updCmd d.seq fun d => { d with recA := some a, recB := some b }).joinChase d.seq b

/-- The index table of CPG and CPS for a walking record (R251). -/
def tableFor (pa : Word) (r : Layout) : Except FaultCode Unit := do
  let (_, n) ← indexTable pa
  if n < r.extent (r.at 0) then .error .regionShape else .ok ()

/-- Whether CPR combines a format under an operation (R254). -/
def cprFormat (r : Layout) (fn : Nat) : Except FaultCode Unit :=
  match Fmt.ofCode r.fmt with
  | some .i8 | some .i16 | some .i32 => .ok ()
  | some .bf16 | some .fp16 | some .fp32 => if fn = 6 ∨ fn = 7 then .error .reservedField else .ok ()
  | _ => .error .reservedField

/-- The bits of CPF's value (R252). -/
def cpfBits (r : Layout) : Nat := if r.isNbp || r.isE2m1 then r.elemBits else 8 * r.elemBytes

/-- The dock entry of a crane command, by its OPC. -/
def craneEntry (d : DockEntry) (s : State) : Except FaultCode State :=
  match d.op with
  | .cp _ => do
    let (s, a, b) ← copyRecords d s
    sameOrder a b
    s.copyEnter d a b
  | .cpmm _ => do
    let (s, a, b) ← copyRecords d s
    sameOrder a b
    if (followOp d.pb).isNone then throw .illegalOp
    s.copyEnter d a b
  | .cpt _ => do
    let (s, a, b) ← copyRecords d s
    s.copyEnter d a b
  | .cpg _ => do
    let (s, a, b) ← copyRecords d s
    tableFor d.pa a
    s.copyEnter d a b
  | .cps _ => do
    let (s, a, b) ← copyRecords d s
    tableFor d.pa b
    s.copyEnter d a b
  | .cpf _ => do
    s.ownTm d
    let (s, a) ← s.record d d.o.da.val
    if d.pa.toNat ≥ 2 ^ cpfBits a then throw .reservedField
    let (s, a) ← s.destOf d a
    pure (s.updCmd d.seq fun d => { d with recA := some a })
  | .cph _ => do
    let (s, a, b) ← copyRecords d s
    sameOrder a b
    if !a.sp then throw .regionShape
    match s.landingCheck d.slice d.pb a.bytes with
    | some (f, _) => throw f
    | none => pure ()
    let a := { a with base := field d.pb.toNat 16 22 }
    (s.updCmd d.seq fun d => { d with recA := some a, recB := some b }).joinChase d.seq b
  | .cpr _ => do
    let (s, a, b) ← copyRecords d s
    sameOrder a b
    if a.berth?.isSome then throw .regionShape
    cprFormat a d.fn
    (s.updCmd d.seq fun d => { d with recA := some a, recB := some b }).joinChase d.seq b
  | _ => .ok s

/-! ### The walk of a copy -/

/-- The record that a crane command walks: CPS its source, every other its destination. -/
def DockEntry.walker (d : DockEntry) : Layout :=
  match d.op with
  | .cps _ => d.recB.getD {}
  | _ => d.recA.getD {}

/-- The source element that element `n` of the walk needs covered; a CPG source is read once its tidemark is DONE. -/
def craneNeed (d : DockEntry) (n : Nat) : List (Layout × Nat × List Nat) :=
  match d.recB with
  | none => []
  | some b => [(b, match d.op with
    | .cpg _ => 2 ^ 32
    | _ => 0, d.walker.coords n)]

/-- The place of an element of a record through the index table of CPG and CPS (R251). -/
def State.tablePlace (s : State) (d : DockEntry) (r : Layout) (c : List Nat) : Reach (Int × Nat) :=
  let k := d.walker.at 0
  (s.tableEntry d.reacher (field d.pa.toNat 0 22) (c.getD k 0)).map fun t => r.placeBy c k t

/-- Where a command reads an element. -/
def State.sourcePlace (s : State) (d : DockEntry) (c : List Nat) : Reach (Int × Nat) :=
  let b := d.recB.getD {}
  match d.op with
  | .cpg _ => s.tablePlace d b c
  | _ => .ok (b.place c)

/-- Where a command writes an element. -/
def State.destPlace (s : State) (d : DockEntry) (c : List Nat) : Reach (Int × Nat) :=
  let a := d.recA.getD {}
  match d.op with
  | .cps _ => s.tablePlace d a c
  | _ => .ok (a.place c)

/-- The bits of element `n` of the walk (R252: CPF's value). -/
def State.sourceBits (s : State) (d : DockEntry) (n : Nat) : Reach Nat :=
  match d.op with
  | .cpf _ => .ok d.pa.toNat
  | _ => match s.sourcePlace d (d.walker.coords n) with
    | .error h => .error h
    | .ok p => s.readPlace d.reacher (d.recB.getD {}) p

/-- The values of up to `k` elements from walk index `n` on, and the stop that ended them. -/
def State.sourceRun (s : State) (d : DockEntry) (n : Nat) : Nat → List Nat × Option Stop
  | 0 => ([], none)
  | k + 1 => match s.sourceBits d n with
    | .error h => ([], some h)
    | .ok v =>
      let (l, h) := s.sourceRun d (n + 1) k
      (v :: l, h)

/-- How many of `k` elements from walk index `n` on are covered; a fault only at the first. -/
def State.coveredRun (s : State) (need : Nat → List (Layout × Nat × List Nat)) (n : Nat) : Nat → Except FaultCode Nat
  | 0 => .ok 0
  | k + 1 => match s.allCovered (need n) with
    | .error f => .error f
    | .ok false => .ok 0
    | .ok true => match s.coveredRun need (n + 1) k with
      | .ok m => .ok (m + 1)
      | .error _ => .ok 1

/-- Whether a beat goes on from an element's place to another's: in the next bytes, or for E2M1 the next nibble, of one 64-byte
block, for NBP in one group of 64 elements (R235, R251). -/
def Layout.follows (a : Layout) (p q : Int × Nat) : Bool :=
  if a.isNbp then q.1 == p.1 && q.2 == p.2 + 1 && q.2 % 64 != 0
  else if a.isE2m1 then q.1 * 2 + (q.2 : Int) == p.1 * 2 + (p.2 : Int) + 1 && q.1 / 64 == p.1 / 64
  else q.1 == p.1 + (a.elemBytes : Int) && q.1 / 64 == p.1 / 64

/-- How many of the next elements of CPS form a beat (R251): consecutive bytes of one 64-byte block, one innermost run of
the destination, one table entry. -/
def State.scatterBeat (s : State) (d : DockEntry) (n : Nat) : Nat → Nat
  | 0 => 0
  | k + 1 =>
    let a := d.recA.getD {}
    let w := d.walker
    let c := w.coords n
    let c' := w.coords (n + 1)
    let o := w.at 0
    let inner := a.at (a.rank - 1)
    let same : Bool := (List.range a.rank).all fun j => (j == inner && j != o) || c.getD j 0 == c'.getD j 0
    match s.destPlace d c, s.destPlace d c' with
    | .ok p, .ok q => if same && a.follows p q then 1 + s.scatterBeat d (n + 1) k else 1
    | _, _ => 1

/-- The length of the beat at walk index `n` (R235, R251). -/
def State.craneBeat (s : State) (d : DockEntry) (n : Nat) : Nat :=
  let left := d.walker.count - n
  match d.op with
  | .cps _ => Nat.min left (s.scatterBeat d n (Nat.min left 128))
  | _ => Nat.min left ((d.recA.getD {}).beat n)

/-! ### Writing a beat -/

/-- Writes values to the walk elements from `n` on; how many were written, and the stop at the next. -/
def State.writeEach (s : State) (d : DockEntry) (n : Nat) : List Nat → State × Nat × Option Stop
  | [] => (s, 0, none)
  | v :: t =>
    match s.destPlace d (d.walker.coords n) with
    | .error h => (s, 0, some h)
    | .ok p => match s.writePlace d.reacher (d.recA.getD {}) p v with
      | .error h => (s, 0, some h)
      | .ok s =>
        let (s, m, h) := s.writeEach d (n + 1) t
        (s, m + 1, h)

/-- Writes the elements of a beat, as one write. -/
def State.writeRun (s : State) (d : DockEntry) (n : Nat) (vs : List Nat) : State × Nat × Option Stop :=
  let (t, m, h) := s.writeEach d n vs
  (s.oneWrite t, m, h)

/-- The stop of the first destination of a run that cannot be written, with its element. -/
def State.destStop (s : State) (d : DockEntry) (n : Nat) : Nat → Option (Nat × Stop)
  | 0 => none
  | k + 1 => match s.destPlace d (d.walker.coords n) with
    | .error h => some (n, h)
    | .ok p => match s.elemLocs d.reacher (d.recA.getD {}) p true with
      | .error h => some (n, h)
      | .ok _ => s.destStop d (n + 1) k

/-- Combines values into the destination elements from `n` on (R254): in scratchpad at once; the physical ones are
gathered for their home. -/
def State.combineEach (s : State) (d : DockEntry) (n : Nat) :
    List Nat → State × Nat × BitVec 5 × List (Nat × BitVec 64) × Option Stop
  | [] => (s, 0, 0, [], none)
  | v :: t =>
    let a := d.recA.getD {}
    match s.elemLocs d.reacher a (a.place (a.coords n)) true with
    | .error h => (s, 0, 0, [], some h)
    | .ok [] => (s, 0, 0, [], none)
    | .ok (l :: _) =>
      let e := BitVec.ofNat 64 v
      let (s, f) := match l with
        | .sp _ => s.applyElems (redOp d.fn) (.fmt a.fmt) [(l, e)]
        | .phys _ => (s, 0)
      let (s, m, g, es, h) := s.combineEach d (n + 1) t
      (s, m + 1, f ||| g, physElems [(l, e)] ++ es, h)

/-- Combines the elements of a beat, as one write. -/
def State.combineRun (s : State) (d : DockEntry) (n : Nat) (vs : List Nat) :
    State × Nat × BitVec 5 × List (Nat × BitVec 64) × Option Stop :=
  let (t, r) := s.combineEach d n vs
  (s.oneWrite t, r)

/-- The locations of `k` elements of a CPR's destination from walk index `n` on. -/
def State.cprLocs (s : State) (d : DockEntry) (n k : Nat) : List Loc :=
  let a := d.recA.getD {}
  (List.range k).flatMap fun i => match s.elemLocs d.reacher a (a.place (a.coords (n + i))) true with
    | .ok ls => ls.map s.normLoc
    | .error _ => []

/-- Whether an older CPR of a quay has still to combine an element at one of some locations, which in deterministic mode it
does first (R254). -/
def State.olderCpr (s : State) (quay seq : Nat) (ls : List Loc) : Bool :=
  let x := { s with here := quay }
  x.quay.dock.any fun e => e.opc == 0x07 && decide (e.seq < seq)
    && (x.cprLocs e e.settled ((e.recA.getD {}).count - e.settled)).any ls.contains

/-- The base die that element `n` of a CPR goes to. -/
def State.cprStack (s : State) (d : DockEntry) (n : Nat) : Nat :=
  let a := d.recA.getD {}
  match s.elemLocs d.reacher a (a.place (a.coords n)) true with
  | .ok (.phys p :: _) => s.filterStack [(p, 0)]
  | _ => 0

/-- The bytes of a beat of a landing as offsets from the landing address, of a record whose BASE is 0: elements that share a
byte are joined; the other bits of a byte read as 0 (log 47). -/
def landingCells (a : Layout) (n : Nat) : List Nat → List (Int × Byte) → List (Int × Byte)
  | [], cells => cells
  | v :: t, cells =>
    let p := a.place (a.coords n)
    let offs : List Int := if a.isNbp then (List.range a.pstore).map fun k => a.planeAddr p.1 p.2 k
      else (List.range a.elemBytes).map fun (i : Nat) => p.1 + (i : Int)
    let get := fun (o : Int) => ((cells.find? fun c => c.1 == o).map Prod.snd).getD (0 : Byte)
    let new := offs.zip (a.scatter p.2 v (offs.map get))
    landingCells a (n + 1) t (new ++ cells.filter fun c => !offs.contains c.1)

/-- A beat of a record that lands at an address of a quay; what its handler receives follows. -/
def beatLanding (s : State) (d : DockEntry) (kind : LandingKind) (quay addr n : Nat) (vs : List Nat) : Landing :=
  let a := d.recA.getD {}
  { kind := kind, quay := quay, srcDev := s.devId, srcQuay := s.here, srcSeq := d.seq, srcCtx := d.ctx.val
    srcPc := d.pc.toNat, srcCrew := d.crew.getD 0, slice := d.slice, addr := addr, extent := a.highest
    low := (-a.lowest).toNat, swizzled := a.swz, cells := landingCells { a with base := 0 } n vs [], first := n
    upto := n + vs.length, last := n + vs.length == a.count, attempt := d.attempt, ident := d.sendId.getD (s.here, d.seq)
    bytes := a.bytes
    handler := none, x3 := 0, x4 := 0, x5 := 0 }

/-- One beat of CPH on its way to the receiving quay (R253). -/
def cphLanding (s : State) (d : DockEntry) (n : Nat) (vs : List Nat) : Landing :=
  { beatLanding s d .cph (field d.pb.toNat 6 9) (field d.pb.toNat 16 22) n vs with
    handler := some (field d.pa.toNat 0 32), x3 := BitVec.ofNat 64 (field d.pa.toNat 32 32), x4 := BitVec.ofNat 64 d.fn }

/-- Sends a landing to the quay of a device. -/
def State.sendLanding (s : State) (dev : Nat) (l : Landing) : State :=
  if dev = s.devId then s.send (.arrivalLanding l) else s.toDev dev (.landing l)

/-- The effect of CPMM's completion: its follow-on enters as if it were issued now (R250). -/
def State.enterFollow (s : State) (d : DockEntry) : State :=
  match d.op, d.follow with
  | .cpmm _, some f =>
    s.enqueueCmd fun n =>
      { seq := n, op := f, owner := d.owner, ctx := d.ctx, pc := d.pc, pa := d.pa2, pb := d.pb2, seed := d.seed, untagged := d.untagged
        crew := d.crew, slice := d.slice, spBase := d.spBase, spSize := d.spSize, strand := d.strand
        issuedAt := s.refTime, bidx := d.bidx, waited := s.quay.cycle.toNat }
  | _, _ => s

/-- Counts committed elements of a crane command: publishes them (CPS only at END), and completes at END; one that is halted or
waits for a page does neither until it goes on (R231). -/
def State.craneCount (s : State) (seq n : Nat) : State :=
  match s.cmd? seq with
  | none => s
  | some d =>
    if d.phase == .halted || d.phase == .pageWait then s else
    let total := d.walker.count
    let quiet : Bool := match d.op with
      | .cps _ => n != total
      | _ => false
    let s := if quiet then s else s.publishWalk { d with count := n } ((d.recA.getD {}).gran) total n
    if n = total then ((s.settleCmd d).enterFollow d).moorImages else s

/-- The acknowledgements of the elements of a CPR's beat, each a reduction of its own (R402). -/
def State.combineSend (s : State) (d : DockEntry) (n : Nat) : List (Nat × BitVec 64) → State
  | [] => s
  | e :: t =>
    let b : Beat := ⟨n, n + 1, s.quay.cycle.toNat, s.floorOf [e.1]⟩
    ((s.updCmd d.seq fun d => { d with flight := d.flight ++ [b] }).sendReduction d.owner d.ctx
      (some d.seq) (redOp d.fn) (.fmt ((d.recA.getD {}).fmt)) [e] (n + 1)).combineSend d (n + 1) t

/-- The physical addresses that elements from walk index `n` on are read from. -/
def State.sourceAddrs (s : State) (d : DockEntry) (n m : Nat) : List Nat :=
  match d.recB with
  | none => []
  | some b => (List.range m).flatMap fun i => if b.sp then [] else match s.sourcePlace d (d.walker.coords (n + i)) with
    | .ok p => match s.elemLocs d.reacher b p false with
      | .ok ls => physAddrs ls
      | .error _ => []
    | .error _ => []

/-- The physical addresses that elements from walk index `n` on are written to. -/
def State.destAddrs (s : State) (d : DockEntry) (n m : Nat) : List Nat :=
  let a := d.recA.getD {}
  (List.range m).flatMap fun i => if a.sp then [] else match s.destPlace d (d.walker.coords (n + i)) with
    | .ok p => match s.elemLocs d.reacher a p true with
      | .ok ls => physAddrs ls
      | .error _ => []
    | .error _ => []

/-- The device to whose memory or quay a command's beats go when it is another one (R253, R282). -/
def DockEntry.beatDev (s : State) (d : DockEntry) : Option Nat :=
  let dev := if d.opc = 0x06 then some (field d.pb.toNat 0 6) else d.route.map Route.dev
  dev.filter fun n => n != s.devId

/-- The floor of a beat that goes to another device's quay (R338); within the device it is none. -/
def State.routeFloor (s : State) (d : DockEntry) : Nat := if (d.beatDev s).isSome then 2400 else 0

/-- Elements of a command have been written: it counts them, in deterministic mode once their acknowledgement has its floor
(R338), for which they stay in flight. -/
def State.countWritten (s : State) (d : DockEntry) (n k : Nat) (as : List Nat) (count : State → Nat → Nat → State) : State :=
  let s := (s.updCmd d.seq fun d => { d with count := n + k }).tellPeers d as
  if k = 0 then s
  else if s.isDet d.crew && s.floorMax as != 0 then
    (s.updCmd d.seq fun d => { d with flight := d.flight ++ [⟨n, n + k, s.quay.cycle.toNat, s.floorMax as⟩] }).progress d.seq
  else count (s.progress d.seq) d.seq (n + k)

/-- What a crane command does with the covered elements of its beat once their data is there. -/
def craneMove (d : DockEntry) (n m : Nat) (s : State) : State :=
    let total := d.walker.count
    let (vs, stop) := s.sourceRun d n m
    match d.op with
    | .cph _ =>
      if vs.isEmpty then match stop with
        | some h => s.stopAt d.seq h n
        | none => s
      else if !s.linkOk (field d.pb.toNat 0 6) then s.cmdFault d.seq .linkDown n
      else
        let s := s.sendLanding (field d.pb.toNat 0 6) (cphLanding s d n vs)
        (s.updCmd d.seq fun d =>
          { d with count := n + vs.length, flight := d.flight ++ [⟨n, n + vs.length, s.quay.cycle.toNat, s.routeFloor d⟩] }).progress d.seq
    | .cpr _ =>
      let room := if (d.recA.getD {}).sp then vs.length else s.redSpace (s.cprStack d n)
      if room = 0 || (s.isDet d.crew && s.olderCpr s.here d.seq (s.cprLocs d n vs.length)) then s
      else
        let (s, k, f, es, h) := s.combineRun d n (vs.take room)
        let s := s.updCmd d.seq fun d => { d with flags := d.flags ||| f, count := n + k }
        let s := if k = 0 then s else s.progress d.seq
        let s := if es.isEmpty then
            (if k = 0 then s else match s.cmd? d.seq with
              | some d => s.craneCount d.seq d.settled
              | none => s)
          else s.combineSend d n es
        match h, stop with
        | some h, _ => s.stopAt d.seq h (n + k)
        | none, some h => if vs.length ≤ room then s.stopAt d.seq h (n + k) else s
        | none, none => s
    | _ =>
      let whole := if (d.recA.getD {}).isNbp then s.destStop d n vs.length else none
      match whole with
      | some (k, h) => s.stopAt d.seq h k
      | none =>
        let as := s.destAddrs d n vs.length
        let (s, k, h) := s.writeRun d n vs
        let s := s.countWritten d n k as State.craneCount
        if n + k = total then s
        else match h, stop with
          | some h, _ => s.stopAt d.seq h (n + k)
          | none, some h => s.stopAt d.seq h (n + k)
          | none, none => s

/-- Whether the acknowledgement of a beat stands before its floor (R338). -/
def State.ackEarly (s : State) (seq upto : Nat) : Bool :=
  match s.cmd? seq with
  | none => false
  | some d => d.flight.any fun b => b.upto == upto && s.early d.crew b.floor b.sentAt

/-- A beat is acknowledged: it is no longer in flight, and a late one is noted. -/
def State.landBeat (s : State) (seq upto : Nat) : State :=
  match s.cmd? seq with
  | none => s
  | some d => match d.flight.find? fun b => b.upto == upto with
    | none => s
    | some b =>
      (s.updCmd seq fun d => { d with flight := d.flight.filter fun p => p.upto != upto }).noteLate d.crew b.floor b.sentAt

/-- The home or the receiving quay has acknowledged a beat of a crane command (R253, R254). -/
def State.craneAck (s : State) (seq upto : Nat) (f : BitVec 5) : State :=
  let s := (s.landBeat seq upto).updCmd seq fun d => { d with flags := d.flags ||| f }
  match s.cmd? seq with
  | none => s
  | some d => (s.progress seq).craneCount seq d.settled

/-- Whether a command's beats are acknowledged by messages; the others' are counted when their floor has passed. -/
def DockEntry.plainBeats (d : DockEntry) : Bool := d.opc != 0x06 && d.opc != 0x07

/-- One beat of a running crane command (R235): the covered prefix is read and checked, written, counted and published; in
deterministic mode its data and the acknowledgement of what it writes have their floors (R338). -/
def craneBeatStep (d : DockEntry) (s : State) : State :=
  let n := d.count
  match (if d.plainBeats then d.flight.head? else none) with
  | some b => if s.early d.crew b.floor b.sentAt then s else s.craneAck d.seq b.upto 0
  | none =>
    if n ≥ d.walker.count then s.craneCount d.seq d.settled
    else match s.coveredRun (craneNeed d) n (s.craneBeat d n) with
    | .error f => s.cmdFault d.seq f n
    | .ok 0 => s
    | .ok m => s.withData d (s.sourceAddrs d n m) (craneMove d n m)

/-! ### TMSET, TMRST, TMGLB and TMQ (R255 to R258) -/

def tmsetEntry (d : DockEntry) (s : State) : Except FaultCode State := do
  s.ownTm d
  let (s, a) ← s.record d d.o.da.val
  pure (s.updCmd d.seq fun d => { d with recA := some a })

/-- TMSET.ADV: opens a run or continues its own, then sets VALUE. -/
def tmsetAct (d : DockEntry) (s : State) : Except FaultCode State :=
  let t := d.o.tm.val
  let m := s.tm t
  let r := d.recA.getD {}
  let opened : Except FaultCode State :=
    if m.fol then .error .permission
    else if m.pub && m.st == .done then .error .tidemarkRewind
    else if m.takable then .ok ((s.putTm t (m.taken 0x10 d.ctx.val d.o.da.val r.count r d.crew (.command d.seq))).compareChasers t)
    else if m.st == .run && m.wop == 0x10 && m.wctx == d.ctx.val then .ok s
    else .error .permission
  match opened with
  | .error f => .error f
  | .ok s' =>
    let v := Nat.min (field d.pa.toNat 0 32) (s'.tm t).endv
    if v < (s'.tm t).value then .error .tidemarkRewind else .ok ((s'.publish t v (s'.tm t).writer).complete d)

def tmrstAct (d : DockEntry) (s : State) : Except FaultCode State :=
  let t := d.o.tm.val
  let m := s.tm t
  if m.fol then .error .permission
  else if m.st == .run || m.st == .halt || m.chasers != 0 || (m.pub && m.value != 0) then .error .tidemarkRewind
  else .ok ((s.putTm t m.cleared).complete d)

/-- The device and the index of a global tidemark in an e register. -/
def glbDev (w : Word) : Nat := field w.toNat 12 6
def glbIdx (w : Word) : Nat := field w.toNat 0 12

/-- Whether a slice has a global tidemark of the own device assigned (R245, R319). -/
def State.gtmOf (s : State) (slice g : Nat) : Bool :=
  let x := vget {} s.slices slice
  decide (x.gtmFirst.toNat ≤ g) && decide (g < x.gtmFirst.toNat + x.gtmCount.toNat)

/-- The checks of the e register of TMGLB and TMQ: reserved bits, the device, the slice's set. A publisher's device that is not this
one, and a followed one outside the haven, give PERMISSION (DESIGN CHOICE, log 128). -/
def State.glbCheck (s : State) (slice : Nat) (w : Word) : Except FaultCode Unit :=
  if field w.toNat 18 46 ≠ 0 then .error .reservedField
  else if glbDev w = s.devId then (if s.gtmOf slice (glbIdx w) then .ok () else .error .permission)
  else if s.members.getLsbD (glbDev w) then .ok () else .error .permission

def tmglbPubAct (d : DockEntry) (s : State) : Except FaultCode State := do
  s.glbCheck d.slice d.pa
  let t := d.o.tm.val
  let m := s.tm t
  let g := glbIdx d.pa
  if m.pub || m.fol || glbDev d.pa ≠ s.devId || (sparseGet {} s.gtms g).bound then throw .permission
  pure ((s.putTm t { m with pub := true, gidx := g, fdev := 0, crew := d.crew }).complete d)

/-- A follower takes state, value and writer record from its global tidemark (R245). -/
def Tidemark.follow (m : Tidemark) (g : GlobalMark) : Tidemark :=
  { m with value := g.value, st := g.st, wop := g.wop, endv := g.endv, layout := g.layout, broken := g.broken
           fcode := g.fcode, findex := g.findex }

def tmglbFolAct (d : DockEntry) (s : State) : Except FaultCode State := do
  s.glbCheck d.slice d.pa
  let t := d.o.tm.val
  let m := s.tm t
  if m.pub || m.fol then throw .permission
  if m.st != .idle || m.chasers != 0 then throw .tidemarkRewind
  pure ((s.putTm t { m with fol := true, gidx := glbIdx d.pa, fdev := glbDev d.pa, crew := d.crew }).complete d)

/-- TMGLB.UNB of a tidemark that is not bound has no effect (DESIGN CHOICE, log 128). -/
def tmglbUnbAct (d : DockEntry) (s : State) : Except FaultCode State :=
  let t := d.o.tm.val
  let m := s.tm t
  if m.fol then
    if m.chasers ≠ 0 then .error .tidemarkRewind else .ok ((s.putTm t {}).complete d)
  else if m.pub then
    let g := sparseGet {} s.gtms m.gidx
    .ok ((({ s with gtms := sparsePut s.gtms m.gidx { g with bound := false } } : State).putTm t
      { m with pub := false, gidx := 0 }).complete d)
  else .ok (s.complete d)

/-- The 32-byte form of a tidemark (R230). -/
def Tidemark.bytes (m : Tidemark) : List Byte :=
  leBytes 4 m.value ++ leBytes 1 m.st.code ++ leBytes 1 (if m.st == .idle then 0 else m.wop) ++ leBytes 1 m.wctx
    ++ leBytes 1 m.wrec ++ leBytes 2 m.chasers ++ leBytes 1 m.fcode ++ leBytes 1 0 ++ leBytes 4 m.findex
    ++ leBytes 2 (m.gidx % 4096 + m.pub.toNat * 4096 + m.fol.toNat * 8192) ++ leBytes 1 (m.fdev % 64) ++ leBytes 1 0
    ++ leBytes 4 m.endv ++ leBytes 8 0

/-- The same form of a global tidemark of a device (R258); the fields that R258 does not name are those of the publisher's
last copy, its chasers and binding zero but for the index (log 48). -/
def GlobalMark.bytes (m : GlobalMark) (dev g : Nat) : List Byte :=
  leBytes 4 m.value ++ leBytes 1 m.st.code ++ leBytes 1 (if m.st == .idle then 0 else m.wop) ++ leBytes 1 (m.pubQuay % 256)
    ++ leBytes 1 (m.pubQuay / 256 % 2 + dev % 64 * 2 + m.bound.toNat * 128) ++ leBytes 2 0 ++ leBytes 1 m.fcode
    ++ leBytes 1 0 ++ leBytes 4 m.findex ++ leBytes 2 (g % 4096) ++ leBytes 1 0 ++ leBytes 1 0 ++ leBytes 4 m.endv
    ++ leBytes 8 0

/-- The snapshot of a global tidemark; one of another device is an unstated value here (log 3). -/
def State.globalBytes (s : State) (w : Word) : List Byte × State :=
  if glbDev w = s.devId then ((sparseGet {} s.gtms (glbIdx w)).bytes s.devId (glbIdx w), s)
  else
    let words := (List.range 4).map fun i => Config.freeWord (s.fresh + i)
    (words.flatMap fun v => leBytes 8 v.toNat, { s with fresh := s.fresh + 4 })

/-- The checks of TMQ's scratchpad operand (R258). -/
def tmqEntry (d : DockEntry) (s : State) : Except FaultCode State :=
  if field d.pa.toNat 22 42 ≠ 0 then .error .reservedField
  else if d.pa.toNat % 32 ≠ 0 then .error .misaligned
  else match d.op with
    | .tmqGlb _ =>
      if field d.pb.toNat 18 46 ≠ 0 then .error .reservedField
      else if glbDev d.pb ≠ s.devId && !s.members.getLsbD (glbDev d.pb) then .error .permission
      else .ok s
    | _ => .ok s

/-- Writes a snapshot through the linear view and completes, or faults. -/
def State.snapshot (s : State) (d : DockEntry) (bs : List Byte) : Except FaultCode State :=
  match s.writeAt d.reacher true false (field d.pa.toNat 0 22 : Nat) 32 bs with
  | .ok s => .ok (s.complete d)
  | .error (.fault f) => .error f
  | .error _ => .ok s

def tmqAct (d : DockEntry) (s : State) : Except FaultCode State :=
  match d.op with
  | .tmqGlb _ => let (bs, s) := s.globalBytes d.pb; s.snapshot d bs
  | _ => s.snapshot d (s.tm d.o.tm.val).bytes

/-- A follower's entry changes: a run begun compares its chasers, an abandonment faults them. -/
def State.seeGlobal (s : State) (t : Nat) (m : Tidemark) : State :=
  let old := s.tm t
  let s := s.putTm t m
  if m.st == .abandon && old.st != .abandon then s.faultChasers t m.broken
  else if old.layout != m.layout then s.compareChasers t else s

/-- A follower of another device's global tidemark sees what that device publishes (R245). -/
def State.followRemote (s : State) (t : Nat) (r : RemoteMark) : State :=
  let m := s.tm t
  if !m.fol || m.fdev = s.devId then s
  else
    let st : TmState := match r.state with
      | 1 => .run | 2 => .halt | 3 => .done | 4 => .abandon | _ => .idle
    let l := Layout.ofBits r.record
    s.seeGlobal t
      { m with value := r.value, st := st, endv := r.endv, broken := r.broken
               layout := if st == .idle then none else some l }

/-- GLOBAL_FOLLOWER_UPDATE (R245, R246): a follower of the acting quay sees its global tidemark, or what another device
reports of its own. -/
def execGlobalFollowerUpdate (t : Fin 64) (remote : Option RemoteMark) (s : State) : Out :=
  let m := s.tm t.val
  match remote with
  | none =>
    if m.fol && m.fdev == s.devId then .next (s.seeGlobal t.val (m.follow (sparseGet {} s.gtms m.gidx))) else .next s
  | some r => .next (s.followRemote t.val r)

/-! ### Issue -/

def execCp (o : EOp) (s : State) : Out := issueE (.cp o) o s
def execCpmm (o : EOp) (s : State) : Out := issueE (.cpmm o) o s
def execCpg (o : EOp) (s : State) : Out := issueE (.cpg o) o s
def execCps (o : EOp) (s : State) : Out := issueE (.cps o) o s
def execCpf (o : EOp) (s : State) : Out := issueE (.cpf o) o s
def execCph (o : EOp) (s : State) : Out := issueE (.cph o) o s
def execCpr (o : EOp) (s : State) : Out := issueE (.cpr o) o s
def execCpt (o : EOp) (s : State) : Out := issueE (.cpt o) o s
def execTmsetAdv (o : EOp) (s : State) : Out := issueE (.tmsetAdv o) o s
def execTmrst (o : EOp) (s : State) : Out := issueE (.tmrst o) o s
def execTmglbPub (o : EOp) (s : State) : Out := issueE (.tmglbPub o) o s
def execTmglbFol (o : EOp) (s : State) : Out := issueE (.tmglbFol o) o s
def execTmglbUnb (o : EOp) (s : State) : Out := issueE (.tmglbUnb o) o s
def execTmq (o : EOp) (s : State) : Out := issueE (.tmq o) o s
def execTmqGlb (o : EOp) (s : State) : Out := issueE (.tmqGlb o) o s

end Sys2Proof.Machine
end

