-- ==== Sys2Proof/Machine/Vector.lean ====
section
/-! DEFINITION. The V slots (R195 to R210): lanes and masks, tags, operands and results, and the integer, logic,
floating-point and compare operations. -/

namespace Sys2Proof.Machine

open Sys2Proof

/-! ### Lanes and masks (R195, R196) -/

/-- The elements of `w` bits of a vector register. -/
def vEls (w : Nat) (v : VWord) : List Nat := (List.range (2048 / w)).map fun e => field v.toNat (w * e) w

/-- A vector register of elements of `w` bits; missing elements are 0. -/
def vPack (w : Nat) (l : List Nat) : VWord := BitVec.ofNat 2048 (l.foldr (fun x n => x % 2 ^ w + 2 ^ w * n) 0)

/-- Bits from `L` on repeat the first `L` (R196). -/
def maskFill (L : Nat) (bits : Nat) : MaskWord :=
  BitVec.ofNat 256 ((List.range (256 / L)).foldl (fun n _ => n * 2 ^ L + bits % 2 ^ L) 0)

/-- The bytes that active elements of `w` bytes take in a register. -/
def byteMask (w : Nat) (m : MaskWord) : MaskWord :=
  BitVec.ofNat 256 ((List.range 256).foldr (fun i n => (m.getLsbD (i / w)).toNat + 2 * n) 0)

/-- The merge of R197: results of active elements with their flags, else 0 under MZ, else the old element. -/
def mergeEls (m : MaskWord) (mz : Bool) (old : List Nat) : Nat → List (Nat × FpFlags) → List Nat × FpFlags
  | _, [] => ([], 0)
  | e, (r, f) :: t =>
    let (l, g) := mergeEls m mz (old.drop 1) (e + 1) t
    if m.getLsbD (e % 256) then (r :: l, f ||| g) else ((if mz then 0 else old.headD 0) :: l, g)

/-- Applies a function to the elements of three lists. -/
def zipEls (f : Nat → Nat → Nat → Nat × FpFlags) : List Nat → List Nat → List Nat → List (Nat × FpFlags)
  | x :: a, b, c => f x (b.headD 0) (c.headD 0) :: zipEls f a (b.drop 1) (c.drop 1)
  | [], _, _ => []

/-! ### Operands -/

def vSlot (o : VOp) : Slot := if o.second then .v1 else .v0

/-- The register of a slot's own file. -/
def Context.vName (c : Context) (second : Bool) (r : Fin 32) : RegId := if second then c.wReg r else c.vReg r

/-- The mask register of a slot's own file. -/
def maskReg (second : Bool) (n : Fin 8) : RegId := if second then .g n else .k n

/-- A mask as the slot reads it. -/
def Context.maskOf (c : Context) (second : Bool) (n : Fin 8) : MaskWord :=
  (c.readReg (if second then .v1 else .v0) c.bidx (maskReg second n)).setWidth 256

/-- The fields an operation uses. -/
def vUse (i : Instr) : VUse :=
  match i.form with
  | .v opc _ => match vRow opc with
    | some (u, _) => u
    | none => {}
  | _ => {}

/-- What a V operation reads. -/
structure VIn where
  a : VWord := 0
  b : VWord := 0
  c : VWord := 0
  old : VWord := 0
  m : MaskWord := BitVec.allOnes 256
  seed : BitVec 32 := 0
  deriving DecidableEq, Repr

/-- A source of a V slot: a stream's next element, a register, a latch, or zero (R98, R200). -/
def State.vSrc (s : State) (o : VOp) (x : Src) : Got VWord :=
  match x with
  | .zero => .ok 0
  | .latch n => s.ctx.getLatch (vSlot o) n.val
  | .reg r => match s.stream? o.second r with
    | .error h => .error h
    | .ok (some k) => s.streamPeek k
    | .ok none => s.ctx.get (vSlot o) (s.ctx.vName o.second r)

/-- The stream that a source names, for its advance. -/
def State.srcStream (s : State) (o : VOp) (x : Src) : List (Fin 8) :=
  match x with
  | .reg r => match s.stream? o.second r with
    | .ok (some k) => [k]
    | _ => []
  | _ => []

/-- The file a destination is in: VCOPYX writes the other one (R220). -/
def dstSecond (i : Instr) (o : VOp) : Bool :=
  match i with
  | .vcopyx _ => !o.second
  | _ => o.second

/-- The stream a destination names, once it has room; naming a read stream faults (R200 to R202). -/
def State.vDst (s : State) (i : Instr) (o : VOp) : Got (Option (Fin 8)) :=
  if o.nd || !((vUse i).d == .reg || (vUse i).d == .even) then .ok none
  else if (vUse i).d == .even then
    match s.stream? (dstSecond i o) o.d, s.stream? (dstSecond i o) (o.d + 1) with
    | .error h, _ => .error h
    | _, .error h => .error h
    | .ok none, .ok none => .ok none
    | _, _ => .error (.fault .streamFault none)
  else match s.stream? (dstSecond i o) o.d with
    | .error h => .error h
    | .ok none => .ok none
    | .ok (some k) => match s.streamRoom k with
        | .error h => .error h
        | .ok _ => .ok (some k)

/-- The old destination, read where elements of it may be kept. A bound stream has no old element: an inactive element of it
under MZ = 0 is 0 (R197; DESIGN CHOICE, log 129). -/
def State.vOld (s : State) (i : Instr) (o : VOp) (keeps : Bool) (dst : Option (Fin 8)) : Got VWord :=
  if dst.isSome || !keeps || !((vUse i).d == .reg || (vUse i).d == .even) then .ok 0
  else s.ctx.get (vSlot o) (s.ctx.vName (dstSecond i o) o.d)

/-- Operations whose mask does not merge their destination: they write every element of it (R215 to R217). -/
def vWhole : Instr → Bool
  | .vsel _ | .vcomp _ | .vrsum _ | .vrmax _ => true
  | _ => false

/-- Reads the operands of a V operation; `keeps` tells that it keeps old elements whatever the mask. -/
def State.vRead (s : State) (i : Instr) (o : VOp) (keeps : Bool) : Got (VIn × Option (Fin 8)) :=
  let u := vUse i
  let a := if u.a == .src then s.vSrc o o.a else .ok 0
  let b := if u.b.isSrc o.func.val then s.vSrc o o.b else .ok 0
  let c := if u.c then s.vSrc o o.c else .ok 0
  match a, b, c, s.vDst i o with
  | .ok a, .ok b, .ok c, .ok dst => match s.vOld i o (keeps || (o.mask != 0 && !o.mz && !vWhole i)) dst with
    | .error h => .error h
    | .ok old => .ok
      ({ a := a, b := b, c := c, old := old, m := s.ctx.maskOf o.second o.mask, seed := s.ctx.regs.srseed }, dst)
  | .error h, _, _, _ => .error h
  | _, .error h, _, _ => .error h
  | _, _, .error h, _ => .error h
  | _, _, _, .error h => .error h

/-- Whether a V operation's ready tag is set, or was taken by the other slot in this cycle (R161). -/
def State.tagReady (s : State) (t : Fin 16) : Bool :=
  t == 0 || s.ctx.regs.tags.getLsbD t.val || s.ctx.tagUsed == some (s.quay.cycle.toNat, t)

/-- The operation begins: its tag is cleared and its read streams advance. -/
def State.vBegin (s : State) (i : Instr) (o : VOp) : State :=
  let ks := (if (vUse i).a == .src then s.srcStream o o.a else [])
    ++ (if (vUse i).b.isSrc o.func.val then s.srcStream o o.b else [])
  let now := s.quay.cycle.toNat
  let s := if o.tag = 0 then s
    else s.updCtx fun c =>
      { c with
        regs := { c.regs with tags := c.regs.tags &&& ~~~(BitVec.twoPow 16 o.tag.val) }, tagUsed := some (now, o.tag) }
  ks.foldl State.streamPop s

/-- The shape of a V operation: nothing under a false guard, a wait for its tag, its operands, its effect. -/
def vRun (i : Instr) (o : VOp) (keeps : Bool) (f : VIn → Option (Fin 8) → State → Got State) (s : State) : Out :=
  if !s.ctx.guardHolds (vSlot o) o.g then .next s
  else if !s.tagReady o.tag then stall i s
  else match s.vRead i o keeps with
    | .error h => s.halted i (vSlot o) h
    | .ok (x, dst) => match f x dst s with
      | .error h => s.halted i (vSlot o) h
      | .ok t => .next (t.vBegin i o)

/-! ### Results -/

/-- Flags that land with a result (R67). -/
def State.vFlags (s : State) (lat : Nat) (f : FpFlags) : State :=
  if f = 0 then s else s.updCtx fun c => c.later (c.bidx + lat) (.flags f)

/-- A vector result: handed to a stream with the mask of its written bytes, or written to the register unless ND; the
latch is filled (R99, R197, R200). -/
def State.vResult (s : State) (o : VOp) (dst : Option (Fin 8)) (lat : Nat) (r : VWord) (bytes : MaskWord) (f : FpFlags) :
    State :=
  let s := match dst with
    | some k => s.streamPush k r bytes
    | none => if o.nd then s else s.updCtx fun c => c.put (vSlot o) (c.vName o.second o.d) lat r
  (s.updCtx fun c => c.fillLatch (vSlot o) lat r).vFlags lat f

/-- The bytes that an element-wise result writes to a stream (R200). -/
def writtenBytes (o : VOp) (w : Nat) (m : MaskWord) : MaskWord :=
  if o.mz then BitVec.allOnes 256 else byteMask (w / 8) m

/-- An element-wise operation on elements of `w` bits (R197). -/
def vElems (i : Instr) (o : VOp) (lat w : Nat) (f : VIn → Nat → Nat → Nat → Nat × FpFlags) (s : State) : Out :=
  vRun i o false (fun x dst s =>
    let (l, fl) := mergeEls x.m o.mz (vEls w x.old) 0 (zipEls (f x) (vEls w x.a) (vEls w x.b) (vEls w x.c))
    .ok (s.vResult o dst lat (vPack w l) (writtenBytes o w x.m) fl)) s

/-! ### Integer operations (R203 to R205) -/

def vBits (o : VOp) : Nat := 8 * o.ety.width

/-- The signed value of an element of `w` bits. -/
def sInt (w : Nat) (a : Nat) : Int := signedField w a

/-- An element's value: unsigned when FUNC is 1. -/
def vVal (o : VOp) (w a : Nat) : Int := if o.func.val = 1 then (a : Int) else sInt w a

/-- An integer modulo two to the power w. -/
def wrapInt (w : Nat) (i : Int) : Nat := (i % (2 ^ w : Int)).toNat

/-- An integer operation without flags. -/
def vInt (i : Instr) (o : VOp) (f : Nat → Nat → Nat → Nat → Int) (s : State) : Out :=
  vElems i o 2 (vBits o) (fun _ a b c => (wrapInt (vBits o) (f (vBits o) a b c), 0)) s

/-- Sat into signed or unsigned elements (R55). -/
def vSat (o : VOp) (w : Nat) (i : Int) : Nat × FpFlags :=
  let r := if o.func.val = 1 then (if i < 0 then 0 else if i > 2 ^ w - 1 then 2 ^ w - 1 else i) else satInt w i
  (wrapInt w r, flagIf (r ≠ i) flSAT)

/-- The shift of an integer by n to the right, toward minus infinity. -/
def shiftDown (i : Int) (n : Nat) : Int := i / (2 ^ n : Int)

def execVadd (o : VOp) (s : State) : Out := vInt (.vadd o) o (fun _ a b _ => (a + b : Nat)) s
def execVsub (o : VOp) (s : State) : Out := vInt (.vsub o) o (fun _ a b _ => (a : Int) - b) s
def execVmul (o : VOp) (s : State) : Out := vInt (.vmul o) o (fun _ a b _ => (a * b : Nat)) s
def execVmulh (o : VOp) (s : State) : Out :=
  vInt (.vmulh o) o (fun w a b _ => shiftDown (vVal o w a * vVal o w b) w) s
def execVmac (o : VOp) (s : State) : Out := vInt (.vmac o) o (fun _ a b c => (c + a * b : Nat)) s
def execVabs (o : VOp) (s : State) : Out := vInt (.vabs o) o (fun w a _ _ => ((sInt w a).natAbs : Nat)) s
def execVneg (o : VOp) (s : State) : Out := vInt (.vneg o) o (fun _ a _ _ => -(a : Int)) s
def execVmin (o : VOp) (s : State) : Out :=
  vInt (.vmin o) o (fun w a b _ => if vVal o w b < vVal o w a then vVal o w b else vVal o w a) s
def execVmax (o : VOp) (s : State) : Out :=
  vInt (.vmax o) o (fun w a b _ => if vVal o w a < vVal o w b then vVal o w b else vVal o w a) s
def execVadds (o : VOp) (s : State) : Out :=
  vElems (.vadds o) o 2 (vBits o) (fun _ a b _ => vSat o (vBits o) (vVal o (vBits o) a + vVal o (vBits o) b)) s
def execVsubs (o : VOp) (s : State) : Out :=
  vElems (.vsubs o) o 2 (vBits o) (fun _ a b _ => vSat o (vBits o) (vVal o (vBits o) a - vVal o (vBits o) b)) s
def execVavg (o : VOp) (s : State) : Out :=
  vInt (.vavg o) o (fun w a b _ => shiftDown (vVal o w a + vVal o w b + 1) 1) s
def execVand (o : VOp) (s : State) : Out := vInt (.vand o) o (fun _ a b _ => (a &&& b : Nat)) s
def execVor (o : VOp) (s : State) : Out := vInt (.vor o) o (fun _ a b _ => (a ||| b : Nat)) s
def execVxor (o : VOp) (s : State) : Out := vInt (.vxor o) o (fun _ a b _ => (a ^^^ b : Nat)) s
def execVnot (o : VOp) (s : State) : Out := vInt (.vnot o) o (fun _ a _ _ => -(a : Int) - 1) s
def execVshl (o : VOp) (s : State) : Out := vInt (.vshl o) o (fun w a b _ => (a * 2 ^ (b % w) : Nat)) s
def execVshr (o : VOp) (s : State) : Out := vInt (.vshr o) o (fun w a b _ => (a / 2 ^ (b % w) : Nat)) s
def execVsha (o : VOp) (s : State) : Out := vInt (.vsha o) o (fun w a b _ => shiftDown (sInt w a) (b % w)) s

/-- VSHLI, VSHRI and VSHAI by FUNC. -/
def execVshli (o : VOp) (s : State) : Out :=
  let n := o.imm.toNat
  vInt (.vshli o) o (fun w a _ _ =>
    if o.func.val = 0 then (a * 2 ^ n : Nat) else if o.func.val = 1 then (a / 2 ^ n : Nat) else shiftDown (sInt w a) n) s

def execVclmul (o : VOp) (s : State) : Out := vInt (.vclmul o) o (fun w a b _ => (clmulNat a w b : Nat)) s
def execVclmulh (o : VOp) (s : State) : Out := vInt (.vclmulh o) o (fun w a b _ => (clmulNat a w b / 2 ^ w : Nat)) s
def execVpopc (o : VOp) (s : State) : Out := vInt (.vpopc o) o (fun w a _ _ => (popcNat w a : Nat)) s
def execVclz (o : VOp) (s : State) : Out := vInt (.vclz o) o (fun w a _ _ => (clzNat w a : Nat)) s

/-- VMACW (R204): even and odd products into d and d + 1, twice as wide; no latch. -/
def execVmacw (o : VOp) (s : State) : Out :=
  vRun (.vmacw o) o true (fun x _ s =>
    let w := (vBits o)
    let d1 := o.d + 1
    match s.ctx.get (vSlot o) (s.ctx.vName o.second d1) with
    | .error h => .error h
    | .ok old1 =>
      let prod := (vEls w x.a).zip (vEls w x.b)
      let half := fun (j : Nat) (old : VWord) =>
        vPack (2 * w) ((vEls (2 * w) old).zipIdx.map fun p =>
          let e := 2 * p.2 + j
          if x.m.getLsbD e then
            let ab := prod.getD e (0, 0)
            wrapInt (2 * w) ((p.1 : Int) + sInt w ab.1 * sInt w ab.2)
          else p.1)
      .ok (s.updCtx fun c =>
        (c.put (vSlot o) (c.vName o.second o.d) 2 (half 0 x.old)).put (vSlot o) (c.vName o.second d1) 2 (half 1 old1))) s

/-! ### Floating point (R206 to R209) -/

def vFmt (o : VOp) : Fmt := etyFmt o.ety

/-- A floating-point operation on exact values, rounded once; IV for a NaN from operands without one. -/
def vFp (i : Instr) (o : VOp) (lat : Nat) (f : Val → Val → Val → Val) (n : Nat) (s : State) : Out :=
  vElems i o lat (vBits o) (fun x a b c =>
    let vs := [(vFmt o).value a, (vFmt o).value b, (vFmt o).value c]
    let r := f ((vFmt o).value a) ((vFmt o).value b) ((vFmt o).value c)
    let (z, fl) := (vFmt o).round o.rm x.seed none r
    (z, fl ||| ivFlag r (vs.take n))) s

def execVfadd (o : VOp) (s : State) : Out := vFp (.vfadd o) o 4 (fun a b _ => Val.sum o.rm [a, b]) 2 s
def execVfsub (o : VOp) (s : State) : Out := vFp (.vfsub o) o 4 (fun a b _ => Val.sum o.rm [a, b.neg]) 2 s
def execVfmul (o : VOp) (s : State) : Out := vFp (.vfmul o) o 4 (fun a b _ => a.mul b) 2 s
def execVfma (o : VOp) (s : State) : Out := vFp (.vfma o) o 4 (fun a b c => Val.sum o.rm [a.mul b, c]) 3 s
def execVfmin (o : VOp) (s : State) : Out :=
  vElems (.vfmin o) o 2 (vBits o) (fun _ a b _ => (fpMinMax (vFmt o) false a b, 0)) s
def execVfmax (o : VOp) (s : State) : Out :=
  vElems (.vfmax o) o 2 (vBits o) (fun _ a b _ => (fpMinMax (vFmt o) true a b, 0)) s

/-- VFABS and VFNEG: a NaN gives the canonical NaN. -/
def vSign (i : Instr) (o : VOp) (f : Nat → Nat → Nat) (s : State) : Out :=
  vElems i o 2 (vBits o) (fun _ a _ _ =>
    if ((vFmt o).value a).isNan then ((vFmt o).nanBits, 0) else (f a (2 ^ ((vBits o) - 1)), 0)) s

def execVfabs (o : VOp) (s : State) : Out := vSign (.vfabs o) o (fun a m => a % m) s
def execVfneg (o : VOp) (s : State) : Out := vSign (.vfneg o) o (fun a m => if a < m then a + m else a - m) s

/-- The largest number whose `k` bits keep a downward-closed test true. -/
def bisect (p : Nat → Bool) : Nat → Nat → Nat
  | 0, n => n
  | k + 1, n => bisect p k (if p (n + 2 ^ k) then n + 2 ^ k else n)

/-- T2[i] of R208 times 2^24: the nearest integer to 2^(24 + i/256). -/
def exp2Table (i : Nat) : Nat := bisect (fun n => decide ((2 * n - 1) ^ 256 ≤ 2 ^ (6400 + i))) 26 0

/-- TR[i] of R209 times 2^24. -/
def rcpTable (i : Nat) : Nat := (2 ^ 34 + (513 + 2 * i)) / (2 * (513 + 2 * i))

/-- TS[i] of R209 times 2^24. -/
def rsqTable (i : Nat) : Nat :=
  let (n, d) := if i < 128 then (257 + 2 * i, 256) else (257 + 2 * (i - 128), 128)
  bisect (fun k => decide ((2 * k - 1) ^ 2 * n ≤ 2 ^ 50 * d)) 25 0

/-- VExp2 (R208) of a finite value in units of 2^-149, below 128 and at least -160: an exact value to be rounded. -/
def exp2Exact (x : Int) : Val :=
  let n := x / (2 ^ 149 : Int)
  let f : Nat := (x % (2 ^ 149 : Int)).toNat
  let i := f / 2 ^ 141
  let g := f % 2 ^ 141
  let y := 2 ^ 324 + 0xB17218 * g * 2 ^ 151 + 0xF5FDF0 * g * g
  .fin false (exp2Table i * y) (n - 348)

def execVexp2 (o : VOp) (s : State) : Out :=
  vElems (.vexp2 o) o 8 (vBits o) (fun x a _ _ =>
    match (vFmt o).value a with
    | .nan => ((vFmt o).nanBits, 0)
    | .inf neg => if neg then (0, 0) else (vFmt o).round .rne x.seed none (.inf false)
    | .fin neg n e =>
      let v := (Val.fin neg n e).scaled (-149)
      if v ≥ 128 * 2 ^ 149 then (((vFmt o).round .rne x.seed none (.inf false)).1, flOF)
      else if v < -(160 * 2 ^ 149) then (0, flUF ||| flNX)
      else (vFmt o).round .rne x.seed none (exp2Exact v)) s

/-- VRcp (R209). -/
def rcpExact (v : Val) : Val :=
  match v with
  | .nan => .nan
  | .inf s => .fin s 0 0
  | .fin s n e =>
    if n = 0 then .inf s
    else
      let l := Nat.log2 n
      let t := rcpTable (n * 256 / 2 ^ l - 256)
      let sh := l + 24
      let eps : Int := (2 ^ sh : Nat) - ((n * t : Nat) : Int)
      let num := ((2 ^ (2 * sh) : Nat) : Int) + eps * ((2 ^ sh : Nat) : Int) + eps * eps
      .fin s (t * num.toNat) (-(e + l) - 24 - 2 * sh)

def execVrcp (o : VOp) (s : State) : Out :=
  vElems (.vrcp o) o 8 (vBits o) (fun x a _ _ => (vFmt o).round .rne x.seed none (rcpExact ((vFmt o).value a))) s

/-- VRsq (R209). -/
def rsqExact (v : Val) : Val :=
  match v with
  | .nan => .nan
  | .inf s => if s then .nan else .fin false 0 0
  | .fin s n e =>
    if n = 0 then .inf s
    else if s then .nan
    else
      let l := Nat.log2 n
      let ex : Int := e + l
      let odd : Bool := ex % 2 == 1
      let m := if odd then 2 * n else n
      let ex := if odd then ex - 1 else ex
      let i := if odd then 128 + (m * 64 / 2 ^ l - 128) else m * 128 / 2 ^ l - 128
      let t := rsqTable i
      let sh := l + 48
      let eps : Int := ((2 ^ sh : Nat) : Int) - ((m * t * t : Nat) : Int)
      let num := 8 * ((2 ^ (2 * sh) : Nat) : Int) + 4 * eps * ((2 ^ sh : Nat) : Int) + 3 * eps * eps
      .fin false (t * num.toNat) (-(ex / 2) - 27 - 2 * sh)

def execVrsq (o : VOp) (s : State) : Out :=
  vElems (.vrsq o) o 8 (vBits o) (fun x a _ _ =>
    let v := (vFmt o).value a
    let (z, f) := (vFmt o).round .rne x.seed none (rsqExact v)
    (z, f ||| ivFlag (rsqExact v) [v])) s

/-! ### Compares (R210) -/

/-- A compare into a mask: active elements take the result, others the old bit or 0. -/
def vCompare (i : Instr) (o : VOp) (f : Nat → Nat → Bool) (s : State) : Out :=
  vRun i o false (fun x _ s =>
    let L := 256 / o.ety.width
    let d : Fin 8 := Fin.ofNat 8 o.d.val
    let old := s.ctx.maskOf o.second d
    let rs := (zipEls (fun a b _ => ((f a b).toNat, 0)) (vEls (vBits o) x.a) (vEls (vBits o) x.b) []).map Prod.fst
    let bits := rs.zipIdx.foldr (fun p n =>
      (if x.m.getLsbD p.2 then p.1 else if o.mz then 0 else (old.getLsbD p.2).toNat) + 2 * n) 0
    .ok (s.updCtx fun c => c.put (vSlot o) (maskReg o.second d) 2 ((maskFill L bits).setWidth 2048))) s

/-- The conditions of VFCMP: EQ, NE, LT, LE, UN. -/
def fpCond (n : Nat) (a b : Val) : Bool :=
  if a.isNan || b.isNan then n == 1 || n == 4
  else match n with
    | 0 => a.eqv b
    | 1 => !a.eqv b
    | 2 => a.lt b
    | 3 => a.lt b || a.eqv b
    | _ => false

/-- The conditions of VICMP: EQ, NE, LT, GE, LTU, GEU. -/
def intCond (w n a b : Nat) : Bool :=
  match n with
  | 0 => a == b
  | 1 => a != b
  | 2 => decide (sInt w a < sInt w b)
  | 3 => !decide (sInt w a < sInt w b)
  | 4 => decide (a < b)
  | _ => !decide (a < b)

def execVfcmp (o : VOp) (s : State) : Out :=
  vCompare (.vfcmp o) o (fun a b => fpCond o.func.val ((vFmt o).value a) ((vFmt o).value b)) s
def execVicmp (o : VOp) (s : State) : Out := vCompare (.vicmp o) o (intCond (vBits o) o.func.val) s

end Sys2Proof.Machine
end

