-- ==== Sys2Proof/Machine/VectorOps.lean ====
section
/-! DEFINITION. The V slots, continued (R211 to R220): conversions, scales, reductions, permutations, masks, accumulator
ports, the tile condition queue and moves. -/

namespace Sys2Proof.Machine

open Sys2Proof

/-- Every byte of a register. -/
def allBytes : MaskWord := BitVec.allOnes 256

/-- An operation that writes a whole vector from its operands, without merging (R215 to R217). -/
def vWholeOp (i : Instr) (o : VOp) (lat w : Nat) (f : VIn → List Nat × FpFlags) (s : State) : Out :=
  vRun i o false (fun x dst s =>
    let (l, fl) := f x
    .ok (s.vResult o dst lat (vPack w l) allBytes fl)) s

/-- An operation on whole vectors whose result merges under the mask (R197). -/
def vMerged (i : Instr) (o : VOp) (lat w : Nat) (f : VIn → List (Nat × FpFlags)) (s : State) : Out :=
  vRun i o false (fun x dst s =>
    let (l, fl) := mergeEls x.m o.mz (vEls w x.old) 0 (f x)
    .ok (s.vResult o dst lat (vPack w l) (writtenBytes o w x.m) fl)) s

/-- The active elements of a register, with their flags of activity dropped. -/
def activeEls (m : MaskWord) (l : List Nat) : List Nat := (l.zipIdx.filter fun p => m.getLsbD (p.2 % 256)).map Prod.fst

/-! ### Conversions (R211, R212) -/

/-- The destination format of VCVT. -/
def cvtFmt (o : VOp) : Fmt := if o.func.val = 8 then .e2m1 else etyFmt (ETy.ofBits o.func.val)

/-- The source element of destination element `e`, none where the destination keeps its old element. -/
def cvtSource (ls ld part e : Nat) : Option Nat :=
  if ls ≥ ld then some (part * ld + e)
  else if part * ls ≤ e ∧ e < (part + 1) * ls then some (e - part * ls)
  else none

/-- The converted elements, merged, with the bytes that are written and the flags. -/
def cvtEls (o : VOp) (x : VIn) : List Nat × MaskWord × FpFlags :=
  let df := cvtFmt o
  let dw := df.bits
  let ls := 2048 / vBits o
  let ld := 2048 / dw
  let src := vEls (vBits o) x.a
  let old := vEls dw x.old
  let one := fun (e : Nat) (p : Nat) =>
    match cvtSource ls ld o.imm.toNat e with
    | none => (p, false, (0 : FpFlags))
    | some k =>
      if x.m.getLsbD (e % 256) then
        let (r, f) := convert (vFmt o) df o.rm x.seed (src.getD k 0)
        (r, true, f)
      else (if o.mz then 0 else p, o.mz, 0)
  let rs := (List.range ld).zip old |>.map fun p => one p.1 p.2
  let wr := rs.map fun r => r.2.1
  let bytes := (List.range 256).foldr (fun b n =>
    (if dw = 4 then wr.getD (2 * b) false && wr.getD (2 * b + 1) false else wr.getD (b / (dw / 8)) false).toNat + 2 * n) 0
  (rs.map Prod.fst, BitVec.ofNat 256 bytes, rs.foldl (fun f r => f ||| r.2.2) 0)

/-- VCVT (R211): a byte that holds an E2M1 element not written does not go to a stream (log 45). -/
def execVcvt (o : VOp) (s : State) : Out :=
  vRun (.vcvt o) o (decide (2048 / vBits o < 2048 / (cvtFmt o).bits)) (fun x dst s =>
    let (l, bytes, f) := cvtEls o x
    .ok (s.vResult o dst 3 (vPack (cvtFmt o).bits l) bytes f)) s

/-- VPACKP (R212): i8 elements into planes. -/
def execVpackp (o : VOp) (s : State) : Out :=
  let planes := o.func.val % 8 + 1
  vRun (.vpackp o) o false (fun x dst s =>
    let vs := (vEls 8 x.a).map fun a => (satInt planes (sInt 8 a), sInt 8 a)
    let bits := vs.map fun p => wrapInt planes p.1
    let plane := fun (k : Nat) => bits.foldr (fun v n => (v.testBit (planes - 1 - k)).toNat + 2 * n) 0
    let r := (List.range planes).foldr (fun k n => plane k + 2 ^ 256 * n) 0
    .ok (s.vResult o dst 3 (BitVec.ofNat 2048 r) allBytes (flagIf (vs.any fun p => p.1 ≠ p.2) flSAT))) s

/-- VUNPKP (R212): the first p planes of an NBP vector into i8 elements. -/
def execVunpkp (o : VOp) (s : State) : Out :=
  let planes := o.func.val % 8 + 1
  let p := o.imm.toNat % 8 + 1
  vMerged (.vunpkp o) o 3 8 (fun x =>
    (List.range 256).map fun e =>
      let v := (List.range p).foldl (fun n k => 2 * n + field x.a.toNat (256 * k + e) 1) 0
      (wrapInt 8 (signedField p v * 2 ^ (planes - p)), 0)) s

/-! ### Scales (R213, R214) -/

/-- The target format of VSCALE's ring form. -/
def ringFmt (n : Nat) : Fmt :=
  match n with
  | 0 => .i8 | 3 => .bf16 | 4 => .fp16 | 5 => .fp32 | 6 => .e4m3 | _ => .e5m2

/-- a ÷ s, rounded once (R213). -/
def scaleDiv (f : Fmt) (rm : RMode) (seed : BitVec 32) (a : Nat) (sc : Nat) : Nat × FpFlags :=
  match f.value a, s24Value sc with
  | .nan, _ => (f.nanBits, 0)
  | .inf s, _ => f.round rm seed none (.inf s)
  | .fin s n e, .fin _ m d =>
    if m = 0 then
      if n = 0 then (f.nanBits, flIV)
      else ((f.round rm seed none (.inf s)).1, flOF)
    else f.roundQuot rm seed none s n m (e - d)
  | .fin _ _ _, _ => (f.nanBits, 0)

/-- a × s, rounded once. -/
def scaleMul (f : Fmt) (rm : RMode) (seed : BitVec 32) (a : Val) (sc : Nat) : Nat × FpFlags :=
  let x := a.mul (s24Value sc)
  let (r, g) := f.round rm seed none x
  (r, g ||| ivFlag x [a])

/-- The ring that a VSCALE reads: with the pushes of its own context that its bundle index sees (R116). -/
def State.ownRing (s : State) (r : Nat) : Ring :=
  s.ctx.effects.foldl (fun k e => match e.what with
    | .push n v _ => if n = r ∧ e.land ≤ s.ctx.bidx then k.push v else k
    | _ => k) (vget {} s.quay.rings r)

/-- VSCALE (R213). Its ring form reads the ring with the pushes of other contexts that land before its cycle (R72). -/
def execVscale (o : VOp) (s : State) : Out :=
  let r := o.imm.toNat % 64
  let t := s.landRing r s.quay.cycle.toNat fun n => n != s.quay.cctx
  let ring := (t.ownRing r).scale (ringFmt (o.func.val % 8))
  vElems (.vscale o) o 4 (vBits o) (fun x a _ _ =>
    if o.func.val = 0 then scaleMul (vFmt o) o.rm x.seed ((vFmt o).value a) (x.b.toNat % 2 ^ 24)
    else if o.func.val = 1 then scaleDiv (vFmt o) o.rm x.seed a (x.b.toNat % 2 ^ 24)
    else
      let (r, f) := scaleMul (vFmt o) o.rm x.seed ((vFmt o).value a) ring.1
      (r, f ||| ring.2)) s

/-- A magnitude of 32 bits as a ring may hold it (R70): +infinity stands for what lies above. -/
def magnitude (v : Word) : BitVec 32 := BitVec.ofNat 32 (Nat.min (v.toNat % 2 ^ 31) 0x7F800000)

/-- VAMAX (R214): a push reads as later than every read of its cycle (R72), so it lands before the third bundle on. An
INT32 magnitude that FP32 does not hold pushes a free magnitude (log 20). -/
def execVamax (o : VOp) (s : State) : Out :=
  vRun (.vamax o) o false (fun x _ s =>
    let m := amaxVal ((activeEls x.m (vEls (vBits o) x.a)).map (vFmt o).value)
    let (v, s) := match pushBits m with
      | some v => (v, s)
      | none => let (n, s) := s.draw; (magnitude (Config.freeWord n), s)
    let cycle := s.quay.cycle.toNat + 2
    .ok (s.updCtx fun c => c.later (c.bidx + 3) (.push (o.imm.toNat % 64) v cycle))) s

/-! ### Reductions (R215) -/

/-- Whether ETYPE is an integer type. -/
def isIntTy (o : VOp) : Bool :=
  match o.ety with
  | .i8 | .i16 | .i32 => true
  | _ => false

/-- A sum in the operation's format, rounded once. -/
def fpSum (o : VOp) (seed : BitVec 32) (l : List Nat) : Nat × FpFlags :=
  let vs := l.map (vFmt o).value
  let x := Val.sum o.rm vs
  let (r, f) := (vFmt o).round o.rm seed none x
  (r, f ||| ivFlag x vs)

def execVrsum (o : VOp) (s : State) : Out :=
  vWholeOp (.vrsum o) o 6 (vBits o) (fun x =>
    let l := activeEls x.m (vEls (vBits o) x.a)
    if isIntTy o then
      let t := (l.map (sInt (vBits o))).sum
      let c := satInt (vBits o) t
      ([wrapInt (vBits o) c], flagIf (c ≠ t) flSAT)
    else let (r, f) := fpSum o x.seed l; ([r], f)) s

/-- The largest of a list of elements; `none` without one. -/
def largest (pick : Nat → Nat → Nat) : List Nat → Option Nat
  | [] => none
  | a :: l => some (l.foldl pick a)

def execVrmax (o : VOp) (s : State) : Out :=
  let w := vBits o
  vWholeOp (.vrmax o) o 6 w (fun x =>
    let l := activeEls x.m (vEls w x.a)
    if isIntTy o then
      let pick := fun (a b : Nat) => if vVal o w a < vVal o w b then b else a
      ([(largest pick l).getD (if o.func.val = 1 then 0 else 2 ^ (w - 1))], 0)
    else
      let canon := fun (a : Nat) => if ((vFmt o).value a).isNan then (vFmt o).nanBits else a
      let inf := match (vFmt o).float with
        | some f => f.infBits true
        | none => 0
      ([((largest (fpMinMax (vFmt o) true) l).map canon).getD inf], 0)) s

/-- The running results of VSCAN: `seen` holds the active elements so far, latest first. -/
def scanEls (m : MaskWord) (f : List Nat → Nat × FpFlags) : Nat → List Nat → List Nat → List (Nat × FpFlags)
  | _, _, [] => []
  | e, seen, a :: t =>
    if m.getLsbD (e % 256) then f (a :: seen) :: scanEls m f (e + 1) (a :: seen) t
    else (0, 0) :: scanEls m f (e + 1) seen t

def execVscan (o : VOp) (s : State) : Out :=
  vMerged (.vscan o) o 6 (vBits o) (fun x =>
    scanEls x.m (fun l =>
      if o.func.val = 1 then (l.foldl (· ^^^ ·) 0, 0)
      else if isIntTy o then (l.sum % 2 ^ vBits o, 0)
      else fpSum o x.seed l) 0 [] (vEls (vBits o) x.a)) s

/-! ### Permutations (R216) -/

/-- Elements chosen by index from a list; an index outside it gives 0. -/
def pickEls (n : Nat) (f : Nat → Nat) : List (Nat × FpFlags) := (List.range n).map fun e => (f e, 0)

def vLanes (o : VOp) : Nat := 2048 / vBits o

def execVperm (o : VOp) (s : State) : Out :=
  vMerged (.vperm o) o 3 (vBits o) (fun x =>
    let a := vEls (vBits o) x.a
    let b := vEls (vBits o) x.b
    pickEls (vLanes o) fun e => a.getD (b.getD e 0 % vLanes o) 0) s

/-- VSHUF: zlo, zhi, uze, uzo, rev. -/
def execVshuf (o : VOp) (s : State) : Out :=
  let L := vLanes o
  vMerged (.vshuf o) o 3 (vBits o) (fun x =>
    let a := vEls (vBits o) x.a
    let b := vEls (vBits o) x.b
    pickEls L fun e =>
      match o.func.val with
      | 0 => if e % 2 = 0 then a.getD (e / 2) 0 else b.getD (e / 2) 0
      | 1 => if e % 2 = 0 then a.getD (e / 2 + L / 2) 0 else b.getD (e / 2 + L / 2) 0
      | 2 => if e < L / 2 then a.getD (2 * e) 0 else b.getD (2 * (e - L / 2)) 0
      | 3 => if e < L / 2 then a.getD (2 * e + 1) 0 else b.getD (2 * (e - L / 2) + 1) 0
      | _ => a.getD (L - 1 - e) 0) s

def execVbcast (o : VOp) (s : State) : Out :=
  vMerged (.vbcast o) o 3 (vBits o) (fun x =>
    let a := vEls (vBits o) x.a
    let k := (vEls (vBits o) x.b).getD 0 0 % vLanes o
    pickEls (vLanes o) fun _ => a.getD k 0) s

def execVslide (o : VOp) (s : State) : Out :=
  let n := o.imm.toNat % 64
  vMerged (.vslide o) o 3 (vBits o) (fun x =>
    let a := vEls (vBits o) x.a
    pickEls (vLanes o) fun e =>
      if o.func.val = 0 then a.getD (e + n) 0 else if e < n then 0 else a.getD (e - n) 0) s

def execVcomp (o : VOp) (s : State) : Out :=
  vWholeOp (.vcomp o) o 3 (vBits o) (fun x => (activeEls x.m (vEls (vBits o) x.a), 0)) s

/-! ### Select and masks (R217) -/

def execVsel (o : VOp) (s : State) : Out :=
  vWholeOp (.vsel o) o 2 (vBits o) (fun x =>
    let b := vEls (vBits o) x.b
    ((vEls (vBits o) x.a).zipIdx.map fun p => if x.m.getLsbD p.2 then p.1 else b.getD p.2 0, 0)) s

/-- The mask that a source field names. -/
def maskNum (x : Src) : Fin 8 :=
  match x with
  | .reg r => Fin.ofNat 8 r.val
  | _ => 0

def execMand (o : VOp) (s : State) : Out :=
  vRun (.mand o) o false (fun _ _ s =>
    let a := s.ctx.maskOf o.second (maskNum o.a)
    let b := s.ctx.maskOf o.second (maskNum o.b)
    let r := match o.func.val with
      | 0 => a &&& b
      | 1 => a ||| b
      | 2 => a ^^^ b
      | _ => ~~~a
    .ok (s.updCtx fun c => c.put (vSlot o) (maskReg o.second (Fin.ofNat 8 o.d.val)) 2 (r.setWidth 2048))) s

/-- Bits 0 to L − 1 of the mask that SA names. -/
def State.maskBits (s : State) (o : VOp) : List Bool :=
  let a := s.ctx.maskOf o.second (maskNum o.a)
  (List.range (vLanes o)).map fun e => a.getLsbD e

def execMpopc (o : VOp) (s : State) : Out :=
  vRun (.mpopc o) o false (fun _ dst s =>
    let n := ((s.maskBits o).filter id).length
    .ok (s.vResult o dst 2 (vPack 32 (List.replicate 64 n)) allBytes 0)) s

/-- The OR, or with FUNC 1 the AND, of the mask bits. -/
def State.maskTest (s : State) (o : VOp) : Bool :=
  if o.func.val = 1 then (s.maskBits o).all id else (s.maskBits o).any id

def execMany (o : VOp) (s : State) : Out :=
  vRun (.many o) o false (fun _ _ s =>
    .ok (s.updCtx fun c => c.put (vSlot o) (.q (Fin.ofNat 8 o.d.val)) 2 (if s.maskTest o then 1 else 0))) s

/-! ### Accumulator ports (R218) -/

/-- The row and segment that element 0 of SA names. -/
def portRow (a : VWord) : Nat := field a.toNat 0 7
def portSeg (a : VWord) : Nat := field a.toNat 7 1

/-- Whether the bundle port of a bank is held by a command, or by the follow-on of the strand's own CPMM. -/
def State.portHeld (s : State) (b : Nat) : Bool :=
  s.bankHeld b || s.quay.dock.any fun d => d.owner == s.ctx.born && match d.follow with
    | some f => ({ d with op := f, pa := d.pa2 }).claims.contains (.acc b)
    | none => false

/-- A bank as a context's bundle port reads it: ACWRs of other contexts on their way have landed, and of its own those that the
bundle index sees; one that a command landed early is not seen before its bundle (R116, R218). -/
def State.portBank (s : State) (b : Nat) : Bank :=
  let write := fun (k : Bank) (n : Nat) (cells : List (Nat × BitVec 32)) => if n = b then k.write cells else k
  let others := (List.finRange 8).filter fun c => c != s.quay.cctx
  let k := (others.flatMap fun c => (s.quay.ctx c).effects).foldl (fun k e => match e.what with
    | .bank n cells => write k n cells
    | _ => k) (vget {} s.quay.banks b)
  let k := s.ctx.effects.foldl (fun k e => match e.what with
    | .bank n cells => if e.land ≤ s.ctx.bidx then write k n cells else k
    | _ => k) k
  s.ctx.effects.foldr (fun e k => match e.what with
    | .bankOld n cells => if s.ctx.bidx < e.land then write k n cells else k
    | _ => k) k

/-- The words of a row's segment as 64 elements; segment 1 has 32. -/
def Bank.segment (k : Bank) (row seg : Nat) : List Nat :=
  (List.range 64).map fun e =>
    if 64 * seg + e ≤ 95 then (sparseGet 0 k.words (96 * row + 64 * seg + e) : BitVec 32).toNat else 0

/-- An accumulator port operation waits while the bank is held. -/
def vPort (i : Instr) (o : VOp) (f : VIn → Option (Fin 8) → State → Got State) (s : State) : Out :=
  vRun i o false (fun x dst s => if s.portHeld o.func.val then .error .wait else f x dst s) s

def execAcrd (o : VOp) (s : State) : Out :=
  vPort (.acrd o) o (fun x dst s =>
    let ws := (s.portBank o.func.val).segment (portRow x.a) (portSeg x.a)
    let (l, _) := mergeEls x.m o.mz (vEls 32 x.old) 0 (ws.map fun w => (w, 0))
    .ok (s.vResult o dst 4 (vPack 32 l) (writtenBytes o 32 x.m) 0)) s

/-- ACWR: the words change four bundles later (R198, R218). -/
def execAcwr (o : VOp) (s : State) : Out :=
  vPort (.acwr o) o (fun x _ s =>
    let cells := (vEls 32 x.b).zipIdx.filterMap fun p =>
      let n := 64 * portSeg x.a + p.2
      if x.m.getLsbD p.2 && decide (n ≤ 95) then some (96 * portRow x.a + n, BitVec.ofNat 32 p.1) else none
    .ok (s.updCtx fun c => c.later (c.bidx + 4) (.bank o.func.val cells))) s

/-- The value of a bank's word by its TYPE (R273). -/
def Bank.value (k : Bank) (w : Nat) : Val := if k.int32 then Fmt.i32.value w else Fmt.fp32.value w

def execAcrdc (o : VOp) (s : State) : Out :=
  vPort (.acrdc o) o (fun x dst s =>
    let k := s.portBank o.func.val
    let n := if portSeg x.a = 1 then 32 else 64
    let ws := ((k.segment (portRow x.a) (portSeg x.a)).take n).map fun w =>
      scaleMul (vFmt o) o.rm x.seed (k.value w) (x.b.toNat % 2 ^ 24)
    let rs := ws ++ List.replicate (vLanes o - n) (0, (0 : FpFlags))
    let (l, f) := mergeEls x.m o.mz (vEls (vBits o) x.old) 0 rs
    .ok (s.vResult o dst 6 (vPack (vBits o) l) (writtenBytes o (vBits o) x.m) f)) s

/-! ### Tile conditions (R219) -/

/-- Entries of the tile condition queue held and on their way. -/
def Context.tcqUsed (c : Context) : Nat :=
  c.regs.tcq.length + (c.effects.filter fun e => match e.what with
    | .tcq _ => true
    | _ => false).length

/-- TCQW: it stalls its slot while 16 entries are held. -/
def execTcqw (o : VOp) (s : State) : Out :=
  vRun (.tcqw o) o false (fun _ _ s =>
    if s.ctx.tcqUsed ≥ 16 then .error .wait
    else .ok (s.updCtx fun c => c.later (c.bidx + 2) (.tcq (s.maskTest o)))) s

/-! ### Moves (R220) -/

def execVmov (o : VOp) (s : State) : Out := vElems (.vmov o) o 2 (vBits o) (fun _ a _ _ => (a, 0)) s

/-- The element value of VLI. -/
def vliValue (o : VOp) : Nat :=
  match o.ety with
  | .i32 => wrapInt 32 o.imm.toInt
  | .fp32 => o.imm.toNat * 2 ^ 16
  | _ => o.imm.toNat % 2 ^ vBits o

def execVli (o : VOp) (s : State) : Out := vElems (.vli o) o 2 (vBits o) (fun _ _ _ _ => (vliValue o, 0)) s

/-- VCOPYX: the other file's register, no latch. -/
def execVcopyx (o : VOp) (s : State) : Out :=
  vRun (.vcopyx o) o false (fun x dst s =>
    let (l, _) := mergeEls x.m o.mz (vEls (vBits o) x.old) 0 ((vEls (vBits o) x.a).map fun a => (a, 0))
    let r := vPack (vBits o) l
    .ok (match dst with
      | some k => s.streamPush k r (writtenBytes o (vBits o) x.m)
      | none => s.updCtx fun c => c.put (vSlot o) (c.vName (!o.second) o.d) 2 r)) s

def execVidx (o : VOp) (s : State) : Out :=
  vMerged (.vidx o) o 2 (vBits o) (fun _ => pickEls (vLanes o) fun e => e % 2 ^ vBits o) s

end Sys2Proof.Machine
end

