-- ==== Sys2Proof/Machine/Matrix.lean ====
section
/-! DEFINITION. The matrix engine (R267 to R294): operands, fed K tiles and their sums, structured sparsity, the
expander, the epilogue, projection and routing registers, and berths. -/

namespace Sys2Proof.Machine

open Sys2Proof

/-! ### Berth counts (R283) -/

/-- A reader claims the next `k` tiles of a berth: the first of them. -/
def State.berthClaim (s : State) (b k : Nat) : Nat × State :=
  let x := s.berthAt b
  (x.c, s.putBerth b { x with c := x.c + k })

/-- Raises H over the tiles popped in order. -/
def Berth.advance (x : Berth) : Nat → Berth
  | 0 => x
  | n + 1 => if x.popped.contains x.h then
      ({ x with popped := x.popped.filter fun p => p != x.h, h := x.h + 1 }).advance n else x

/-- Pops a tile; pops take effect in tile order. -/
def State.berthPop (s : State) (b n : Nat) : State :=
  let x := s.berthAt b
  s.putBerth b (({ x with popped := x.popped ++ [n] }).advance (x.popped.length + 1))

/-! ### Operands of MMA and MMAS (R267, R268, R272, R276) -/

/-- K_t and whether the bank type is INT32, of an accepted format pair. -/
def mmaPair (a b : Nat) : Option (Nat × Bool) :=
  match Fmt.ofCode a, Fmt.ofCode b, decide (b = 9) with
  | some .e2m1, some .e2m1, _ => some (256, false)
  | some .e4m3, some .e4m3, _ | some .e4m3, some .e5m2, _ | some .e5m2, some .e4m3, _ | some .e5m2, some .e5m2, _ =>
    some (128, false)
  | some .bf16, some .bf16, _ => some (64, false)
  | some .fp16, some .fp16, _ => some (64, false)
  | some .i8, some .i8, _ => some (128, true)
  | some .i8, none, true => some (128, true)
  | _, _, _ => none

def DockEntry.dec (d : DockEntry) : Nat := d.o.var.val % 4
def DockEntry.nk (d : DockEntry) : Nat := field d.pa.toNat 0 16
def DockEntry.pj (d : DockEntry) : Nat := field d.pa.toNat 16 2
def DockEntry.bankNo (d : DockEntry) : Nat := d.fn % 16
def DockEntry.zero (d : DockEntry) : Bool := d.fn.testBit 4

/-- The fed K tiles formed from one source tile: as dock entry foresees them for its claims (R283), from the start on those of
the projection register (R276). -/
def DockEntry.fper (d : DockEntry) : Nat := d.words.headD 1

/-- How many tiles of a berth source were claimed at dock entry, and the first of those claimed at the start (log 105). -/
def DockEntry.claimed (d : DockEntry) : Nat := d.words.getD 1 (d.nk / d.fper)
def DockEntry.claimedLate (d : DockEntry) : Nat := d.words.getD 2 0

/-- The record of an operand. -/
def DockEntry.operand (d : DockEntry) (isA : Bool) : Layout := ((if isA then d.recA else d.recB).getD {})

/-- K_t and whether the sums are integers. -/
def DockEntry.pair (d : DockEntry) : Nat × Bool := (mmaPair (d.operand true).fmt (d.operand false).fmt).getD (64, false)

/-- Whether an operand is the expander's source. -/
def DockEntry.expands (d : DockEntry) (isA : Bool) : Bool := d.dec == (if isA then 2 else 1)

/-- N of MMAS (R288); 64 of MMA. -/
def DockEntry.nz (d : DockEntry) : Nat :=
  match d.op with
  | .mmas _ => 16 * (field d.pb.toNat 22 2 + 1)
  | _ => 64

/-- The rows of A, or the columns of B. -/
def opRows (isA : Bool) : Nat := if isA then 128 else 96

/-- The stored K extent of an operand's tile. -/
def DockEntry.tileLen (d : DockEntry) (isA : Bool) : Nat :=
  let r := d.operand isA
  if d.expands isA then
    if r.berth?.isSome then r.extent 0 else r.extent 0 / (d.nk / d.fper)
  else if isA then d.pair.1 * d.nz / 64 else d.pair.1

/-- The tiles of an operand that the command reads. -/
def DockEntry.tiles (d : DockEntry) (isA : Bool) : Nat := if d.expands isA then d.nk / d.fper else d.nk

/-- The tile of an operand that fed K tile `t` reads. -/
def DockEntry.tileOf (d : DockEntry) (isA : Bool) (t : Nat) : Nat := if d.expands isA then t / d.fper else t

/-- The berth tile that is tile `i` of an operand. -/
def DockEntry.berthTile (d : DockEntry) (isA : Bool) (i : Nat) : Nat :=
  if d.expands isA && decide (d.claimed ≤ i) then d.claimedLate + (i - d.claimed)
  else (if isA then d.tileA else d.tileB) + i

/-- An element of an operand's tile `i`: the record laid over its slot, the first writer index of the tile, coordinates. -/
def State.opAt (s : State) (d : DockEntry) (isA : Bool) (i k r : Nat) : Layout × Nat × List Nat :=
  let o := d.operand isA
  match o.berth? with
  | some b =>
    let x := s.berthAt b
    let n := d.berthTile isA i
    (o.inTile x n, n * x.tile, [k, r])
  | none => (o, 0, [d.tileLen isA * i + k, r])

/-- What an element of an operand needs covered. -/
def State.opNeed (s : State) (d : DockEntry) (isA : Bool) (i k r : Nat) : List (Layout × Nat × List Nat) :=
  let o := d.operand isA
  if o.tm = 0xFF then [] else
    let (_, b, c) := s.opAt d isA i k r
    [(o, b, c)]

/-- The exact value of an operand's bits: NBP is read at PREAD planes (R56, R267). -/
def Layout.elemVal (r : Layout) (bits : Nat) : Val :=
  if r.isNbp then
    let m : Int := 2 ^ (r.pstore - r.pread)
    .ofInt (signedField r.pstore bits / m * m)
  else match Fmt.ofCode r.fmt with
    | some f => f.value bits
    | none => .fin false 0 0

/-- Reads an element of an operand. -/
def State.opRead (s : State) (d : DockEntry) (isA : Bool) (i k r : Nat) : Reach Val :=
  let (l, _, c) := s.opAt d isA i k r
  (s.readPlace d.reacher l (l.place c)).map (d.operand isA).elemVal

/-- The mask of a row's run of 64 in a fed K tile (R272). -/
def State.sparseMask (s : State) (d : DockEntry) (t h m : Nat) : Reach Nat :=
  s.readAt d.reacher true false
    ((field d.pb.toNat 0 22 + 8 * ((t * d.pair.1 / 64 + h) * 128 + m) : Nat) : Int) 8 8

/-- The stored index of each logical K of a run, none for an absent one. -/
def maskIndices (n h mask : Nat) : List (Option Nat) :=
  (List.range 64).map fun i => if mask.testBit i then some (h * n + popcNat i mask) else none

/-- The stored index of each logical K of row `m` in a fed K tile of MMAS. -/
def State.sparseRow (s : State) (d : DockEntry) (t m : Nat) : Reach (List (Option Nat)) :=
  (List.range (d.pair.1 / 64)).foldl (fun acc h => do
    let l ← acc
    let k ← s.sparseMask d t h m
    pure (l ++ maskIndices d.nz h k)) (.ok [])

/-- The stored K indices of an operand's row in a fed K tile, by logical K. -/
def State.rowIndices (s : State) (d : DockEntry) (isA : Bool) (t r : Nat) : Reach (List (Option Nat)) :=
  match isA, d.op with
  | true, .mmas _ => s.sparseRow d t r
  | _, _ => .ok ((List.range d.pair.1).map some)

/-- The elements and block scales that group `g` of fed K tile `t` needs covered (R269). -/
def State.groupNeed (s : State) (d : DockEntry) (t g : Nat) : List (Layout × Nat × List Nat) :=
  let size := d.pair.1 / 4
  let side := fun (isA : Bool) =>
    let i := d.tileOf isA t
    if (d.operand isA).tm = 0xFF then []
    else (List.range (opRows isA)).flatMap fun r =>
      if d.expands isA then (List.range (d.tileLen isA)).flatMap fun k => s.opNeed d isA i k r
      else match s.rowIndices d isA t r with
        | .error _ => []
        | .ok l => (((l.drop (g * size)).take size).filterMap id).flatMap fun k => s.opNeed d isA i k r
  let scale := fun (isA : Bool) =>
    match (if isA then d.sclA else d.sclB) with
    | none => []
    | some q => if q.tm = 0xFF then [] else
      let first := (t * d.pair.1 + g * size) / 32
      let last := (t * d.pair.1 + (g + 1) * size - 1) / 32
      (List.range (opRows isA)).flatMap fun r => (List.range (last + 1 - first)).map fun b => (q, 0, [first + b, r])
  side true ++ side false ++ scale true ++ scale false

/-! ### Sums (R271, R277) -/

/-- A matrix of a projection register's words. -/
def Proj.at (p : Proj) (r k : Nat) : Val := Fmt.bf16.value (sparseGet 0 p.words (r * p.d + k) : BitVec 16).toNat

/-- One row of the expander's output: 64 dot products rounded into BF16. -/
def expandRow (isA : Bool) (p : Proj) (j : Nat) (src : List Val) : List (Val × FpFlags) :=
  (List.range 64).map fun i =>
    let ws := if isA then (List.range p.d).map fun k => p.at (64 * j + i) k
      else (List.range p.r).map fun r => p.at r (64 * j + i)
    let x := Val.sum .rne (List.zipWith Val.mul src ws)
    let (b, f) := Fmt.bf16.round .rne 0 none x
    (Fmt.bf16.value b, f ||| ivFlag x (src ++ ws))

/-- The fed values of an operand's row in fed K tile `t`; an absent position of MMAS is a zero that is multiplied like any other
(R73, R272; DEDUCED, log 107). -/
def State.fedRow (s : State) (d : DockEntry) (isA : Bool) (t r : Nat) : Reach (List (Val × FpFlags)) := do
  let i := d.tileOf isA t
  if d.expands isA then
    let src ← (List.range (d.tileLen isA)).mapM fun k => s.opRead d isA i k r
    pure (expandRow isA (vget {} s.quay.pjs d.pj) (t % d.fper) src)
  else
    let ks ← s.rowIndices d isA t r
    ks.mapM fun k => match k with
      | some k => (s.opRead d isA i k r).map fun v => (v, 0)
      | none => .ok (.fin false 0 0, 0)

/-- The block scales of an operand's row, by logical K of the tile. -/
def State.scaleRow (s : State) (d : DockEntry) (isA : Bool) (t r : Nat) : Reach (List Val) :=
  match (if isA then d.sclA else d.sclB) with
  | none => .ok (List.replicate d.pair.1 (.fin false 1 0))
  | some q => do
    let bs ← (List.range (d.pair.1 / 32)).mapM fun b =>
      s.readPlace d.reacher q (q.place [t * d.pair.1 / 32 + b, r])
    pure (bs.flatMap fun b => List.replicate 32 (s24Value b))

/-- A row of an operand: the fed values, the scaled values, the flags of the expander. -/
abbrev FedRow := List Val × List Val × FpFlags

def State.feed (s : State) (d : DockEntry) (isA : Bool) (t : Nat) : Reach (List FedRow) :=
  (List.range (opRows isA)).mapM fun r => do
    let v ← s.fedRow d isA t r
    let c ← s.scaleRow d isA t r
    let vs := v.map Prod.fst
    pure (vs, List.zipWith Val.mul vs c, v.foldl (fun f p => f ||| p.2) 0)

/-- The groups of one bank word, ascending: the new word and its flags. -/
def groupSums (int : Bool) (g : Nat) : Nat → List Val → List Val → List Val → List Val → Nat → Nat × FpFlags
  | 0, _, _, _, _, acc => (acc, 0)
  | n + 1, a, sa, b, sb, acc =>
    let x := Val.sum .rne (List.zipWith Val.mul (sa.take g) (sb.take g))
    let (acc, f) :=
      if int then
        let t := signedField 32 acc + x.scaled 0
        (wrapInt 32 (satInt 32 t), flagIf (satInt 32 t ≠ t) flSAT)
      else
        let (r, f1) := roundFp32 x
        let (acc, f2) := addFp32 acc r
        (acc, f1 ||| ivFlag x (a.take g ++ b.take g) ||| f2)
    let (acc, h) := groupSums int g n (a.drop g) (sa.drop g) (b.drop g) (sb.drop g) acc
    (acc, f ||| h)

/-- The words of a store from key `k` on, as a list. -/
def denseWords : Nat → Nat → Sparse (BitVec 32) → List Nat
  | _, 0, _ => []
  | k, n + 1, [] => 0 :: denseWords (k + 1) n []
  | k, n + 1, (j, v) :: t => if j = k then v.toNat :: denseWords (k + 1) n t else 0 :: denseWords (k + 1) n ((j, v) :: t)

/-- The store of a list of words. -/
def sparseWords (l : List Nat) : Sparse (BitVec 32) :=
  l.zipIdx.filterMap fun p => if p.1 % 2 ^ 32 = 0 then none else some (p.2, BitVec.ofNat 32 p.1)

/-- The bank after a fed K tile, with the flags of every rounding. -/
def Bank.addTile (k : Bank) (int : Bool) (g : Nat) (as bs : List FedRow) : Bank × FpFlags :=
  let cells := (as.flatMap fun a => bs.map fun b => (a, b)).zip (denseWords 0 12288 k.words)
  let rs := cells.map fun p => groupSums int g 4 p.1.1.1 p.1.1.2.1 p.1.2.1 p.1.2.2.1 p.2
  let f := (as ++ bs).foldl (fun f r => f ||| r.2.2) (rs.foldl (fun f r => f ||| r.2) 0)
  ({ k with words := sparseWords (rs.map Prod.fst) }, f)

/-! ### MMA and MMAS: dock entry (R267 to R270, R276, R285, R288) -/

/-- The checks of an operand record; `len` is the stored K extent of a tile, none for the expander's source. -/
def State.operandOk (s : State) (r : Layout) (rows nk : Nat) (len : Option Nat) : Except FaultCode Unit := do
  if !r.sp || r.rank ≠ 2 || r.extent 1 ≠ rows then throw .mmaShape
  match r.berth? with
  | some b =>
    let x := s.berthAt b
    if !x.placed then throw .berthOverrun
    if field r.base 4 59 ≠ 0 || r.tm ≠ x.tail then throw .regionShape
    match len with
    | some n => if r.extent 0 ≠ n then throw .mmaShape
    | none => pure ()
  | none => match len with
    | some n => if r.extent 0 ≠ n * nk then throw .mmaShape
    | none => pure ()

/-- The scale record of an operand (R270). -/
def State.scaleRecord (s : State) (d : DockEntry) (r : Layout) (rows k : Nat) : Except FaultCode (State × Option Layout) :=
  if r.scale = 0xFFFF then .ok (s, none)
  else if r.scale ≥ 256 then .error .reservedField
  else do
    let (s, q) ← s.record d r.scale
    if q.fmt ≠ 10 || !q.sp || q.base / 2 ^ 63 ≠ 0 || q.rank ≠ 2 || q.extent 0 ≠ k / 32 || q.extent 1 ≠ rows then
      throw .mmaShape
    pure (s, some q)

/-- R and d of a projection register for a command that enters now: those of the last PJLD before it, else the register's. -/
def State.projShape (s : State) (d : DockEntry) : Option (Nat × Nat) :=
  let loads := s.quay.dock.filter fun e => e.seq < d.seq && e.entered && match e.op with
    | .pjld _ => e.fn % 4 == d.pj
    | _ => false
  match loads.getLast? with
  | some e => e.recA.map fun r => (r.extent 1, r.extent 0)
  | none =>
    let p := vget {} s.quay.pjs d.pj
    if p.loaded then some (p.r, p.d) else none

/-- Claims the tiles of a berth operand; the first of them. -/
def State.claimTiles (s : State) (r : Layout) (k : Nat) : Nat × State :=
  match r.berth? with
  | some b => s.berthClaim b k
  | none => (0, s)

/-- Registers as chaser of a scale record's tidemark. -/
def State.joinOpt (s : State) (seq : Nat) (r : Option Layout) : Except FaultCode State :=
  match r with
  | some r => s.joinChase seq r
  | none => .ok s

/-- The checks of MMAS's META and N (R288). -/
def sparseFields (d : DockEntry) : Except FaultCode Unit :=
  match d.op with
  | .mmas _ =>
    if field d.pb.toNat 24 40 ≠ 0 || field d.pb.toNat 22 2 = 3 then .error .reservedField
    else if field d.pb.toNat 0 22 % 8 ≠ 0 then .error .misaligned
    else .ok ()
  | _ => .ok ()

def mmaEntry (d : DockEntry) (s : State) : Except FaultCode State := do
  if field d.pa.toNat 18 46 ≠ 0 || (d.pj ≠ 0 && d.dec = 0) then throw .reservedField
  sparseFields d
  if d.nk = 0 then throw .mmaShape
  let (s, a) ← s.record d d.o.da.val
  let (s, b) ← s.record d d.o.db.val
  if (256 ≤ a.scale && a.scale < 0xFFFF) || (256 ≤ b.scale && b.scale < 0xFFFF) then throw .reservedField
  match mmaPair a.fmt b.fmt with
  | none => throw .mmaShape
  | some (kt, int) =>
    if (int || d.dec ≠ 0) && (a.scale ≠ 0xFFFF || b.scale ≠ 0xFFFF) then throw .mmaShape
    if d.dec ≠ 0 && (a.fmt ≠ 3 || b.fmt ≠ 3) then throw .mmaShape
    let fper := match d.dec, s.projShape d with
      | 1, some (_, k) => Nat.max 1 (k / 64)
      | 2, some (r, _) => Nat.max 1 (r / 64)
      | _, _ => 1
    let d := { d with recA := some a, recB := some b, words := [fper] }
    s.operandOk a 128 d.nk (if d.expands true then none else some (d.tileLen true))
    s.operandOk b 96 d.nk (if d.expands false then none else some (d.tileLen false))
    let (s, qa) ← s.scaleRecord d a 128 (d.nk * kt)
    let (s, qb) ← s.scaleRecord d b 96 (d.nk * kt)
    s.joinable a
    s.joinable b
    match qa, qb with
    | some x, some y => do s.joinable x; s.joinable y
    | some x, none => s.joinable x
    | none, some y => s.joinable y
    | none, none => pure ()
    let (ta, s) := s.claimTiles a (d.tiles true)
    let (tb, s) := s.claimTiles b (d.tiles false)
    let s := s.updCmd d.seq fun e =>
      { e with recA := some a, recB := some b, sclA := qa, sclB := qb, words := [fper], tileA := ta, tileB := tb }
    let s ← s.joinChase d.seq a
    let s ← s.joinChase d.seq b
    let s ← s.joinOpt d.seq qa
    s.joinOpt d.seq qb

/-! ### MMA and MMAS: start, groups, retirement (R269, R273, R276, R284, R285) -/

/-- The elements that the start waits for: (0, 0) of A and of B (R269). -/
def State.mmaFirst (s : State) (d : DockEntry) : List (Layout × Nat × List Nat) :=
  s.opNeed d true (d.tileOf true d.ktile) 0 0 ++ s.opNeed d false (d.tileOf false d.ktile) 0 0

/-- The checks made at start of a command with DEC (R276): the fed K tiles that its register forms of a source tile. -/
def State.expandOk (s : State) (d : DockEntry) : Except FaultCode Nat :=
  if d.dec = 0 then .ok 1
  else
    let p := vget {} s.quay.pjs d.pj
    if !p.loaded then .error .projEmpty
    else
      let per := if d.dec = 1 then p.d / 64 else p.r / 64
      let len := if d.dec = 1 then p.r else p.d
      let src := d.operand (d.dec == 2)
      if d.nk % per ≠ 0 then .error .mmaShape
      else if src.extent 0 ≠ (if src.berth?.isSome then len else d.nk / per * len) then .error .mmaShape
      else .ok per

/-- A start that finds another number of source tiles than dock entry foresaw claims the missing tiles of a berth source; those
claimed beyond its need are popped, behind the ones it reads (DEDUCED, log 105). -/
def State.reclaim (s : State) (d : DockEntry) (per : Nat) : State :=
  let k := d.nk / per
  let n := d.nk / d.fper
  let first := if d.dec = 2 then d.tileA else d.tileB
  let (late, s) := match (d.operand (d.dec == 2)).berth? with
    | some b =>
      if n < k then s.berthClaim b (k - n)
      else (0, (List.range (n - k)).foldl (fun s i => s.berthPop b (first + k + i)) s)
    | none => (0, s)
  s.updCmd d.seq fun e => { e with words := [per, Nat.min n k, late] }

/-- The start: the checks of R273 and R276, bundle-port writes land, Z clears the bank. A command that resumes begins its
first fed K tile that has not retired again. -/
def mmaStart (d : DockEntry) (s : State) : Except FaultCode State := do
  let run := fun (s : State) => s.updCmd d.seq fun e => { e with phase := .running, started := true, group := 0 }
  if d.started then pure (run s)
  else
    let per ← s.expandOk d
    let s := if d.dec = 0 || per = d.fper then s else s.reclaim d per
    let s := s.landBanks d
    let k := vget {} s.quay.banks d.bankNo
    if d.zero then
      pure (run (s.updQuay fun q => { q with banks := vput q.banks d.bankNo { int32 := d.pair.2 } }))
    else if k.int32 != d.pair.2 then throw .mmaShape
    else pure (run s)

/-- Whether a mask of fed K tile `t` does not hold exactly N ones (R272), or cannot be read. -/
def State.sparseBad (s : State) (d : DockEntry) (t : Nat) : Option Stop :=
  match d.op with
  | .mmas _ => (List.range 128).findSome? fun m => (List.range (d.pair.1 / 64)).findSome? fun h =>
      match s.sparseMask d t h m with
      | .error e => some e
      | .ok k => if popcNat 64 k = d.nz then none else some (.fault .sparseMeta)
  | _ => none

/-- MMA_GROUP_START: the next group of the current fed K tile begins once its operands and scales are covered; every mask
of the tile, which is not chased, is checked before the first. -/
def mmaGroup (d : DockEntry) (s : State) : State :=
  if d.ktile ≥ d.nk || d.group ≥ 4 then s
  else match (if d.group = 0 then s.sparseBad d d.ktile else none) with
    | some h => s.stopAt d.seq h d.ktile
    | none => match s.allCovered (s.groupNeed d d.ktile d.group) with
      | .error f => s.cmdFault d.seq f d.ktile
      | .ok false => s
      | .ok true => (s.updCmd d.seq fun e => { e with group := e.group + 1 }).progress d.seq

/-- Pops the tile of a berth operand that fed K tile `t` was the last to read. -/
def State.popOperand (s : State) (d : DockEntry) (isA : Bool) (t : Nat) : State :=
  match (d.operand isA).berth? with
  | none => s
  | some b =>
    if d.expands isA && (t + 1) % d.fper ≠ 0 then s
    else s.berthPop b (d.berthTile isA (d.tileOf isA t))

/-- MMA_KTILE_RETIRE: the sums of the four groups enter the bank, and the operand tiles are popped. The operands of a tile
are read here, while the bank is held (log 50). -/
def mmaRetire (d : DockEntry) (s : State) : State :=
  if d.group ≠ 4 then s
  else
    let t := d.ktile
    match s.feed d true t, s.feed d false t with
    | .error h, _ => s.stopAt d.seq h t
    | _, .error h => s.stopAt d.seq h t
    | .ok as, .ok bs =>
      let (k, f) := (vget {} s.quay.banks d.bankNo).addTile d.pair.2 (d.pair.1 / 4) as bs
      let s := s.updQuay fun q => { q with banks := vput q.banks d.bankNo k }
      let s := (s.popOperand d true t).popOperand d false t
      (s.updCmd d.seq fun e => { e with ktile := t + 1, group := 0, flags := e.flags ||| f }).progress d.seq

/-- Every berth tile that a command claimed and did not pop is popped (R285). -/
def State.popClaims (s : State) (d : DockEntry) : State :=
  match d.op with
  | .mma _ | .mmas _ =>
    if !d.entered then s
    else [true, false].foldl (fun s isA =>
      match (d.operand isA).berth? with
      | none => s
      | some b =>
        ((List.range (d.tiles isA)).filter fun i => d.tileOf isA d.ktile ≤ i).foldl
          (fun s i => s.berthPop b (d.berthTile isA i)) s) s
  | .bthpop _ =>
    if !d.entered then s
    else ((List.range (d.fn / 16 + 1)).filter fun i => d.count ≤ i).foldl
      (fun s i => s.berthPop (d.fn % 16) (d.tileA + i)) s
  | _ => s

/-! ### ACZ (R289) -/

def aczAct (d : DockEntry) (s : State) : State :=
  (s.updQuay fun q => { q with banks := vput q.banks d.bankNo { int32 := d.zero } }).complete d

/-! ### EPI (R279 to R282, R290) -/

def DockEntry.act (d : DockEntry) : Nat := field d.fn 4 2
def DockEntry.bias (d : DockEntry) : Bool := d.fn.testBit 6
def DockEntry.routed (d : DockEntry) : Bool := d.fn.testBit 7
def epiPaBit (d : DockEntry) (n : Nat) : Bool := d.pa.toNat.testBit n
def epiLo (d : DockEntry) : Nat := field d.pb.toNat 0 32
def epiHi (d : DockEntry) : Nat := field d.pb.toNat 32 32

/-- The bounds of clamp are numbers in order (R290). -/
def clampOk (d : DockEntry) : Bool :=
  d.act != 2 || (let lo := Fmt.fp32.value (epiLo d); let hi := Fmt.fp32.value (epiHi d)
    !lo.isNan && !hi.isNan && !hi.lt lo)

/-- The destination of EPI: through a routing register (R282), where a berth reference is an offset beyond every range
(DEDUCED, log 114), or a region or berth here. -/
def State.epiDest (s : State) (d : DockEntry) (a : Layout) : Except FaultCode State :=
  if d.routed then do
    if !a.sp then throw .mmaShape
    match vget none s.quay.rtes (field d.pa.toNat 32 3) with
    | none => throw .routeInvalid
    | some r =>
      match s.landingFits d.slice r.dev r.quay (r.base + a.start) a.bytes with
      | some (f, _) => throw f
      | none => pure (s.updCmd d.seq fun e => { e with recA := some a, route := some r })
  else do
    let (s, a) ← s.destOf d a
    pure (s.updCmd d.seq fun e => { e with recA := some a })

def epiEntry (d : DockEntry) (s : State) : Except FaultCode State := do
  if field d.pa.toNat 38 26 ≠ 0 || field d.pa.toNat 36 2 = 3 || (!epiPaBit d 30 && field d.pa.toNat 24 6 ≠ 0)
      || !clampOk d then throw .reservedField
  s.ownTm d
  let (s, a) ← s.record d d.o.da.val
  if a.rank ≠ 2 || a.extent 0 ≠ 96 || a.extent 1 ≠ 128 || a.fmt = 9 || a.fmt = 10 then throw .mmaShape
  if epiPaBit d 31 && a.ring = 0xFF then throw .reservedField
  if d.bias then
    let (s, b) ← s.record d d.o.db.val
    if b.rank ≠ 1 || b.extent 0 ≠ 96 || !(b.fmt = 3 || b.fmt = 4 || b.fmt = 5) || !b.sp then throw .mmaShape
    s.plainSource b
    s.joinable b
    let s ← s.epiDest d a
    (s.updCmd d.seq fun e => { e with recB := some b }).joinChase d.seq b
  else s.epiDest d a

/-- The bias element that element `n` of the walk needs. -/
def epiNeed (d : DockEntry) (n : Nat) : List (Layout × Nat × List Nat) :=
  match d.recB with
  | none => []
  | some b => if b.tm = 0xFF then [] else [(b, 0, [((d.recA.getD {}).coords n).getD 0 0])]

/-- EPI starts: bundle-port writes to its bank and pushes into its ring land, and the ring's scale is read once. -/
def epiStart (d : DockEntry) (s : State) : State :=
  let s := s.landBanks d
  if d.started || !epiPaBit d 30 then
    s.updCmd d.seq fun e => { e with started := true, scale := if d.started then e.scale else BitVec.ofNat 24 s24One }
  else
    let ring := field d.pa.toNat 24 6
    let s := s.landRing ring s.quay.cycle.toNat fun _ => true
    let f := (Fmt.ofCode (d.recA.getD {}).fmt).getD .fp32
    let (c, g) := (vget {} s.quay.rings ring).scale f
    s.updCmd d.seq fun e => { e with started := true, scale := BitVec.ofNat 24 c, flags := e.flags ||| g }

/-- One element of the epilogue (R279): z, |y| as FP32 bits or none for a NaN, whether the TCQ condition holds, flags. -/
def epiElem (d : DockEntry) (k : Bank) (w : Nat) (bi : Val) : Nat × Option Nat × Bool × FpFlags :=
  let a := k.value w
  let p := a.mul (s24Value (field d.pa.toNat 0 24))
  let x := Val.sum .rne [p, bi]
  let (xb, f1) := roundFp32 x
  let f1 := f1 ||| ivFlag x [a, bi]
  let xv := Fmt.fp32.value xb
  let yb := match d.act with
    | 1 => if xv.isNan then Fmt.fp32.nanBits else if (Val.fin false 0 0).lt xv then xb else 0
    | 2 => if xv.isNan then Fmt.fp32.nanBits else fpMinMax .fp32 false (fpMinMax .fp32 true xb (epiLo d)) (epiHi d)
    | _ => xb
  let yv := Fmt.fp32.value yb
  let df := (Fmt.ofCode (d.recA.getD {}).fmt).getD .fp32
  let q := yv.mul (s24Value d.scale.toNat)
  let (z, f2) := df.round (RMode.ofBits d.o.var.val) d.seed none q
  let zv := df.value z
  let cond := match field d.pa.toNat 36 2 with
    | 0 => f2 &&& (flOF ||| flSAT) != 0
    | 1 => !zv.isZero
    | _ => zv.isNan
  (z, if yv.isNan then none else some (yb % 2 ^ 31), cond, f1 ||| f2 ||| ivFlag q [yv])

/-- The results of `m` elements from walk index `n` on, and the stop of a bias element that cannot be read. -/
def State.epiRun (s : State) (d : DockEntry) (n : Nat) : Nat → List (Nat × Option Nat × Bool × FpFlags) × Option Stop
  | 0 => ([], none)
  | m + 1 =>
    let a := d.recA.getD {}
    let c := a.coords n
    let k := vget {} s.quay.banks d.bankNo
    let bi : Reach Val := match d.recB with
      | none => .ok (.fin false 0 0)
      | some b => (s.readPlace d.reacher b (b.place [c.getD 0 0])).map b.elemVal
    match bi with
    | .error h => ([], some h)
    | .ok bi =>
      let (l, h) := s.epiRun d (n + 1) m
      (epiElem d k (sparseGet 0 k.words (96 * c.getD 1 0 + c.getD 0 0) : BitVec 32).toNat bi :: l, h)

/-- One beat of a routed tile on its way (R282). -/
def routeLanding (s : State) (d : DockEntry) (r : Route) (n : Nat) (vs : List Nat) : Landing :=
  let off := (d.recA.getD {}).start
  { beatLanding s d .routed r.quay (r.base + off) n vs with
    handler := if r.h then some r.pc.toNat else none, x3 := r.x3.setWidth 64, x4 := BitVec.ofNat 64 off }

/-- Keeps the flags, the largest |y| and the TCQ condition of results. -/
def DockEntry.tally (d : DockEntry) (l : List (Nat × Option Nat × Bool × FpFlags)) : DockEntry :=
  { d with
    flags := l.foldl (fun f r => f ||| r.2.2.2) d.flags
    tcq := d.tcq || l.any fun r => r.2.2.1
    amax := BitVec.ofNat 32 (l.foldl (fun m r => Nat.max m (r.2.1.getD 0)) d.amax.toNat) }

/-- Publishes the elements of EPI; END is published as it completes. -/
def State.epiCount (s : State) (seq n : Nat) : State :=
  match s.cmd? seq with
  | none => s
  | some d =>
    let a := d.recA.getD {}
    if n = a.count then s else s.publishWalk { d with count := n } a.gran a.count n

/-- A beat of EPI is acknowledged. -/
def State.epiAck (s : State) (seq upto : Nat) : State :=
  let s := s.landBeat seq upto
  match s.cmd? seq with
  | none => s
  | some d => (s.progress seq).epiCount seq d.settled

/-- EPI_BEAT_COMMIT: the next elements are converted and written, or sent to the receiving quay; in deterministic mode a write has
its floor (R338). -/
def epiBeat (d : DockEntry) (s : State) : State :=
  let a := d.recA.getD {}
  let n := d.count
  match (if d.route.isNone then d.flight.head? else none) with
  | some b => if s.early d.crew b.floor b.sentAt then s else s.epiAck d.seq b.upto
  | none =>
  if n ≥ a.count then s
  else match s.coveredRun (epiNeed d) n (Nat.min (a.count - n) (a.beat n)) with
    | .error f => s.cmdFault d.seq f n
    | .ok 0 => s
    | .ok m =>
      let (rs, stop) := s.epiRun d n m
      match d.route with
      | some r =>
        if rs.isEmpty then match stop with
          | some h => s.stopAt d.seq h n
          | none => s
        else if !s.linkOk r.dev then s.cmdFault d.seq .linkDown n
        else
          let s := s.sendLanding r.dev (routeLanding s d r n (rs.map Prod.fst))
          (s.updCmd d.seq fun e =>
            { (e.tally rs) with count := n + rs.length, flight := e.flight ++ [⟨n, n + rs.length, s.quay.cycle.toNat, s.routeFloor d⟩] }).progress d.seq
      | none =>
        let as := s.destAddrs d n rs.length
        let (s, k, h) := s.writeRun d n (rs.map Prod.fst)
        let s := (s.updCmd d.seq fun e => e.tally (rs.take k)).countWritten d n k as State.epiCount
        if n + k = a.count then s
        else match h, stop with
          | some h, _ => s.stopAt d.seq h (n + k)
          | none, some h => s.stopAt d.seq h (n + k)
          | none, none => s

/-- A bit of a completing EPI enters the tile condition queue of its strand's context; the mark keeps it, since the command is
not issued again. In no context it is dropped (R280). -/
def State.giveTcq (s : State) (born : Nat) (b : Bool) : State :=
  let app : Shadowed → Shadowed := fun h => { h with tcq := h.tcq ++ [b] }
  match s.strandAt born with
  | .ctx q c => s.updCtxAt q c fun x => { x with regs := app x.regs, shadow := app x.shadow, entry := app x.entry }
  | _ => s

/-- EPI completes when every element is written and acknowledged, and its TCQ bit has room (R280): END, the ring push, the
bit and the completion come together. The push lands behind those of its cycle (R72). -/
def epiFinish (d : DockEntry) (s : State) : State :=
  let a := d.recA.getD {}
  let full := match s.strandAt d.owner with
    | .ctx q c => epiPaBit d 35 && decide (((s.quayAt q).ctx c).tcqUsed ≥ 16)
    | _ => false
  if d.count ≠ a.count || !d.flight.isEmpty || full then s
  else
    let s := s.publishWalk d a.gran a.count a.count
    let s := if epiPaBit d 31 then
        s.updQuay fun q => { q with pushes := q.pushes ++ [.push a.ring d.amax q.cycle.toNat] }
      else s
    let s := if epiPaBit d 35 then s.giveTcq d.owner d.tcq else s
    s.complete d

/-! ### PJLD (R278, R291) -/

def pjldEntry (d : DockEntry) (s : State) : Except FaultCode State := do
  let (s, a) ← s.record d d.o.da.val
  if a.fmt ≠ 3 || a.rank ≠ 2 || !(a.extent 0 = 64 || a.extent 0 = 128) || a.extent 1 % 64 ≠ 0 || a.extent 1 < 64
      || a.extent 1 > 512 then throw .mmaShape
  s.plainSource a
  (s.updCmd d.seq fun e => { e with recA := some a }).joinChase d.seq a

/-- Element `n` of PJLD's walk. -/
def regionNeed (r : Layout) (n : Nat) : List (Layout × Nat × List Nat) := if r.tm = 0xFF then [] else [(r, 0, r.coords n)]

def pjldStart (d : DockEntry) (s : State) : State :=
  let s := s.updQuay fun q => { q with pjs := vput q.pjs (d.fn % 4) {} }
  s.updCmd d.seq fun e => { e with started := true }

/-- PJLD fills its register once every element of its source is covered. -/
def pjldFinish (d : DockEntry) (s : State) : State :=
  let a := d.recA.getD {}
  match s.allCovered ((List.range a.count).flatMap (regionNeed a)) with
  | .error f => s.cmdFault d.seq f 0
  | .ok false => s
  | .ok true => s.withData d (s.needAddrs d ((List.range a.count).map fun n => (a, a.coords n)) false) fun s =>
    let all : Reach (List Nat) := (List.range (a.extent 1)).foldl (fun acc r => do
      let l ← acc
      let row ← (List.range (a.extent 0)).mapM fun k => s.readPlace d.reacher a (a.place [k, r])
      pure (l ++ row)) (.ok [])
    match all with
    | .error h => s.stopAt d.seq h 0
    | .ok l =>
      let words := l.zipIdx.filterMap fun p => if p.1 = 0 then none else some (p.2, BitVec.ofNat 16 p.1)
      let p : Proj := { loaded := true, r := a.extent 1, d := a.extent 0, words := words }
      (s.updQuay fun q => { q with pjs := vput q.pjs (d.fn % 4) p }).complete d

/-! ### RTESET (R292) -/

def rtesetAct (d : DockEntry) (s : State) : Except FaultCode State := do
  let w := d.pa
  if field w.toNat 39 25 ≠ 0 then throw .reservedField
  match s.landingCheck d.slice (w &&& ~~~(BitVec.twoPow 64 38)) 0 with
  | some (f, _) => throw f
  | none =>
    let r : Route :=
      { dev := field w.toNat 0 6, quay := field w.toNat 6 9, base := field w.toNat 16 22, h := w.getLsbD 38
        pc := d.pb.setWidth 32, x3 := BitVec.ofNat 32 (field d.pb.toNat 32 32) }
    pure ((s.updQuay fun q => { q with rtes := vput q.rtes (d.fn % 8) (some r) }).complete d)

def rtesetClrAct (d : DockEntry) (s : State) : Except FaultCode State :=
  .ok ((s.updQuay fun q => { q with rtes := vput q.rtes (d.fn % 8) none }).complete d)

/-! ### BTHSET and BTHPOP (R283, R293, R294) -/

/-- The berth that BTHSET's record names. -/
def berthNamed (r : Layout) : Except FaultCode Nat :=
  match r.berth? with
  | some b => if field r.base 4 59 ≠ 0 then .error .regionShape else .ok b
  | none => .error .regionShape

def slotBytes (w : Word) : Nat := if field w.toNat 32 16 = 0 then 65536 else field w.toNat 32 16

def bthsetEntry (d : DockEntry) (s : State) : Except FaultCode State := do
  let (s, a) ← s.record d d.o.da.val
  let _ ← berthNamed a
  s.ownTm d
  if field d.pa.toNat 22 10 ≠ 0 || field d.pa.toNat 56 8 ≠ 0 || field d.pa.toNat 48 8 = 0 then throw .reservedField
  if a.lowest < 0 || a.highest > slotBytes d.pa then throw .regionShape
  pure (s.updCmd d.seq fun e => { e with recA := some a })

/-- The release of a berth (R293): its tail becomes IDLE and it is unplaced. -/
def State.berthRelease (s : State) (b t : Nat) : Except FaultCode State :=
  let x := s.berthAt b
  let m := s.tm t
  if !(x.h = x.w && x.w = x.c) then .error .berthOverrun
  else if m.fol then .error .permission
  else if m.chasers ≠ 0 || (m.pub && m.value ≠ 0) then .error .tidemarkRewind
  else .ok ((s.putTm t m.cleared).putBerth b {})

/-- BTHSET places its berth; none while its tidemark cannot be taken. -/
def bthsetAct (d : DockEntry) (s : State) : Except FaultCode (Option State) := do
  let a := d.recA.getD {}
  let b ← berthNamed a
  let x := s.berthAt b
  let s ← if x.placed then s.berthRelease b x.tail else pure s
  let t := d.o.tm.val
  let m := s.tm t
  if m.pub && m.st == .done then throw .tidemarkRewind
  if !m.takable then pure none
  else
    let s := s.putTm t (m.taken d.opc d.ctx.val d.o.da.val 0xFFFFFFFF a d.crew (.command d.seq))
    let s := s.putBerth b
      { placed := true, setBy := some (.command d.seq), tail := t, base := field d.pa.toNat 0 22, slotSize := slotBytes d.pa, slots := field d.pa.toNat 48 8
        tile := a.count, layout := a }
    pure (some ((s.compareChasers t).complete d))

/-- BTHSET.REL. Its TM must be the berth's tail (DEDUCED, log 49). -/
def bthsetRelAct (d : DockEntry) (s : State) : Except FaultCode State := do
  let (s, a) ← s.record d d.o.da.val
  let b ← berthNamed a
  let x := s.berthAt b
  if !x.placed then throw .berthOverrun
  if d.o.tm.val ≠ x.tail then throw .regionShape
  let s ← s.berthRelease b x.tail
  pure (s.complete d)

/-- BTHPOP claims its tiles as it enters the dock. -/
def bthpopEntry (d : DockEntry) (s : State) : Except FaultCode State :=
  if !(s.berthAt (d.fn % 16)).placed then .error .berthOverrun
  else
    let (n, s) := s.berthClaim (d.fn % 16) (d.fn / 16 + 1)
    .ok (s.updCmd d.seq fun e => { e with tileA := n })

/-- BTHPOP pops the tiles that the tail covers and whose earlier tiles are popped, and completes with its last; `k` are
left. -/
def bthpopRun (d : DockEntry) : Nat → State → Except FaultCode State
  | 0, s => .ok (s.complete d)
  | k + 1, s =>
    let b := d.fn % 16
    let x := s.berthAt b
    let i := d.fn / 16 - k
    let m := s.tm x.tail
    if m.st == .abandon then .error (if m.broken then .hawserBroken else .frontierAbandoned)
    else if m.value ≥ (d.tileA + i + 1) * x.tile && x.h = d.tileA + i then
      bthpopRun d k ((s.berthPop b (d.tileA + i)).updCmd d.seq fun e => { e with count := i + 1 })
    else .ok s

def bthpopAct (d : DockEntry) (s : State) : Except FaultCode State := bthpopRun d (d.fn / 16 + 1 - d.count) s

/-! ### Issue -/

def execMma (o : EOp) (s : State) : Out := issueE (.mma o) o s
def execMmas (o : EOp) (s : State) : Out := issueE (.mmas o) o s
def execAcz (o : EOp) (s : State) : Out := issueE (.acz o) o s
def execEpi (o : EOp) (s : State) : Out := issueE (.epi o) o s
def execPjld (o : EOp) (s : State) : Out := issueE (.pjld o) o s

end Sys2Proof.Machine
end

