-- ==== Sys2Proof/Machine/Table.lean ====
section
/-! DEFINITION. The table engine (R296 to R314): table registers and their builds, the lookup, watch ranges, spill and
fill, and their status. -/

namespace Sys2Proof.Machine

open Sys2Proof

/-- Table register `n` of the acting quay. -/
def State.tab (s : State) (n : Nat) : TabReg := vget {} s.quay.tabs n

def State.putTab (s : State) (n : Nat) (t : TabReg) : State := s.updQuay fun q => { q with tabs := vput q.tabs n t }

/-- The formats of an activation source (R298). -/
def activationFmt (n : Nat) : Option Fmt :=
  match Fmt.ofCode n with
  | some .i8 => some .i8 | some .i16 => some .i16 | some .bf16 => some .bf16 | some .fp16 => some .fp16
  | some .fp32 => some .fp32 | some .e4m3 => some .e4m3 | some .e5m2 => some .e5m2 | _ => none

/-! ### Builds (R297, R298, R303) -/

/-- The end of the elements a build reads, past the last. -/
def buildEnd (r : Layout) (kb : Nat) : Nat := Nat.min (r.extent 0) (kb + 256)

/-- The lowest and highest byte that a build reads. -/
def buildSpan (r : Layout) (kb : Nat) : Int × Int :=
  let a := (r.place [kb]).1
  let b := (r.place [buildEnd r kb - 1]).1
  if a ≤ b then (a, b + (r.elemBytes : Int) - 1) else (b, a + (r.elemBytes : Int) - 1)

/-- Whether a memory source lies in one page of its mapping; an unmapped one is not checked yet. -/
def State.onePage (s : State) (slice : Nat) (r : Layout) (kb : Nat) : Bool :=
  if r.sp then true
  else
    let (lo, hi) := buildSpan r kb
    match s.translate slice (lo % 2 ^ 64).toNat with
    | none => true
    | some m => (m.va : Int) ≤ lo && hi < ((m.va + pageBytes m.size : Nat) : Int)

def tbldEntry (d : DockEntry) (s : State) : Except FaultCode State := do
  if d.pa.toNat % 4 ≠ 0 || field d.pa.toNat 32 32 ≠ 0 then throw .reservedField
  let (s, r) ← s.record d d.o.da.val
  let kb := field d.pa.toNat 0 32
  if r.rank ≠ 1 || (activationFmt r.fmt).isNone || r.scale ≠ 0xFFFF || kb ≥ r.extent 0 then throw .regionShape
  s.plainSource r
  if !s.onePage d.slice r kb then throw .regionShape
  let raw := s.recordRaw d d.o.da.val
  (s.updCmd d.seq fun e => { e with recA := some r, rawA := raw }).joinChase d.seq r

/-- The watch range of a build, its memory lines translated now. -/
def State.watchRange (s : State) (d : DockEntry) (r : Layout) (kb : Nat) : Reach WatchRange :=
  let (lo, hi) := buildSpan r kb
  if r.sp then .ok (.rows ((d.spBase + lo.toNat) / 2 ^ 11) ((d.spBase + hi.toNat) / 2 ^ 11))
  else match s.reach d.reacher false false lo 1 1 false, s.reach d.reacher false false hi 1 1 false with
    | .ok (.phys a :: _), .ok (.phys b :: _) => .ok (.lines (s.normPhys a / 64) (s.normPhys b / 64))
    | .error h, _ => .error h
    | _, .error h => .error h
    | _, _ => .error (.fault .permission)

/-- A build starts: the comparator is armed with its range, GEN rises, and nothing has touched the range yet. -/
def State.beginBuild (s : State) (d : DockEntry) (n : Nat) (r : Layout) (kb : Nat) : Reach State :=
  if !s.onePage d.slice r kb then .error (.fault .regionShape)
  else match s.watchRange d r kb with
    | .error h => .error h
    | .ok g => .ok (s.putTab n { s.tab n with gen := nextGen (s.tab n).gen, armed := true, range := g, valid := false, dirty := false })

/-- The entries of a group of four activations (R297). -/
def groupEntries (four : List Val) : List (Nat × FpFlags) :=
  (List.range 16).map fun c =>
    let terms := (four.zipIdx.filter fun p => c.testBit p.2).map Prod.fst
    let x := Val.sum .rne terms
    let (b, f) := roundFp32 x
    (b, f ||| ivFlag x terms)

/-- Cuts a list of 4 n values into n groups. -/
def fours : Nat → List Val → List (List Val)
  | 0, _ => []
  | n + 1, l => l.take 4 :: fours n (l.drop 4)

/-- The bits of elements that a build reads; none while one is not covered. What stops it comes with the element's walk index
(R237). -/
def State.buildElems (s : State) (d : DockEntry) (r : Layout) : List Nat → Except (Stop × Nat) (Option (List Nat))
  | [] => .ok (some [])
  | x :: t =>
    match s.covered r 0 [x] with
    | .error f => .error (.fault f, r.walkIndex [x])
    | .ok false => .ok none
    | .ok true => match s.readPlace d.reacher r (r.place [x]) with
      | .error h => .error (h, r.walkIndex [x])
      | .ok b => (s.buildElems d r t).map fun l => l.map fun l => b :: l

/-- What a build of a register gives: its entries and flags; none while an element is not covered. -/
def State.buildRead (s : State) (d : DockEntry) (r : Layout) (kb : Nat) : Except (Stop × Nat) (Option (List (Nat × FpFlags))) :=
  (s.buildElems d r ((List.range (buildEnd r kb - kb)).map fun i => kb + i)).map fun bits => bits.map fun bits =>
    let vs := bits.map r.elemVal ++ List.replicate (256 - bits.length) (Val.fin false 0 0)
    (fours 64 vs).flatMap groupEntries

/-- A build ends: the entries, the record copy, KB and GROUPS; VALID unless a watched write touched the range. -/
def State.endBuild (s : State) (d : DockEntry) (n : Nat) (r : Layout) (raw : BitVec 512) (src kb : Nat)
    (es : List (Nat × FpFlags)) : State :=
  let t := s.tab n
  let s := s.putTab n
    { t with filled := true, valid := !t.dirty, dirty := false, src := src, kb := kb, raw := raw
             groups := Nat.min 64 ((r.extent 0 - kb + 3) / 4), entries := sparseWords (es.map Prod.fst) }
  s.updCmd d.seq fun e => { e with flags := es.foldl (fun f p => f ||| p.2) e.flags }

/-- The register that TBLD, TSPL, TFIL and TINV name. -/
def DockEntry.tabNo (d : DockEntry) : Nat := d.fn % 32

/-- The first activation that TBLD needs. -/
def tbldFirst (d : DockEntry) : List (Layout × Nat × List Nat) :=
  let r := d.recA.getD {}
  if r.tm = 0xFF then [] else [(r, 0, [field d.pa.toNat 0 32])]

/-- TBLD starts its build, or stops at its source; one that goes on after a halt goes on with the build that it began (R237). -/
def tbldStart (d : DockEntry) (s : State) : Reach State :=
  if d.started then .ok s else s.beginBuild d d.tabNo (d.recA.getD {}) (field d.pa.toNat 0 32)

/-- A build takes effect: its source's data has arrived (R338). -/
def State.buildWith (s : State) (d : DockEntry) (r : Layout) (kb : Nat) (f : State → State) : State :=
  s.withData d (s.needAddrs d ((List.range (buildEnd r kb - kb)).map fun i => (r, [kb + i])) false) f

def tbldFinish (d : DockEntry) (s : State) : State :=
  let kb := field d.pa.toNat 0 32
  let r := d.recA.getD {}
  match s.buildRead d r kb with
  | .error (h, w) => s.stopAt d.seq h w
  | .ok none => s
  | .ok (some es) => s.buildWith d r kb fun s =>
    let s := s.endBuild d d.tabNo r d.rawA d.o.da.val kb es
    match s.cmd? d.seq with
    | some d => s.complete d
    | none => s

/-! ### TLK (R299 to R302, R311) -/

def tlkEntry (d : DockEntry) (s : State) : Except FaultCode State := do
  let pa := d.pa.toNat
  let T := tlkTok d.pa
  if field pa 28 4 ≠ 0 || field pa 12 2 ≠ 0 || tlkKb0 d.pa % 4 ≠ 0 || tlkTab d.pa + T * tlkSpan d.pa > 32
      || d.tlkBank + T - 1 > 15 then throw .reservedField
  let (s, r) ← s.record d d.o.da.val
  if 256 ≤ r.scale && r.scale < 0xFFFF then throw .reservedField
  let o := r.extent 1
  if r.fmt ≠ 9 || !r.sp || r.berth?.isSome || r.rank ≠ 2 || o > 12288 || tlkW0 d.pa + o > 12288 then throw .regionShape
  if r.extent 0 / 4 > 64 * tlkSpan d.pa then throw .tableIndex
  if r.scale = 0xFFFF then
    (s.updCmd d.seq fun e => { e with recA := some r }).joinChase d.seq r
  else
    let (s, q) ← s.record d r.scale
    if q.fmt ≠ 10 || !q.sp || q.berth?.isSome || q.rank ≠ 2 || q.extent 0 ≠ r.extent 0 / 32 || q.extent 1 ≠ o then
      throw .regionShape
    s.joinable r
    s.joinable q
    let s ← (s.updCmd d.seq fun e => { e with recA := some r, sclA := some q }).joinChase d.seq r
    s.joinChase d.seq q

/-- The table registers of a TLK with their span indices. -/
def tlkRegs (d : DockEntry) : List (Nat × Nat) :=
  (List.range (tlkTok d.pa * tlkSpan d.pa)).map fun i => (tlkTab d.pa + i, i % tlkSpan d.pa)

/-- The outcome of R301's checks: the registers to rebuild, or the first failure. -/
inductive TlkCheck where
  | rebuild (l : List Nat)
  | fault (c : FaultCode)
  | stale (n : Nat)
  deriving DecidableEq, Repr

def State.tlkCheck (s : State) (d : DockEntry) : List (Nat × Nat) → TlkCheck
  | [] => .rebuild []
  | (n, k) :: t =>
    let r := s.tab n
    if !r.filled then .fault .tableEmpty
    else if r.kb ≠ tlkKb0 d.pa + 256 * k then .fault .tableIndex
    else if !r.valid && !d.fn.testBit 1 then .stale n
    else match s.tlkCheck d t with
      | .rebuild l => .rebuild (if r.valid then l else n :: l)
      | o => o

/-- TLK starts (R300, R301). A stale register without AUTO takes it out of the dock (R302). A fault of its start has no element:
the index it reports is 0 (DESIGN CHOICE, log 130). -/
def tlkStart (d : DockEntry) (s : State) : State :=
  let run := fun (s : State) (l : List Nat) =>
    s.updCmd d.seq fun e => { e with phase := .running, started := true, words := l }
  if d.started then run s d.words
  else
    let s := s.landBanks d
    if (List.range (tlkTok d.pa)).any fun i => (vget {} s.quay.banks (d.tlkBank + i)).int32 then s.cmdFault d.seq .regionShape 0
    else match s.tlkCheck d (tlkRegs d) with
      | .fault c => s.cmdFault d.seq c 0
      | .stale n => (s.cmdFault d.seq .tableStale n).retireCmd d
      | .rebuild l => run s l

/-- A rebuild from a register's record copy: it begins once the build unit is free, and ends once every element is
covered. `group` is 0 before it has begun, 1 while it holds the build unit, and 2 when it has stopped and needs the unit again: it
then goes on with the build that it began (R237, R303). -/
def tlkRebuild (d : DockEntry) (n : Nat) (rest : List Nat) (s : State) : State :=
  let t := s.tab n
  let r := Layout.ofBits t.raw
  if d.group = 0 then
    if !s.unitFree .build then s
    else match s.beginBuild d n r t.kb with
      | .error h => s.stopAt d.seq h (r.walkIndex [t.kb])
      | .ok s => (s.updCmd d.seq fun e => { e with group := 1 }).chase d.seq r.tm
  else if d.group = 2 then
    if s.unitFree .build then s.updCmd d.seq fun e => { e with group := 1 } else s
  else match s.buildRead d r t.kb with
    | .error (h, w) => (s.updCmd d.seq fun e => { e with group := 2 }).stopAt d.seq h w
    | .ok none => s
    | .ok (some es) => s.buildWith d r t.kb fun s =>
      let s := s.endBuild d n r t.raw t.src t.kb es
      (s.updCmd d.seq fun e => { e with words := rest, group := 0 }).progress d.seq

/-- What output `o` needs covered: its weight vector and its scales (R300). -/
def tlkNeed (d : DockEntry) (o : Nat) : List (Layout × Nat × List Nat) :=
  let r := d.recA.getD {}
  (if r.tm = 0xFF then [] else (List.range (r.extent 0)).map fun k => (r, 0, [k, o]))
    ++ match d.sclA with
      | some q => if q.tm = 0xFF then [] else (List.range (q.extent 0)).map fun b => (q, 0, [b, o])
      | none => []

/-- Entry c of group j for token τ. -/
def State.tabEntry (s : State) (d : DockEntry) (tok j c : Nat) : Nat :=
  (sparseGet 0 (s.tab (tlkTab d.pa + tok * tlkSpan d.pa + j / 64)).entries (16 * (j % 64) + c) : BitVec 32).toNat

/-- One exact sum of a lookup, rounded once and added to the word (R299). -/
def tlkAdd (es : List Nat) (sc : List Val) (w : Val) (acc : Nat) : Nat × FpFlags :=
  let vs := es.map Fmt.fp32.value
  let x := Val.sum .rne (List.zipWith (fun v c => (v.mul c).mul w) vs sc)
  let (r, f) := roundFp32 x
  let (a, g) := addFp32 acc r
  (a, f ||| ivFlag x vs ||| g)

/-- The lookups of one output for one token: planes ascending, then the half-LSB correction. -/
def tlkOutput (d : DockEntry) (entry : Nat → Nat → Nat) (codes : List Nat) (sc : List Val) (acc : Nat) : Nat × FpFlags :=
  let r := d.recA.getD {}
  let P := r.pstore
  let groups := List.range (codes.length / 4)
  let bits := fun (k j : Nat) =>
    (List.range 4).foldl (fun c i => c + (if (codes.getD (4 * j + i) 0).testBit (P - 1 - k) then 2 ^ i else 0)) 0
  let plane := fun (st : Nat × FpFlags) (k : Nat) =>
    let (a, f) := tlkAdd (groups.map fun j => entry j (bits k j)) sc (.fin (k == 0) 1 ((P : Int) - 1 - k)) st.1
    (a, st.2 ||| f)
  let st := (List.range r.pread).foldl plane (acc, 0)
  if d.fn.testBit 0 && r.pread < P then
    let (a, f) := tlkAdd (groups.map fun j => entry j 15) sc (.fin false 1 ((P : Int) - r.pread - 1)) st.1
    (a, st.2 ||| f)
  else st

/-- The weight bits and scales of output `o`. -/
def State.tlkRead (s : State) (d : DockEntry) (o : Nat) : Reach (List Nat × List Val) := do
  let r := d.recA.getD {}
  let codes ← (List.range (r.extent 0)).mapM fun k => s.readPlace d.reacher r (r.place [k, o])
  let sc ← match d.sclA with
    | none => pure (List.replicate (r.extent 0 / 4) (Val.fin false 1 0))
    | some q => do
      let l ← (List.range (r.extent 0 / 4)).mapM fun j => s.readPlace d.reacher q (q.place [4 * j / 32, o])
      pure (l.map s24Value)
  pure (codes, sc)

/-- Output `o` of a token is written to its bank. -/
def State.tlkWrite (s : State) (d : DockEntry) (tok o : Nat) (codes : List Nat) (sc : List Val) : State :=
  let b := d.tlkBank + tok
  let k := vget {} s.quay.banks b
  let w := tlkW0 d.pa + o
  let acc := if d.fn.testBit 2 then 0 else (sparseGet 0 k.words w : BitVec 32).toNat
  let (a, f) := tlkOutput d (s.tabEntry d tok) codes sc acc
  let s := s.updQuay fun q => { q with banks := vput q.banks b (k.write [(w, BitVec.ofNat 32 a)]) }
  s.updCmd d.seq fun e => { e with flags := e.flags ||| f }

/-- The outputs of one token. -/
def DockEntry.tlkOutputs (d : DockEntry) : Nat := (d.recA.getD {}).extent 1

/-- TLK goes on: its next rebuild, else its next output once covered, in ascending order of token, then output (R308); it
completes with its last. Stopped at its weights or scales it reports the number of the output, τ·O + o (DESIGN CHOICE, log
130). -/
def tlkRun (d : DockEntry) (s : State) : State :=
  let n := d.count
  let o := n % d.tlkOutputs
  match d.words with
  | n :: rest => tlkRebuild d n rest s
  | [] => match s.allCovered (tlkNeed d o) with
    | .error f => s.cmdFault d.seq f n
    | .ok false => s
    | .ok true => match s.tlkRead d o with
      | .error h => s.stopAt d.seq h n
      | .ok (codes, sc) =>
        let s := ((s.tlkWrite d (n / d.tlkOutputs) o codes sc).updCmd d.seq fun e => { e with count := n + 1 }).progress d.seq
        match s.cmd? d.seq with
        | some d => if d.count ≥ tlkTok d.pa * d.tlkOutputs then s.complete d else s
        | none => s

/-! ### Status, spill and fill (R305, R306, R312, R314) -/

/-- The status words of a register (R314). -/
def TabReg.status (t : TabReg) (claimed : Bool) : Nat :=
  t.filled.toNat + 2 * t.valid.toNat + 4 * t.armed.toNat + 8 * claimed.toNat + 16 * (field t.raw.toNat 64 4)
    + 2 ^ 8 * (t.src % 256) + 2 ^ 16 * (t.groups % 256) + 2 ^ 32 * t.gen.toNat + 2 ^ 64 * (t.kb % 2 ^ 32)

/-- Whether a command holds a register's claim. -/
def State.tabClaimed (s : State) (n : Nat) : Bool :=
  s.quay.dock.any fun d => d.rank != 0 && d.claims.contains (.tab n)

/-- The 16 bytes of a watch range in an image (R305). -/
def WatchRange.bytes (r : WatchRange) : List Byte :=
  match r with
  | .none => List.replicate 16 0
  | .rows a b => leBytes 2 a ++ leBytes 2 b ++ List.replicate 12 0
  | .lines a b => leBytes 8 (a * 64) ++ leBytes 8 (b * 64)

/-- The image of a register (R305). -/
def TabReg.image (t : TabReg) (claimed : Bool) : List Byte :=
  leBytes 64 t.raw.toNat ++ leBytes 16 (t.status claimed) ++ t.range.bytes ++ List.replicate 32 0
    ++ (if t.filled then (denseWords 0 1024 t.entries).flatMap (leBytes 4) else List.replicate 4096 0)

/-- The checks of an image offset (R312). -/
def imageOff (pa : Word) : Except FaultCode Unit :=
  if field pa.toNat 22 42 ≠ 0 then .error .reservedField
  else if pa.toNat % 64 ≠ 0 then .error .misaligned
  else if field pa.toNat 0 22 + 4224 > 0x300000 then .error .scratchRange
  else .ok ()

def tsplEntry (d : DockEntry) (s : State) : Except FaultCode State := do
  imageOff d.pa
  pure s

/-- A write of bytes through the linear view at e[PA], then completion; or the fault. -/
def State.writeOut (s : State) (d : DockEntry) (align : Nat) (bs : List Byte) : Except FaultCode State :=
  match s.writeAt d.reacher true false (field d.pa.toNat 0 22 : Nat) align bs with
  | .ok s => .ok (s.complete d)
  | .error (.fault f) => .error f
  | .error _ => .ok s

def tsplAct (d : DockEntry) (s : State) : Except FaultCode State :=
  s.writeOut d 64 ((s.tab d.tabNo).image (s.tabClaimed d.tabNo))

/-- The watch range of an image: rows or lines by the record copy's SP bit. -/
def imageRange (img : Nat) : WatchRange :=
  let r := field img (8 * 0x50) 128
  if r = 0 && field img (8 * 0x40) 1 = 0 then .none
  else if (Layout.ofBits (BitVec.ofNat 512 img)).sp then .rows (field r 0 16) (field r 16 16)
  else .lines (field r 6 46) (field r 70 46)

/-- Whether the reserved parts of an image are zero and its format one of R298. -/
def imageOk (img : Nat) : Bool :=
  let st := field img (8 * 0x40) 128
  let r := field img (8 * 0x50) 128
  let sp := (Layout.ofBits (BitVec.ofNat 512 img)).sp
  field img (8 * 0x60) 256 == 0 && field st 24 8 == 0 && field st 96 32 == 0 && (activationFmt (field st 4 4)).isSome
    && (if sp then field r 32 96 == 0 else field r 0 6 == 0 && field r 52 12 == 0 && field r 64 6 == 0 && field r 116 12 == 0)

/-- TFIL (R306). -/
def tfilAct (d : DockEntry) (s : State) : Except FaultCode State :=
  match s.readAt d.reacher true false (field d.pa.toNat 0 22 : Nat) 4224 64 with
  | .error (.fault f) => .error f
  | .error _ => .ok s
  | .ok img =>
    if !imageOk img then .error .reservedField
    else
      let t := s.tab d.tabNo
      let st := field img (8 * 0x40) 128
      let g := imageRange img
      let filled := st.testBit 0
      let carry := filled && st.testBit 1 && t.armed && t.range == g && t.gen == BitVec.ofNat 32 (field st 32 32)
      let es := (List.range 1024).map fun i => field img (8 * 0x80 + 32 * i) 32
      .ok ((s.putTab d.tabNo
        { filled := filled, valid := carry, armed := filled, gen := if carry then t.gen else nextGen t.gen
          src := field st 8 8, kb := field st 64 32, groups := field st 16 8, raw := BitVec.ofNat 512 img, range := g
          entries := sparseWords es }).complete d)

/-- TINV (R313). -/
def TabReg.invalidated (t : TabReg) (drop : Bool) : TabReg :=
  let t := { t with valid := false, gen := if t.armed then nextGen t.gen else t.gen }
  if drop then { t with filled := false, armed := false, range := .none, entries := [], groups := 0 } else t

def tinvEntry (d : DockEntry) (s : State) : Except FaultCode State :=
  if d.fn.testBit 5 && d.tabNo ≠ 0 then .error .reservedField else .ok s

def tinvAct (d : DockEntry) (s : State) : State :=
  let drop := d.fn.testBit 6
  let s := if d.fn.testBit 5 then s.updQuay fun q => { q with tabs := q.tabs.map fun t => t.invalidated drop }
    else s.putTab d.tabNo ((s.tab d.tabNo).invalidated drop)
  s.complete d

/-- TSTAT (R314): performs at issue. -/
def tstatAct (d : DockEntry) (s : State) : Except FaultCode State := do
  if field d.pa.toNat 22 42 ≠ 0 then throw .reservedField
  if d.pa.toNat % 64 ≠ 0 then throw .misaligned
  s.writeOut d 64 ((List.range 32).flatMap fun n => leBytes 16 ((s.tab n).status (s.tabClaimed n)))

/-! ### Issue -/

def execTbld (o : EOp) (s : State) : Out := issueE (.tbld o) o s
def execTlk (o : EOp) (s : State) : Out := issueE (.tlk o) o s
def execTspl (o : EOp) (s : State) : Out := issueE (.tspl o) o s
def execTfil (o : EOp) (s : State) : Out := issueE (.tfil o) o s
def execTinv (o : EOp) (s : State) : Out := issueE (.tinv o) o s

end Sys2Proof.Machine
end

