-- ==== Sys2Proof/Machine/KvPage.lean ====
section
/-! DEFINITION. The KV page engine (R353 to R377): pools, page headers, sequence descriptors, the prefix table, and the
indivisible step of each command at its home engine. -/

namespace Sys2Proof.Machine

open Sys2Proof

/-! ### Pools and page headers (R353 to R355) -/

/-- A step of an engine, or what stops it with the index that the fault registers give (R375). -/
abbrev Kv (α : Type) := Except (Stop × Nat) α

/-- A fault with an index. -/
def kvFault {α : Type} (c : FaultCode) (i : Nat) : Kv α := .error (.fault c, i)

/-- An access that stops, at an index. -/
def kvAt {α : Type} (i : Nat) (r : Reach α) : Kv α :=
  match r with
  | .ok a => .ok a
  | .error h => .error (h, i)

/-- An access to the pool's data or headers: one that fails gives PERMISSION (R353). -/
def kvPool {α : Type} (r : Reach α) : Kv α :=
  match r with
  | .ok a => .ok a
  | .error .wait => .error (.wait, noIndex)
  | .error _ => .error (.fault .permission, noIndex)

/-- The number of a pool among all: pool `p` of slice `s`. -/
def poolNo (s p : Nat) : Nat := 4 * s + p

def State.pool (s : State) (p : Nat) : Pool := vget {} s.pools p

/-- Whether EN of a pool reads 1. -/
def Pool.enabled (x : Pool) : Bool := x.en || x.threading

def State.putPool (s : State) (p : Nat) (x : Pool) : State := { s with pools := vput s.pools p x }

def Pool.pgb (x : Pool) : Nat := 64 * x.tokb

/-- The context of the engine's accesses to a pool. -/
def poolReacher (p : Nat) : Reacher := ⟨p / 4, 0, 0⟩

/-- A page header (R354). -/
structure PageHdr where
  valid : BitVec 64 := 0
  ref : Nat := 0
  pin : Nat := 0
  fill : Nat := 0
  free : Bool := false
  gen : BitVec 32 := 0
  next : Nat := 0
  deriving DecidableEq, Repr

/-- The 32 bytes of a header. -/
def PageHdr.bytes (h : PageHdr) : List Byte :=
  leBytes 8 h.valid.toNat ++ leBytes 2 (h.ref % 4096) ++ leBytes 1 h.pin ++ leBytes 1 (h.fill % 128 + 128 * h.free.toNat)
    ++ leBytes 4 h.gen.toNat ++ leBytes 4 h.next ++ leBytes 12 0

def PageHdr.ofNum (n : Nat) : PageHdr :=
  { valid := BitVec.ofNat 64 n, ref := field n 64 12, pin := field n 80 8, fill := field n 88 7, free := n.testBit 95
    gen := BitVec.ofNat 32 (field n 96 32), next := field n 128 32 }

/-- Physical locations of a range in pool memory, 64 bytes at a time. -/
def State.poolLocs (s : State) (p : Nat) (wr : Bool) (va n : Nat) : Kv (List Loc) :=
  (List.range ((n + 63) / 64)).foldl (fun acc i => match acc with
    | .error h => .error h
    | .ok ls => match kvPool (s.reach (poolReacher p) false false ((va + 64 * i : Nat) : Int) (Nat.min 64 (n - 64 * i)) 1 wr) with
      | .ok l => .ok (ls ++ l)
      | .error h => .error h) (.ok [])

/-- Writes bytes to memory as the engine: no comparator of a quay watches it (R304). -/
def State.pokeLocs (s : State) (ls : List Loc) (bs : List Byte) : State :=
  let ps := s.physCells (ls.zip bs)
  { s with mem := sparseSetAll memDefault s.mem ps, l2 := dropCopies (ps.map Prod.fst) s.l2 }

/-- The header of page `n`. -/
def State.hdr (s : State) (p n : Nat) : Kv PageHdr := do
  let ls ← s.poolLocs p false ((s.pool p).hdr.toNat + 32 * n) 32
  pure (.ofNum (ofLeBytes (ls.map s.readLoc)))

def State.putHdr (s : State) (p n : Nat) (h : PageHdr) : Kv State := do
  let ls ← s.poolLocs p true ((s.pool p).hdr.toNat + 32 * n) 32
  pure (s.pokeLocs ls h.bytes)

/-- Copies slot `a` of page `n` to slot `b` of page `m`. -/
def State.copySlot (s : State) (p n a m b : Nat) : Kv State := do
  let x := s.pool p
  let src ← s.poolLocs p false (x.data.toNat + n * x.pgb + a * x.tokb) x.tokb
  let dst ← s.poolLocs p true (x.data.toNat + m * x.pgb + b * x.tokb) x.tokb
  pure (s.pokeLocs dst (src.map s.readLoc))

/-- Copies a list of slots, in order. -/
def State.copySlots (s : State) (p n m : Nat) : List (Nat × Nat) → Kv State
  | [] => .ok s
  | (a, b) :: t => match s.copySlot p n a m b with
    | .ok s => s.copySlots p n m t
    | .error h => .error h

/-- The end of the free list. -/
def noPage : Nat := 0xFFFFFFFF

/-- Frees a page (R355). -/
def State.freePage (s : State) (p n : Nat) : Kv State := do
  let x := s.pool p
  let h ← s.hdr p n
  let s ← s.putHdr p n { ref := 0, free := true, gen := h.gen + 1, next := x.freehead.toNat }
  pure (s.putPool p { x with freehead := BitVec.ofNat 32 n, freecnt := x.freecnt + 1 })

/-- Takes the page at the head of the free list (R355); none when it is empty. -/
def State.allocPage (s : State) (p : Nat) : Kv (Option (Nat × State)) :=
  let x := s.pool p
  if x.freehead.toNat = noPage || x.freecnt = 0 then .ok none
  else do
    let n := x.freehead.toNat
    let h ← s.hdr p n
    let s ← s.putHdr p n { ref := 1, gen := h.gen }
    pure (some (n, s.putPool p { x with freehead := BitVec.ofNat 32 h.next, freecnt := x.freecnt - 1 }))

/-- A reference count that is never changed again. -/
def refFull : Nat := 4095

/-- Takes a reference on a page (R355). -/
def State.takeRef (s : State) (p n : Nat) : Kv State := do
  let h ← s.hdr p n
  if h.ref ≥ refFull then pure s else s.putHdr p n { h with ref := h.ref + 1 }

/-- Releases a reference on a page, and frees it when it was the last and no pin stands (R355). -/
def State.dropRef (s : State) (p n : Nat) : Kv State := do
  let h ← s.hdr p n
  if h.ref ≥ refFull || h.ref = 0 then pure s
  else
    let s ← s.putHdr p n { h with ref := h.ref - 1 }
    if h.ref = 1 && h.pin = 0 then s.freePage p n else pure s

/-! ### Sequence descriptors (R356) -/

/-- A sequence descriptor with the pages of its table. -/
structure SeqDesc where
  bt : Nat
  cap : Nat
  npg : Nat
  nslot : Nat
  pool : Nat
  hz : Nat
  match_ : Nat
  got : Nat
  deriving DecidableEq, Repr

def SeqDesc.ofNum (n : Nat) : SeqDesc :=
  { bt := field n 0 32, cap := field n 32 16, npg := field n 48 16, nslot := field n 64 32, pool := field n 96 2
    hz := field n 104 8, match_ := field n 112 16, got := field n 128 32 }

def SeqDesc.bytes (q : SeqDesc) : List Byte :=
  leBytes 4 q.bt ++ leBytes 2 q.cap ++ leBytes 2 q.npg ++ leBytes 4 q.nslot ++ leBytes 1 q.pool ++ leBytes 1 q.hz
    ++ leBytes 2 q.match_ ++ leBytes 4 q.got ++ leBytes 44 0

/-- The checks of a descriptor's content (R364). -/
def descCheck (n : Nat) : Except FaultCode Unit :=
  let q := SeqDesc.ofNum n
  if field n 98 6 ≠ 0 || field n 160 352 ≠ 0 || q.cap = 0 || q.cap > 4096 || q.bt % 4 ≠ 0 || q.npg > q.cap || q.hz ≥ 64 then
    .error .reservedField
  else .ok ()

/-- The checks of a descriptor's offset, and the descriptor. -/
def State.descAt (s : State) (d : DockEntry) : Except FaultCode SeqDesc :=
  if field d.pa.toNat 22 42 ≠ 0 then .error .reservedField
  else match s.readAt d.reacher true false (field d.pa.toNat 0 22 : Nat) 64 64 with
    | .error (.fault f) => .error f
    | .error _ => .error .scratchRange
    | .ok n => (descCheck n).map fun _ => .ofNum n

/-- The pool number of a descriptor's pool. -/
def DockEntry.poolOf (d : DockEntry) (q : SeqDesc) : Nat := poolNo d.slice q.pool

/-- Block-table entry `k` as it stands in scratchpad. -/
def State.tableWord (s : State) (d : DockEntry) (q : SeqDesc) (k : Nat) : Kv Nat :=
  kvAt k (s.readAt d.reacher true false ((q.bt + 4 * k : Nat) : Int) 4 4)

/-- The block table of a descriptor: its first NPG entries from `k` on. -/
def State.tableWords (s : State) (d : DockEntry) (q : SeqDesc) (k : Nat) : Nat → Kv (List Nat)
  | 0 => .ok []
  | n + 1 => do
    let e ← s.tableWord d q k
    let t ← s.tableWords d q (k + 1) n
    pure (e :: t)

/-- The page of block-table entry `k`, as the command keeps the table from its start (R356, R364). -/
def State.tablePage (s : State) (d : DockEntry) (q : SeqDesc) (k : Nat) : Kv Nat := do
  let p := d.poolOf q
  let x := s.pool p
  let e := d.words.getD (k + 1) 0
  if e ≥ 2 ^ 31 || e % x.pgb ≠ 0 || e / x.pgb ≥ x.npages then kvFault .pageState k
  else
    let h ← s.hdr p (e / x.pgb)
    if h.free then kvFault .pageState k else pure (e / x.pgb)

/-- The pages of table entries from `k` on. -/
def State.tablePages (s : State) (d : DockEntry) (q : SeqDesc) (k : Nat) : Nat → Kv (List Nat)
  | 0 => .ok []
  | n + 1 => do
    let p ← s.tablePage d q k
    let t ← s.tablePages d q (k + 1) n
    pure (p :: t)

/-- Writes block-table entry `k`. -/
def State.putEntry (s : State) (d : DockEntry) (q : SeqDesc) (k n : Nat) : Kv State :=
  kvAt k (s.writeAt d.reacher true false ((q.bt + 4 * k : Nat) : Int) 4 (leBytes 4 (n * (s.pool (d.poolOf q)).pgb)))

/-- The command with another page at entry `k` of the table that it keeps. -/
def DockEntry.withEntry (d : DockEntry) (k e : Nat) : DockEntry :=
  { d with words := d.words.take (k + 1) ++ e :: d.words.drop (k + 2) }

/-- Writes the descriptor back. -/
def State.putDesc (s : State) (d : DockEntry) (q : SeqDesc) : Kv State :=
  kvAt noIndex (s.writeAt d.reacher true false (field d.pa.toNat 0 22 : Nat) 64 q.bytes)

/-- Whether table entry `k` is a shared last page (R356, R363). -/
def SeqDesc.sharedLast (q : SeqDesc) (k : Nat) : Bool := q.hz != 0 && k + 1 == q.npg

/-! ### The chain hash and the prefix table (R360 to R362) -/

/-- Fold of R360. -/
def foldBlock (tokens : List Nat) : Word :=
  tokens.zipIdx.foldl (fun f p => f + BitVec.ofNat 64 (p.1 * (2 * p.2 + 1))) 0

/-- Mix64 of R360. -/
def mix64 (x : Word) : Word :=
  let x := x ^^^ (x >>> 32)
  let x := x * 0xD6E8FEB86659FD93#64
  let x := x ^^^ (x >>> 29)
  let x := x * 0xA5CB3C9D1B8E2F57#64
  x ^^^ (x >>> 32)

/-- h[i] from h[i − 1] and block i. -/
def chainHash (prev : Word) (tokens : List Nat) : Word := mix64 (prev ^^^ foldBlock tokens)

/-- The prefix table of a pool's home basin. -/
def State.pfxOf (s : State) (p : Nat) : PfxTable := vget {} s.pfx (s.pool p).home

def State.putPfx (s : State) (p : Nat) (t : PfxTable) : State := { s with pfx := vput s.pfx (s.pool p).home t }

/-- Whether an entry matches a hash in a pool (R361). -/
def PfxEntry.is (e : PfxEntry) (hash : Word) (p : Nat) : Bool := e.hash == hash && poolNo e.slice e.pool == p

/-- An entry leaves its table. -/
def State.dropPfx (s : State) (p : Nat) (e : PfxEntry) : State :=
  s.putPfx p { s.pfxOf p with entries := (s.pfxOf p).entries.filter fun x => x != e }

/-- Lookup of a hash: an entry of a page that is gone is dropped (R362). -/
def State.pfxLookup (s : State) (p : Nat) (hash : Word) : Kv (Option PfxEntry × State) :=
  match (s.pfxOf p).entries.find? fun e => e.is hash p with
  | none => .ok (none, s)
  | some e => do
    let h ← s.hdr p e.page
    if h.free || h.gen.toNat % 2 ^ 16 ≠ e.gen then pure (none, s.dropPfx p e) else pure (some e, s)

/-- The set of a hash. -/
def pfxSet (hash : Word) : Nat := hash.toNat % 512

/-- Makes room in a full set: the victim of its round-robin pointer leaves, its reference is released (R362); one whose
page is gone held none. -/
def State.pfxEvict (s : State) (set : Nat) (p : Nat) : Kv (Nat × State) :=
  let t := s.pfxOf p
  let used := (t.entries.filter fun e => pfxSet e.hash == set).map PfxEntry.way
  match (List.range 8).find? fun w => !used.contains w with
  | some w => .ok (w, s)
  | none =>
    let w := sparseGet 0 t.victim set
    let s := s.putPfx p { t with victim := sparsePut t.victim set ((w + 1) % 8) }
    match t.entries.find? fun e => pfxSet e.hash == set && e.way == w with
    | none => .ok (w, s)
    | some e => do
      let s := s.dropPfx p e
      let vp := poolNo e.slice e.pool
      let h ← s.hdr vp e.page
      if h.free || h.gen.toNat % 2 ^ 16 ≠ e.gen then pure (w, s)
      else
        let s ← s.dropRef vp e.page
        pure (w, s)

/-- Inserts one block (R362). -/
def State.pfxInsert (s : State) (p : Nat) (hash : Word) (page i : Nat) : Kv State := do
  let (old, s) ← s.pfxLookup p hash
  if old.isSome then pure s
  else
    let (w, s) ← s.pfxEvict (pfxSet hash) p
    let h ← s.hdr p page
    let e : PfxEntry :=
      { hash := hash, page := page, block := i % 4, depth := i, gen := h.gen.toNat % 2 ^ 16, pool := p % 4, slice := p / 4, way := w }
    let s := s.putPfx p { s.pfxOf p with entries := (s.pfxOf p).entries ++ [e] }
    s.takeRef p page

/-- Hash i of a hash record (R365). -/
def State.hashAt (s : State) (d : DockEntry) (i : Nat) : Kv Word := do
  let r := d.recB.getD {}
  let lo ← kvAt i (s.readPlace d.reacher r (r.place [0, i]))
  let hi ← kvAt i (s.readPlace d.reacher r (r.place [1, i]))
  pure (BitVec.ofNat 64 (lo + hi * 2 ^ 32))

/-! ### Dock entry (R364 to R373) -/

/-- The form of a hash record (R365, R366, R367). -/
def hashForm (r : Layout) : Except FaultCode Unit :=
  if r.fmt ≠ 2 || r.rank ≠ 2 || r.extent 0 ≠ 2 || r.gran = 0 then .error .regionShape else .ok ()

/-- The fields of e[PB]. -/
def kvFields (i : Instr) (pb : Nat) : Except FaultCode Unit :=
  let bad := match i with
    | .pfxi _ => field pb 32 32 != 0 || field pb 16 16 == 0
    | .pgpin _ | .pgunp _ => field pb 24 40 != 0
    | .pgmaskClr _ | .pgmaskSet _ => field pb 36 28 != 0 || field pb 20 16 == 0
    | .pgmaskExport _ => field pb 24 8 != 0 || field pb 54 10 != 0
    | .pgalloc _ => field pb 13 51 != 0 || field pb 0 13 == 0 || decide (field pb 0 13 > 4096)
    | .pgfree _ => field pb 12 52 != 0
    | _ => false
  if bad then .error .reservedField
  else match i with
    | .pgmaskExport _ => if field pb 32 22 % 8 ≠ 0 then .error .misaligned else .ok ()
    | _ => .ok ()

/-- Dock entry of the commands that name a descriptor. -/
def kvEntry (d : DockEntry) (s : State) : Except FaultCode State := do
  match d.op with
  | .pgfreeReclaim _ => throw .permission
  | _ => pure ()
  let q ← s.descAt d
  kvFields d.op d.pb.toNat
  match d.op with
  | .pfxm _ | .pfxi _ => do
    let (s, r) ← s.record d d.o.db.val
    hashForm r
    s.plainSource r
    if !(s.pool (d.poolOf q)).enabled then throw .permission
    (s.updCmd d.seq fun d => { d with recB := some r }).joinChase d.seq r
  | _ => if (s.pool (d.poolOf q)).enabled then pure s else throw .permission

/-- The elements of the hash record that PFXM and PFXI read (R366, R367). -/
def kvElems (d : DockEntry) : List (Layout × List Nat) :=
  match d.recB with
  | none => []
  | some r =>
    let pb := d.pb.toNat
    let (lo, n) := match d.op with
      | .pfxi _ => (field pb 0 16, Nat.min (field pb 16 16) (r.extent 1 - field pb 0 16))
      | _ => (0, r.extent 1)
    (List.range n).flatMap fun i => [(r, [0, lo + i]), (r, [1, lo + i])]

/-- Those of them that a tidemark covers. -/
def kvNeed (d : DockEntry) : List (Layout × Nat × List Nat) :=
  ((kvElems d).filter fun e => e.1.tm != 0xFF).map fun e => (e.1, 0, e.2)

/-! ### The steps of the commands (R363, R366 to R373) -/

/-- The pages that PFXM's walk of the hashes finds: one for each matched block (R363). -/
def State.pfxWalk (s : State) (d : DockEntry) (p i prev : Nat) : Nat → Kv (List Nat × State)
  | 0 => .ok ([], s)
  | n + 1 => do
    let h ← s.hashAt d i
    match (s.pfxOf p).entries.find? fun e => e.is h p with
    | none => pure ([], s)
    | some e =>
      if e.depth ≠ i || e.block ≠ i % 4 then pure ([], s)
      else
        let (e, s) ← s.pfxLookup p h
        match e with
        | none => pure ([], s)
        | some e =>
          if i % 4 ≠ 0 && e.page ≠ prev then pure ([], s)
          else
            let (t, s) ← s.pfxWalk d p (i + 1) e.page n
            pure (e.page :: t, s)

/-- Attaches the matched pages from table entry `k` on: D, GOT and whether the last page is shared (R363). -/
def State.pfxAttach (s : State) (d : DockEntry) (q : SeqDesc) (pages : List Nat) (k depth got : Nat) (shared : Bool) :
    Nat → Kv (State × Nat × Nat × Bool)
  | 0 => .ok (s, depth, got, shared)
  | n + 1 =>
    let p := d.poolOf q
    if k = q.cap then .ok (s, 4 * k, got, shared)
    else do
      let a := pages.getD (4 * k) 0
      let m := Nat.min 64 (16 * depth - 64 * k)
      let h ← s.hdr p a
      if h.ref ≥ refFull then
        match ← s.allocPage p with
        | none => pure (s, 4 * k, got, shared)
        | some (b, s) => do
          let s ← s.copySlots p a b ((List.range m).map fun t => (t, t))
          let g ← s.hdr p b
          let s ← s.putHdr p b { g with valid := BitVec.ofNat 64 (h.valid.toNat % 2 ^ m), fill := m }
          let s ← s.putEntry d q k b
          s.pfxAttach d q pages (k + 1) depth (got + 1) false n
      else
        let s ← s.putHdr p a { h with ref := h.ref + 1 }
        let s ← s.putEntry d q k a
        s.pfxAttach d q pages (k + 1) depth got true n

/-- PFXM (R363, R366). -/
def pfxmStep (d : DockEntry) (q : SeqDesc) (s : State) : Kv State := do
  if q.npg ≠ 0 || q.nslot ≠ 0 then kvFault .pageState noIndex
  let p := d.poolOf q
  let (pages, s) ← s.pfxWalk d p 0 0 ((d.recB.getD {}).extent 1)
  let depth := pages.length
  let (s, depth, got, shared) ← s.pfxAttach d q pages 0 depth 0 false ((depth + 3) / 4)
  s.putDesc d
    { q with npg := (depth + 3) / 4, nslot := 16 * depth, match_ := depth, got := got
             hz := if depth % 4 ≠ 0 && shared then 16 * (depth % 4) else 0 }

/-- The checks of block `b` for PFXI, and its page (R367); a failed one gives the index of its page (R375; DESIGN CHOICE, log
51). -/
def State.pfxiPage (s : State) (d : DockEntry) (q : SeqDesc) (b : Nat) : Kv Nat := do
  if b ≥ (d.recB.getD {}).extent 1 || b ≥ q.nslot / 16 || b / 4 ≥ q.npg then kvFault .maskRange (b / 4)
  let n ← s.tablePage d q (b / 4)
  let h ← s.hdr (d.poolOf q) n
  if field h.valid.toNat (16 * (b % 4)) 16 ≠ 0xFFFF || q.sharedLast (b / 4) then kvFault .pageState (b / 4)
  pure n

/-- The pages of `n` blocks from `b` on. -/
def State.pfxiPages (s : State) (d : DockEntry) (q : SeqDesc) (b : Nat) : Nat → Kv (List (Nat × Nat × Word))
  | 0 => .ok []
  | n + 1 => do
    let p ← s.pfxiPage d q b
    let h ← s.hashAt d b
    let t ← s.pfxiPages d q (b + 1) n
    pure ((b, p, h) :: t)

def State.insertAll (s : State) (p : Nat) : List (Nat × Nat × Word) → Kv State
  | [] => .ok s
  | (b, n, h) :: t => match s.pfxInsert p h n b with
    | .ok s => s.insertAll p t
    | .error e => .error e

/-- PFXI (R367). -/
def pfxiStep (d : DockEntry) (q : SeqDesc) (s : State) : Kv State := do
  let bs ← s.pfxiPages d q (field d.pb.toNat 0 16) (field d.pb.toNat 16 16)
  s.insertAll (d.poolOf q) bs

/-- Moves the pin of each page, in the table's order (R368). -/
def State.pinPages (s : State) (p : Nat) (up : Bool) (k : Nat) : List Nat → Kv State
  | [] => .ok s
  | n :: t => do
    let h ← s.hdr p n
    if up then
      if h.pin ≥ 255 then kvFault .pinLimit k
      else
        let s ← s.putHdr p n { h with pin := h.pin + 1 }
        s.pinPages p up (k + 1) t
    else if h.pin = 0 then kvFault .pageState k
    else
      let s ← s.putHdr p n { h with pin := h.pin - 1 }
      let s ← if h.pin = 1 && h.ref = 0 then s.freePage p n else pure s
      s.pinPages p up (k + 1) t

/-- A range of table pages, or MASK_RANGE where it leaves the table (R368, R370). -/
def pageRange (q : SeqDesc) (pb : Nat) : Kv (Nat × Nat) :=
  let f := field pb 0 12
  let n := field pb 12 12 + 1
  if f + n > q.npg then kvFault .maskRange (Nat.max f q.npg) else .ok (f, n)

/-- PGPIN and PGUNP (R368). -/
def pgpinStep (up : Bool) (d : DockEntry) (q : SeqDesc) (s : State) : Kv State := do
  let (f, n) ← pageRange q d.pb.toNat
  let ps ← s.tablePages d q f n
  s.pinPages (d.poolOf q) up f ps

/-- The fork of a shared last page (R363). -/
def State.forkLast (s : State) (d : DockEntry) (q : SeqDesc) : Kv (SeqDesc × DockEntry × State) := do
  let p := d.poolOf q
  let k := q.npg - 1
  let a ← s.tablePage d q k
  match ← s.allocPage p with
  | none => kvFault .pageState k
  | some (b, s) => do
    let s ← s.copySlots p a b ((List.range q.hz).map fun t => (t, t))
    let h ← s.hdr p a
    let g ← s.hdr p b
    let s ← s.putHdr p b { g with valid := BitVec.ofNat 64 (h.valid.toNat % 2 ^ q.hz), fill := q.hz }
    let s ← s.dropRef p a
    let s ← s.putEntry d q k b
    pure ({ q with hz := 0, got := 1 }, d.withEntry k (b * (s.pool p).pgb), s)

/-- PGFORK (R363, R369). -/
def pgforkStep (d : DockEntry) (q : SeqDesc) (s : State) : Kv State :=
  if q.hz = 0 || q.npg = 0 then s.putDesc d { q with got := 0 }
  else do
    let (q, d, s) ← s.forkLast d q
    s.putDesc d q

/-- Sets or clears the VALID bits of `n` slots from `t` on; an appended slot raises FILL. -/
def State.markSlots (s : State) (d : DockEntry) (q : SeqDesc) (set append : Bool) (t : Nat) : Nat → Kv State
  | 0 => .ok s
  | n + 1 => do
    let p := d.poolOf q
    let a ← s.tablePage d q (t / 64)
    let h ← s.hdr p a
    let m : BitVec 64 := BitVec.twoPow 64 (t % 64)
    let s ← s.putHdr p a
      { h with valid := if set then h.valid ||| m else h.valid &&& ~~~m
               fill := if append then Nat.max h.fill (t % 64 + 1) else h.fill }
    s.markSlots d q set append (t + 1) n

/-- The PAGE_STATE rule of CLR and SET over `n` slots from `t` on (R370). -/
def State.ownSlots (s : State) (d : DockEntry) (q : SeqDesc) (t : Nat) : Nat → Kv Unit
  | 0 => .ok ()
  | n + 1 => do
    let a ← s.tablePage d q (t / 64)
    let h ← s.hdr (d.poolOf q) a
    if h.ref > 1 || (q.sharedLast (t / 64) && t % 64 < q.hz) then kvFault .pageState t
    s.ownSlots d q (t + 1) n

/-- PGMASK.CLR (R370). -/
def pgmaskClrStep (d : DockEntry) (q : SeqDesc) (s : State) : Kv State := do
  let t := field d.pb.toNat 0 20
  let n := field d.pb.toNat 20 16
  if t + n > q.nslot then kvFault .maskRange (Nat.max t q.nslot)
  s.ownSlots d q t n
  s.markSlots d q false false t n

/-- PGMASK.SET (R370). -/
def pgmaskSetStep (d : DockEntry) (q : SeqDesc) (s : State) : Kv State := do
  let t := field d.pb.toNat 0 20
  let n := field d.pb.toNat 20 16
  if t > q.nslot then kvFault .maskRange t
  if t + n > 64 * q.npg then kvFault .maskRange (Nat.max t (64 * q.npg))
  let old := Nat.min n (q.nslot - t)
  s.ownSlots d q t old
  let reaches : Bool := q.hz != 0 && decide (old < n) && decide (64 * (q.npg - 1) + q.hz < t + n)
  let (r, d, s) ← if reaches then s.forkLast d q else .ok (q, d, s)
  let s ← s.markSlots d r true false t old
  let s ← s.markSlots d r true true (t + old) (n - old)
  s.putDesc d { r with nslot := Nat.max q.nslot (t + n) }

/-- The exported word of a page (R370). -/
def exportWord (q : SeqDesc) (k : Nat) (h : PageHdr) : Nat :=
  let v := if q.sharedLast k then h.valid.toNat % 2 ^ q.hz else h.valid.toNat
  if k + 1 = q.npg then v % 2 ^ (q.nslot - 64 * (q.npg - 1)) else v

/-- PGMASK.EXPORT (R370). -/
def pgmaskExportStep (d : DockEntry) (q : SeqDesc) (s : State) : Kv State := do
  let (f, n) ← pageRange q d.pb.toNat
  let ps ← s.tablePages d q f n
  let hs ← ps.mapM fun a => s.hdr (d.poolOf q) a
  let ws := hs.zipIdx.flatMap fun x => leBytes 8 (exportWord q (f + x.2) x.1)
  kvAt noIndex (s.writeAt d.reacher true false ((field d.pb.toNat 32 22 : Nat) : Int) 8 ws)

/-- PGCMP (R371). -/
def pgcmpStep (d : DockEntry) (q : SeqDesc) (s : State) : Kv State := do
  if q.npg = 0 then kvFault .pageState noIndex
  let p := d.poolOf q
  let k := q.npg - 1
  let a ← s.tablePage d q k
  let h ← s.hdr p a
  if h.ref ≠ 1 || h.pin ≠ 0 || q.hz ≠ 0 then kvFault .pageState k
  let live := (List.range h.fill).filter fun t => h.valid.getLsbD t
  let s ← s.copySlots p a a (live.zipIdx.filter fun m => m.1 != m.2)
  let s ← s.putHdr p a { h with fill := live.length, valid := BitVec.ofNat 64 (2 ^ live.length - 1) }
  s.putDesc d { q with nslot := 64 * k + live.length }

/-- Allocates up to `n` pages into the table from entry `k` on; how many. -/
def State.allocPages (s : State) (d : DockEntry) (q : SeqDesc) (k got : Nat) : Nat → Kv (Nat × State)
  | 0 => .ok (got, s)
  | n + 1 => do
    match ← s.allocPage (d.poolOf q) with
    | none => pure (got, s)
    | some (a, s) => do
      let s ← s.putEntry d q k a
      s.allocPages d q (k + 1) (got + 1) n

/-- PGALLOC (R372). -/
def pgallocStep (d : DockEntry) (q : SeqDesc) (s : State) : Kv State := do
  if q.nslot ≠ 64 * q.npg || q.hz ≠ 0 then kvFault .pageState noIndex
  let (got, s) ← s.allocPages d q q.npg 0 (Nat.min (field d.pb.toNat 0 13) (q.cap - q.npg))
  s.putDesc d { q with npg := q.npg + got, got := got }

/-- Releases a reference of each table entry from `k` on; a page that an earlier entry freed gives PAGE_STATE (R373). -/
def State.releasePages (s : State) (d : DockEntry) (q : SeqDesc) (k : Nat) : Nat → Kv State
  | 0 => .ok s
  | n + 1 => do
    let a ← s.tablePage d q k
    let s ← s.dropRef (d.poolOf q) a
    s.releasePages d q (k + 1) n

/-- PGFREE, release form (R373). -/
def pgfreeStep (d : DockEntry) (q : SeqDesc) (s : State) : Kv State := do
  let f := field d.pb.toNat 0 12
  if f > q.npg then kvFault .maskRange f
  let s ← s.releasePages d q f (q.npg - f)
  s.putDesc d { q with npg := f, nslot := Nat.min q.nslot (64 * f), hz := if f < q.npg then 0 else q.hz }

/-- The reclaim form of PGFREE (R373): the prefix entries of the page go, and the page is freed. -/
def reclaimStep (pa : Word) (s : State) : Kv State := do
  if field pa.toNat 26 38 ≠ 0 then kvFault .reservedField noIndex
  let n := field pa.toNat 0 20
  let p := poolNo (field pa.toNat 22 4) (field pa.toNat 20 2)
  if (s.pool p).threading then throw (.wait, noIndex)
  if !(s.pool p).en then kvFault .permission noIndex
  if n ≥ (s.pool p).npages then kvFault .pageState n
  let h ← s.hdr p n
  if h.free then kvFault .pageState n
  let t := s.pfxOf p
  let s := s.putPfx p { t with entries := t.entries.filter fun e => !(e.page == n && poolNo e.slice e.pool == p) }
  s.freePage p n

/-- Consecutive table entries from `f` to the one before `e`, as far as the table goes. -/
def entryRange (q : SeqDesc) (f e : Nat) : List Nat := (List.range (Nat.min e q.npg - f)).map fun i => f + i

/-- The block-table entries that a command reads (R364). -/
def kvReads (d : DockEntry) (q : SeqDesc) : List Nat :=
  let pb := d.pb.toNat
  match d.op with
  | .pfxi _ => entryRange q (field pb 0 16 / 4) ((field pb 0 16 + field pb 16 16 + 3) / 4)
  | .pgpin _ | .pgunp _ | .pgmaskExport _ => entryRange q (field pb 0 12) (field pb 0 12 + field pb 12 12 + 1)
  | .pgmaskClr _ | .pgmaskSet _ => entryRange q (field pb 0 20 / 64) ((field pb 0 20 + field pb 20 16 + 63) / 64)
  | .pgfork _ => if q.hz = 0 then [] else entryRange q (q.npg - 1) q.npg
  | .pgcmp _ => entryRange q (q.npg - 1) q.npg
  | .pgfree _ => entryRange q (field pb 0 12) q.npg
  | _ => []

/-- The command with its descriptor and table as they stand. -/
def State.kvKeep (s : State) (d : DockEntry) : Kv DockEntry := do
  let q ← match s.descAt d with
    | .ok q => pure q
    | .error f => kvFault f noIndex
  let raw ← kvAt noIndex (s.readAt d.reacher true false (field d.pa.toNat 0 22 : Nat) 64 64)
  let t ← s.tableWords d q 0 q.npg
  pure { d with words := raw :: t }

/-- The checks of the table entries that a command reads, made at dock entry and again with its step (R364). -/
def kvTable (d : DockEntry) (s : State) : Kv Unit := do
  let d ← s.kvKeep d
  let q := SeqDesc.ofNum (d.words.headD 0)
  (kvReads d q).forM fun k => do
    let _ ← s.tablePage d q k
    pure ()

/-- The step of a command at its home engine, over the descriptor and the table that it read at its start (R356). -/
def kvStep (d : DockEntry) (s : State) : Kv State := do
  let q := SeqDesc.ofNum (d.words.headD 0)
  if (s.pool (d.poolOf q)).threading then throw (.wait, noIndex)
  if !(s.pool (d.poolOf q)).en then kvFault .permission noIndex
  match d.op with
  | .pfxm _ => pfxmStep d q s
  | .pfxi _ => pfxiStep d q s
  | .pgpin _ => pgpinStep true d q s
  | .pgunp _ => pgpinStep false d q s
  | .pgfork _ => pgforkStep d q s
  | .pgmaskClr _ => pgmaskClrStep d q s
  | .pgmaskSet _ => pgmaskSetStep d q s
  | .pgmaskExport _ => pgmaskExportStep d q s
  | .pgcmp _ => pgcmpStep d q s
  | .pgalloc _ => pgallocStep d q s
  | .pgfree _ => pgfreeStep d q s
  | _ => .ok s

/-- The basin whose engine serves a command: that of its pool, or for PFXH the issuing quay's (R374). -/
def State.kvBasin (s : State) (quay : Nat) (d : DockEntry) : Nat :=
  if d.isKv then (s.pool (d.poolOf (SeqDesc.ofNum (d.words.headD 0)))).home else basinOf quay

/-- The cycle in which a command that starts now reaches its engine, seven cycles being a tick of the reference: after 8 cycles,
40 on the other basin, or exactly 64 in deterministic mode (R374). -/
def State.arriveAt (s : State) (d : DockEntry) : Nat :=
  7 * s.refTime + (if s.isDet d.crew then 64 else if s.kvBasin s.here d = basinOf s.here then 8 else 40)

/-- A KV command starts: it reads its descriptor and table (R356), and is carried to its home engine (R374). -/
def kvStart (d : DockEntry) (s : State) : State :=
  match s.kvKeep d with
  | .error (h, i) => s.stopAt d.seq h i
  | .ok e =>
    let at' := s.arriveAt e
    s.updCmd d.seq fun d => { d with phase := .running, started := true, words := e.words, arrive := at' }

/-- Whether a command has reached its engine. -/
def State.arrived (s : State) (d : DockEntry) : Bool := decide (d.arrive ≤ 7 * s.refTime + 6)

/-- Whether a command reached its engine before another: by cycle, then quay, then issue sequence number (R374). -/
def arrivedFirst (q : Nat) (d : DockEntry) (p : Nat) (e : DockEntry) : Bool :=
  decide (d.arrive < e.arrive) || (d.arrive == e.arrive && (decide (q < p) || (q == p && decide (d.seq < e.seq))))

/-- Whether it is a command's turn at its engine: no running one of the same unit there has arrived before it. -/
def State.kvTurn (s : State) (quay : Nat) (d : DockEntry) : Bool :=
  s.arrived d && !(s.quays.any fun x => x.2.dock.any fun e =>
    (e.isKv || e.opc == 0x40) && e.isKv == d.isKv && e.phase == .running && s.kvBasin x.1 e == s.kvBasin quay d
      && arrivedFirst x.1 e quay d)

/-- KV_HOME_STEP (R374 to R376): a command applies its effect in one indivisible step, in the order of arrival at its engine,
and completes; a failed check changes nothing but the command. The hash record of PFXM and PFXI has its floor in deterministic
mode; the engine's own accesses to headers and pages leave no quay (R338; log 116). -/
def execKvHomeStep (quay seq : Nat) (s : State) : Out :=
  let s' := { s with here := quay }
  match s'.cmd? seq with
  | none => .next s
  | some d =>
    if !d.isKv || d.phase != .running || !s.kvTurn quay d then .next s
    else match s'.allCovered (kvNeed d) with
      | .error f => .next { s'.cmdFault seq f noIndex with here := s.here }
      | .ok false => .next s
      | .ok true =>
        let t := s'.withData d (s'.needAddrs d (kvElems d) false) fun s' => match kvStep d s' with
          | .ok t => t.complete d
          | .error (h, i) => s'.stopAt seq h i
        .next { t with here := s.here }

/-! ### PFXH (R365) -/

def pfxhEntry (d : DockEntry) (s : State) : Except FaultCode State := do
  s.ownTm d
  let (s, a) ← s.record d d.o.da.val
  hashForm a
  let (s, b) ← s.record d d.o.db.val
  if b.fmt ≠ 2 || b.rank ≠ 1 || b.extent 0 ≠ 16 * a.extent 1 then throw .regionShape
  s.plainSource b
  let (s, a) ← s.destOf d a
  (s.updCmd d.seq fun d => { d with recA := some a, recB := some b }).joinChase d.seq b

/-- What hash element `n` of the walk needs covered: blocks 0 to its own. -/
def pfxhNeed (d : DockEntry) (n : Nat) : List (Layout × Nat × List Nat) :=
  let b := d.recB.getD {}
  if b.tm = 0xFF then []
  else (List.range (16 * (((d.recA.getD {}).coords n).getD 1 0 + 1))).map fun j => (b, 0, [j])

/-- The hashes of blocks from the last one known up to block i. -/
def State.chainTo (s : State) (d : DockEntry) (known : List Nat) : Nat → Reach (List Nat)
  | 0 => .ok known
  | n + 1 => do
    let j := known.length
    let b := d.recB.getD {}
    let tok ← (List.range 16).mapM fun k => s.readPlace d.reacher b (b.place [16 * j + k])
    let prev : Word := match known.getLast? with
      | some h => BitVec.ofNat 64 h
      | none => d.pa
    s.chainTo d (known ++ [(chainHash prev tok).toNat]) n

/-- Counts the written elements of PFXH: publishes them, and completes at END. -/
def State.pfxhCount (s : State) (seq n : Nat) : State :=
  match s.cmd? seq with
  | none => s
  | some d =>
    let a := d.recA.getD {}
    let s := s.publishWalk { d with count := n } a.gran a.count n
    if n = a.count then s.complete d else s

/-- The tokens of the blocks that PFXH has still to hash for block i. -/
def pfxhTokens (d : DockEntry) (i : Nat) : List (Layout × List Nat) :=
  let k := d.words.length
  (List.range (16 * (i + 1 - k))).map fun j => (d.recB.getD {}, [16 * k + j])

/-- PFXH, whose turn it is in the hash unit (R374), writes its next element in the walk of DA, once its blocks are covered, and
publishes it (R234, R365); in deterministic mode its tokens and its writes have their floors (R338). Only a scratchpad range
watches its writes (R304). -/
def pfxhBeat (d : DockEntry) (s : State) : State :=
  let a := d.recA.getD {}
  let n := d.count
  match d.flight with
  | b :: _ =>
    if s.early d.crew b.floor b.sentAt then s else (s.landBeat d.seq b.upto).pfxhCount d.seq b.upto
  | [] =>
  if !s.kvTurn s.here d then s
  else match s.allCovered (pfxhNeed d n) with
  | .error f => s.cmdFault d.seq f n
  | .ok false => s
  | .ok true =>
    let c := a.coords n
    let i := c.getD 1 0
    s.withData d (s.needAddrs d (pfxhTokens d i) false) fun s =>
    match s.chainTo d d.words (i + 1 - d.words.length) with
    | .error h => s.stopAt d.seq h n
    | .ok hs =>
      let v := hs.getD i 0 / 2 ^ (32 * c.getD 0 0) % 2 ^ 32
      match s.writePlace d.reacher a (a.place c) v with
      | .error h => s.stopAt d.seq h n
      | .ok t =>
        let as := s.destAddrs d n 1
        let s := if a.sp then t else s.unwatched t
        (s.updCmd d.seq fun d => { d with words := hs }).countWritten d n 1 as State.pfxhCount

/-! ### POOL_ENABLE (R353) -/

/-- Threads pages `n` and on onto the free list in ascending order, each header as a free page. -/
def State.threadPages (s : State) (p n : Nat) : Nat → Kv State
  | 0 => .ok s
  | k + 1 => match s.putHdr p n { free := true, next := if k = 0 then noPage else n + 1 } with
    | .ok s => s.threadPages p (n + 1) k
    | .error h => .error h

/-- The home engine threads the pages of a pool whose EN has been written (R353), once HBM is ready (R431). With a header that
cannot be written the system context is told, and EN stays clear. -/
def State.enablePool (s : State) (p : Nat) : State :=
  let x := s.pool p
  match s.threadPages p 0 x.npages with
  | .ok s => s.putPool p
      { x with en := true, threading := false, freehead := BitVec.ofNat 32 (if x.npages = 0 then noPage else 0)
               freecnt := BitVec.ofNat 32 x.npages }
  | .error (.wait, _) => s.putPool p { x with threading := true }
  | .error _ => (s.putPool p { x with threading := false }).report .permission s.here 0 none x.hdr

def execPoolEnable (slice : Fin 16) (pool : Fin 4) (s : State) : Out :=
  let p := poolNo slice.val pool.val
  if (s.pool p).en then .next s else .next (s.enablePool p)

/-! ### Issue -/

def execPfxh (o : EOp) (s : State) : Out := issueE (.pfxh o) o s
def execPfxm (o : EOp) (s : State) : Out := issueE (.pfxm o) o s
def execPfxi (o : EOp) (s : State) : Out := issueE (.pfxi o) o s
def execPgpin (o : EOp) (s : State) : Out := issueE (.pgpin o) o s
def execPgunp (o : EOp) (s : State) : Out := issueE (.pgunp o) o s
def execPgfork (o : EOp) (s : State) : Out := issueE (.pgfork o) o s
def execPgmaskClr (o : EOp) (s : State) : Out := issueE (.pgmaskClr o) o s
def execPgmaskSet (o : EOp) (s : State) : Out := issueE (.pgmaskSet o) o s
def execPgmaskExport (o : EOp) (s : State) : Out := issueE (.pgmaskExport o) o s
def execPgcmp (o : EOp) (s : State) : Out := issueE (.pgcmp o) o s
def execPgalloc (o : EOp) (s : State) : Out := issueE (.pgalloc o) o s
def execPgfree (o : EOp) (s : State) : Out := issueE (.pgfree o) o s

/-- PGFREE.RECLAIM: given by the system context it acts at once, a check that fails being told to it; from a strand it is a
command, which dock entry refuses (R373). Its operand stands in the e register of the current context, which its TAG
names a ready tag of; its BOL is posted at the quay (log 52). -/
def execPgfreeReclaim (o : EOp) (s : State) : Out :=
  if s.system then
    let pa := ((s.ctx.getWord .e (.e o.pa)).toOption).getD 0
    match reclaimStep pa s with
    | .ok s =>
      let s := s.updCtx fun c => c.setTag o.tag
      .next (if o.bol = 0 then s else s.post s.here o.bol.val 1)
    | .error (.fault c, i) => .next (s.report c s.here s.quay.cctx.val none (BitVec.ofNat 64 (i % 2 ^ 32 * 2 ^ 32)))
    | .error _ => .next s
  else issueE (.pgfreeReclaim o) o s

end Sys2Proof.Machine
end

