-- ==== Sys2Proof/Machine/Arrival.lean ====
section
/-! DEFINITION. Landings at a quay (R16, R17): the receiving crew, refusals and their return, the bytes, and the arrival
handlers. -/

namespace Sys2Proof.Machine

open Sys2Proof

/-! ### Quays of crews -/

/-- Whether a crew holds its reservation: it is placed, or waits for its kernel image. -/
def Crew.holds (c : Crew) : Bool := c.st == .placed || c.st == .waiting

/-- Whether a crew has strands on a quay, or had them there when it was saved. One that still waits for its kernel image has
none and counts as not placed (R328; DEDUCED, log 106). -/
def Crew.onQuay (c : Crew) (q : Nat) : Bool := (c.st == .placed || c.st == .saved) && c.quays.contains q

/-- The earliest-placed of some crews. -/
def earliest : List Crew → Option Crew
  | [] => none
  | c :: t => match earliest t with
    | none => some c
    | some d => if d.placedAt < c.placedAt || (d.placedAt == c.placedAt && decide (d.id < c.id)) then some d else some c

/-- The receiving crew of a landing (R17). -/
def State.receiver (s : State) (l : Landing) : Option Crew :=
  match s.crews.find? fun c => c.id == l.srcCrew && l.srcDev == s.devId && c.onQuay l.quay with
  | some c => some c
  | none => earliest (s.crews.filter fun c => c.slice == l.slice && c.onQuay l.quay)

/-- The range of a crew on a quay. -/
def Crew.baseOn (c : Crew) (q : Nat) : Nat := c.spBases.getD (c.pos q) 0

/-! ### Landings -/

/-- A refusal goes back to the sender (R17). -/
def State.refuseLanding (s : State) (l : Landing) (f : FaultCode) : State :=
  let r : Refused := match l.kind with
    | .sendh => .sendh l.srcQuay l.srcCtx l.srcCrew l.srcSeq l.srcPc f
    | _ => .command l.srcQuay l.srcSeq f
  if l.srcDev = s.devId then s.send (.arrivalRefusalReturn r) else s.toDev l.srcDev (.landingRefused r)

/-- A beat that has been written is acknowledged; a SENDH has none (R253, R282). -/
def State.acknowledge (s : State) (l : Landing) : State :=
  let a : Ack := .beat l.srcQuay l.srcSeq l.upto
  match l.kind with
  | .sendh => s
  | _ => if l.srcDev = s.devId then s.send (.acknowledgementArrive a) else s.toDev l.srcDev (.ack a)

/-- The arrival of a landing written whole: x0 the landing address, x1 the byte count, x2 the sender's device and quay,
x3 to x5 what the sender names (R16). -/
def landingArrival (l : Landing) (crew : Nat) (pc : Nat) : Arrival :=
  { crew := crew, pc := BitVec.ofNat 32 pc
    x := #v[BitVec.ofNat 64 l.addr, BitVec.ofNat 64 l.bytes, BitVec.ofNat 64 (l.srcDev % 64 + l.srcQuay % 512 * 64), l.x3, l.x4, l.x5] }

/-- The cells of a landing as storage of the receiving quay. -/
def landingStore (l : Landing) (base : Nat) : List (Loc × Byte) :=
  l.cells.map fun p => (.sp (spStore base l.swizzled ((l.addr : Int) + p.1).toNat), p.2)

/-- Whether a landing that has begun is the one of a beat: that of its sender under the quay and number with which it began, which
the command keeps through a pre-emption. -/
def Inbound.of (b : Inbound) (l : Landing) : Bool :=
  b.kind == l.kind && b.dev == l.srcDev && (b.quay, b.seq) == l.ident && b.attempt == l.attempt

/-- What the receiving quay decides when the first beat of a landing arrives (R17): the receiving crew, or the refusal. -/
def State.judge (s : State) (l : Landing) : Except FaultCode (Nat × Nat) :=
  match s.receiver l with
  | none => .error .permission
  | some c => if l.low > l.addr || l.addr + l.extent > c.spSize then .error .scratchRange else .ok (c.id, c.pos l.quay)

/-- The landing of a beat as it has begun; the first beat begins it, and a refusal leaves then. -/
def State.beginLanding (s : State) (l : Landing) : Inbound × State :=
  match s.landings.find? fun b => b.of l with
  | some b => (b, s)
  | none =>
    let b : Inbound := { kind := l.kind, dev := l.srcDev, quay := l.ident.1, seq := l.ident.2, attempt := l.attempt, crew := none }
    match s.judge l with
    | .ok c => let b := { b with crew := some c }; (b, { s with landings := s.landings ++ [b] })
    | .error f => (b, ({ s with landings := s.landings ++ [b] } : State).refuseLanding l f)

/-- Replaces a landing's entry, or drops it. -/
def State.putLanding (s : State) (l : Landing) (b : Option Inbound) : State :=
  { s with landings := (s.landings.filter fun x => !x.of l) ++ b.toList }

/-- The entry after a beat has been written; none after the last element. -/
def Inbound.next (b : Inbound) (l : Landing) : Option Inbound :=
  let b := { b with got := b.got + (l.upto - l.first), total := if l.last then some l.upto else b.total }
  if b.total == some b.got then none else some b

/-- Whether an earlier beat of the same landing is still on the fabric. -/
def State.earlierBeat (s : State) (l : Landing) : Bool :=
  s.wire.any fun i => match i with
    | .arrivalLanding m =>
      m.kind == l.kind && m.srcDev == l.srcDev && m.ident == l.ident && m.attempt == l.attempt && decide (m.upto < l.upto)
    | _ => false

/-- A beat is written at its quay and acknowledged; the last one to come raises the arrival (R16). -/
def State.land (s : State) (l : Landing) (b : Inbound) (c : Crew) (q : Nat) : State :=
  let home := s.here
  let s := { ({ s with here := q }).writeLocs (landingStore l (c.baseOn q)) with here := home }
  let s := (s.acknowledge l).putLanding l (b.next l)
  match b.next l, l.handler with
  | none, some pc => s.putQuay q { s.quayAt q with arrivals := (s.quayAt q).arrivals ++ [landingArrival l c.id pc] }
  | _, _ => s

/-- ARRIVAL_LANDING (R17): a beat meets its receiving quay, behind earlier beats of its landing. The crew that its first beat
found receives them all, on the quay where that crew stands now; one for a saved crew is held at its sender (R342); of a
refused landing nothing is written. A routed beat keeps its place behind what its link withholds (R395). -/
def execArrivalLanding (l : Landing) (s : State) : Out :=
  match l.via with
  | some p =>
    if l.kind == .routed && !(s.ports.get p).withheld.isEmpty then
      .next (s.putPort p.val { s.ports.get p with withheld := (s.ports.get p).withheld ++ [.msg (.landing l)] })
    else .next (s.send (.arrivalLanding { l with via := none }))
  | none =>
    if s.earlierBeat l then .next (s.send (.arrivalLanding l))
    else
      let (b, s) := s.beginLanding l
      match b.crew with
      | none => .next (if l.last then s.putLanding l none else s)
      | some (id, pos) => match s.crew id with
        | none => .next ((s.putLanding l none).refuseLanding l .permission)
        | some c => if c.st == .saved then .next (s.send (.arrivalLanding l)) else .next (s.land l b c (c.quays.getD pos 0))

/-- The WINDOW field of a record for a crew on a quay (R86). -/
def State.windowOf (s : State) (c : Crew) (q : Nat) : BitVec 16 :=
  BitVec.ofNat 16 (c.winOf q + winBase (s.quayAt q).dictwin (c.winOf q) * 4)

/-- The index that a strand beyond the crew's first ones is given: QUAYS × CTX (DESIGN CHOICE, log 26). -/
def Crew.lateStrand (c : Crew) : Nat := c.lr.quays * c.lr.ctxs

/-- A number that no other strand has (the model's own). -/
def State.bornNow (s : State) (strand : Nat) : Nat := s.refTime * 2 ^ 16 + strand

/-- The record of an arrival that finds no DORMANT context of its crew (R16). -/
def State.arrivalRecord (s : State) (c : Crew) (q : Nat) (a : Arrival) : Mooring :=
  { resume := a.pc, window := s.windowOf c q, flags := recFlags 2 c.lr.energy c.lr.det false
    crew := BitVec.ofNat 32 c.id, hint := BitVec.ofNat 32 q, x := a.x, strand := c.lateStrand }

/-- ARRIVAL_HANDLER_START (R16): the handler of the quay's `k`-th arrival starts in a DORMANT context of its crew, or the
arrival becomes a mooring record at the bottom of the quay's deque. -/
def execArrivalHandlerStart (k : Nat) (s : State) : Out :=
  match s.quay.arrivals[k]? with
  | none => .next s
  | some a =>
    match s.crew a.crew with
    | none => .next (s.updQuay fun q => { q with arrivals := listErase q.arrivals k })
    | some c =>
      if c.st != .placed then .next s
      else
        let s := (s.updQuay fun q => { q with arrivals := listErase q.arrivals k }).addLive c.id 1
        match s.dormantOf s.here c.id with
        | some n =>
          .next (s.startStrand s.here n c c.lateStrand (s.bornNow c.lateStrand) a.pc (BitVec.ofNat 2 (c.winOf s.here)) a.x 0)
        | none => .next (s.moor s.here false (s.arrivalRecord c s.here a))

/-! ### Refusals at the sender -/

/-- ARRIVAL_REFUSAL_RETURN (R17): a refused command faults at 0, a refused SENDH is an asynchronous fault of its strand. -/
def execArrivalRefusalReturn (r : Refused) (s : State) : Out :=
  match r with
  | .command quay seq code =>
    let home := s.here
    let s := { s with here := quay }
    match s.cmd? seq with
    | none => .next { s with here := home }
    | some d =>
      let s := s.updCmd seq fun d => { d with flight := [], count := 0, attempt := d.attempt + 1 }
      .next { (if d.phase == .halted then s else s.cmdFault seq code 0) with here := home }
  | .sendh quay ctx crew born pc code =>
    .next (s.tellStrand born quay ctx (some crew) ⟨code, 0, BitVec.ofNat 32 pc, 0, 2⟩)

end Sys2Proof.Machine
end

