-- ==== Sys2Proof/Machine/Collective.lean ====
section
/-! DEFINITION. The collective engine (R387 to R418): descriptors and the exchange they give, instances and generations,
blocks, the coder and the lighters, manifests and holdings, CLARM, and the commands. -/

namespace Sys2Proof.Machine

open Sys2Proof

/-! ### Descriptors and layouts (R388 to R390) -/

/-- Bytes of a descriptor as a number. -/
def descField (d : BitVec 1024) (off n : Nat) : Nat := field d.toNat (8 * off) (8 * n)

/-- A layout of R389: the axis that shards each dimension, 3 for none, and the PARTIAL mask. -/
structure Sharding where
  axisOf : List Nat
  part : Nat
  deriving DecidableEq, Repr

/-- What a descriptor says. -/
structure Mesh where
  axes : Nat
  sizes : List Nat
  rank : Nat
  fmt : Nat
  op : Nat
  ext : List Nat
  src : Sharding
  dst : Sharding
  tensor : Nat
  members : List Nat
  deriving DecidableEq, Repr

/-- The kind of a collective (R390). -/
inductive CollKind where
  | allGather | allToAll | permutation | reduceScatter
  deriving DecidableEq, Repr

def shardingOf (d : BitVec 1024) (off : Nat) : Sharding :=
  { axisOf := (List.range 4).map fun k => field (descField d off 1) (2 * k) 2, part := descField d (off + 1) 1 % 8 }

def Mesh.size (m : Mesh) (a : Nat) : Nat := m.sizes.getD a 0

def prod (l : List Nat) : Nat := l.foldl (· * ·) 1

def meshOf (d : BitVec 1024) : Mesh :=
  let axes := descField d 1 1 % 4 + 1
  let sizes := (List.range 3).map fun a => descField d (2 + a) 1
  { axes := axes, sizes := sizes, rank := descField d 6 1 % 4 + 1, fmt := descField d 5 1, op := descField d 7 1
    ext := (List.range 4).map fun k => descField d (8 + 4 * k) 4, src := shardingOf d 0x18, dst := shardingOf d 0x1C
    tensor := descField d 0x20 3
    members := (List.range (Nat.min 64 (prod (sizes.take axes)))).map fun r => descField d (0x30 + r) 1 }

/-- A version other than 1, or a reserved part that is not zero (R388, R389, R410). -/
def descReserved (d : BitVec 1024) : Bool :=
  descField d 0 1 != 1 || descField d 1 1 / 4 != 0 || descField d 6 1 / 4 != 0
    || descField d 0x23 1 != 0 || field (descField d 0x24 2) 9 6 != 0 || descField d 0x26 2 != 0 || descField d 0x70 16 != 0
    || descField d 0x19 1 / 8 != 0 || descField d 0x1A 2 != 0 || descField d 0x1D 1 / 8 != 0 || descField d 0x1E 2 != 0

/-- Whether a layout is valid (R389). -/
def Mesh.layoutOk (m : Mesh) (l : Sharding) : Bool :=
  let used := (l.axisOf.take m.rank).filter fun a => a != 3
  ((l.axisOf.drop m.rank).all fun a => a == 3) && decide used.Nodup && used.all (fun a => decide (a < m.axes))
    && decide (l.part < 2 ^ m.axes) && used.all (fun a => !l.part.testBit a)
    && (List.range m.rank).all fun k =>
      let a := l.axisOf.getD k 3
      a == 3 || (m.size a != 0 && m.ext.getD k 0 % m.size a == 0)

/-- The role of an axis in a layout: PARTIAL, sharding a dimension, or replicated. -/
inductive AxisRole where
  | replicated | shards (k : Nat) | partials
  deriving DecidableEq, Repr

def Mesh.role (m : Mesh) (l : Sharding) (a : Nat) : AxisRole :=
  if l.part.testBit a then .partials
  else match (List.range m.rank).find? fun k => l.axisOf.getD k 3 == a with
    | some k => .shards k
    | none => .replicated

/-- The axes of a moved dimension (R390). -/
def Mesh.movedAxes (m : Mesh) : List Nat :=
  (List.range m.rank).flatMap fun k =>
    let a := m.src.axisOf.getD k 3
    let b := m.dst.axisOf.getD k 3
    if a != 3 && b != 3 && a != b && m.size a == m.size b && m.role m.dst a == .replicated && m.role m.src b == .replicated
    then [a, b] else []

/-- What an axis does: nothing for the exchange (idle or local), or its kind; LAYOUT_PAIR otherwise. -/
def Mesh.axisKind (m : Mesh) (a : Nat) : Except FaultCode (Option CollKind) :=
  if m.movedAxes.contains a then .ok (some .permutation)
  else match m.role m.src a, m.role m.dst a with
    | .replicated, .replicated | .partials, .partials => .ok none
    | .replicated, .shards _ => .ok none
    | .shards k, .shards j => .ok (if k = j then none else some .allToAll)
    | .shards _, .replicated => .ok (some .allGather)
    | .partials, .shards _ => .ok (some .reduceScatter)
    | _, _ => .error .layoutPair

/-- The kind of the collective and its exchange axes (R390). -/
def Mesh.exchange (m : Mesh) : Except FaultCode (CollKind × List Nat) := do
  let ks ← (List.range m.axes).mapM fun a => (m.axisKind a).map fun k => (a, k)
  let ex := ks.filterMap fun p => p.2.map fun k => (p.1, k)
  match ex with
  | [] => throw .layoutPair
  | (_, k) :: _ => if ex.all fun p => p.2 == k then pure (k, ex.map Prod.fst) else throw .layoutPair

/-- Whether OP and FMT suit the kind (R254, R390). -/
def Mesh.opOk (m : Mesh) (k : CollKind) : Bool :=
  if k == .reduceScatter then
    [1, 4, 5, 6, 7].contains m.op && ([0, 1, 2].contains m.fmt || ([3, 4, 5].contains m.fmt && m.op != 6 && m.op != 7))
  else m.op == 0

/-- The sizes, extents, format and member list (R388). -/
def Mesh.shapeOk (m : Mesh) (s : State) (d : BitVec 1024) : Bool :=
  let n := prod (m.sizes.take m.axes)
  decide (m.axes ≤ 3) && (m.sizes.take m.axes).all (fun x => decide (1 ≤ x) && decide (x ≤ 64)) && (m.sizes.drop m.axes).all (· == 0)
    && (m.ext.take m.rank).all (· != 0) && (m.ext.drop m.rank).all (· == 0) && decide (m.fmt ≤ 8) && decide (n ≤ 64)
    && m.members.all (fun x => decide (x < 64) && s.members.getLsbD x) && decide m.members.Nodup
    && m.members.contains s.devId && (List.range 64).all (fun r => decide (r < n) || descField d (0x30 + r) 1 == 0xFF)

/-- The digest of a descriptor (R388). -/
def descDigest (d : BitVec 1024) : Word :=
  let ws := (List.range 4).map (fun i => descField d (8 * i) 8) ++ [descField d 0x20 4]
    ++ (List.range 8).map fun i => descField d (0x30 + 8 * i) 8
  ws.foldl (fun h w => mix64 (h ^^^ BitVec.ofNat 64 w)) 0

/-! ### Members, groups and shards (R388, R389, R392) -/

def Mesh.coord (m : Mesh) (r : Nat) : List Nat :=
  let s0 := Nat.max 1 (m.size 0)
  let s1 := Nat.max 1 (m.size 1)
  [r % s0, r / s0 % s1, r / (s0 * s1)]

def Mesh.rankAt (m : Mesh) (c : List Nat) : Nat :=
  c.getD 0 0 + Nat.max 1 (m.size 0) * (c.getD 1 0 + Nat.max 1 (m.size 1) * c.getD 2 0)

/-- The group rank of coordinates: the lowest-numbered exchange axis varies fastest. -/
def Mesh.groupRank (m : Mesh) (axes : List Nat) (c : List Nat) : Nat :=
  (axes.foldl (fun (a : Nat × Nat) x => (a.1 + c.getD x 0 * a.2, a.2 * m.size x)) (0, 1)).1

/-- The shard of a member: offset and length along each dimension (R389). -/
def Mesh.box (m : Mesh) (l : Sharding) (c : List Nat) : List (Nat × Nat) :=
  (List.range m.rank).map fun k =>
    let a := l.axisOf.getD k 3
    let e := m.ext.getD k 0
    if a = 3 then (0, e) else (c.getD a 0 * (e / m.size a), e / m.size a)

def inBox (b : List (Nat × Nat)) (g : List Nat) : Bool :=
  (b.zip g).all fun p => decide (p.1.1 ≤ p.2) && decide (p.2 < p.1.1 + p.1.2)

/-- Elements of a shard in a walk order, by their global coordinates, that lie in another shard. -/
def pieceOf (perm dir : Nat) (src dst : List (Nat × Nat)) : List (List Nat) :=
  let w : Layout :=
    { rank := src.length, ext := (src.map Prod.snd) ++ List.replicate (4 - src.length) 0, perm := perm, dir := dir }
  ((List.range w.count).map fun i => List.zipWith (fun (x : Nat) (p : Nat × Nat) => x + p.1) (w.coords i) src).filter (inBox dst)

/-! ### Slots -/

def CollSlot.mesh (x : CollSlot) : Mesh := meshOf x.desc

def CollSlot.kindAxes (x : CollSlot) : CollKind × List Nat :=
  match x.mesh.exchange with
  | .ok p => p
  | .error _ => (.allGather, [])

def CollSlot.isRs (x : CollSlot) : Bool := x.kindAxes.1 == .reduceScatter

/-- The mesh rank of a device. -/
def CollSlot.meshRank (x : CollSlot) (dev : Nat) : Nat := x.mesh.members.findIdx fun d => d == dev

/-- The exchange group: mesh ranks in ascending group rank. -/
def CollSlot.group (x : CollSlot) (dev : Nat) : List Nat :=
  let m := x.mesh
  let axes := x.kindAxes.2
  let c := m.coord (x.meshRank dev)
  let same := (List.range m.members.length).filter fun r =>
    (List.range 3).all fun a => axes.contains a || (m.coord r).getD a 0 == c.getD a 0
  (List.range same.length).filterMap fun g => same.find? fun r => m.groupRank axes (m.coord r) == g

def CollSlot.rankOf (x : CollSlot) (dev : Nat) : Nat := (x.group dev).findIdx fun r => r == x.meshRank dev

def CollSlot.devOf (x : CollSlot) (r : Nat) : Nat := x.mesh.members.getD r 0

/-- The other members of the exchange group, as devices (R392). -/
def CollSlot.participants (x : CollSlot) (dev : Nat) : List Nat :=
  ((x.group dev).map x.devOf).filter fun d => d != dev

def CollSlot.srcBox (x : CollSlot) (r : Nat) : List (Nat × Nat) := x.mesh.box x.mesh.src (x.mesh.coord r)
def CollSlot.dstBox (x : CollSlot) (r : Nat) : List (Nat × Nat) := x.mesh.box x.mesh.dst (x.mesh.coord r)

/-- The member that a permutation sends to: its coordinates along the two exchange axes change places (R390, R393). -/
def CollSlot.swapped (x : CollSlot) (r : Nat) : Nat :=
  let c := x.mesh.coord r
  match x.kindAxes.2 with
  | [a, b] => x.mesh.rankAt ((c.set a (c.getD b 0)).set b (c.getD a 0))
  | _ => r

/-- Elements of a full block (R392). -/
def CollSlot.perBlock (x : CollSlot) : Nat := 8 * 4096 / Nat.max 1 x.da.elemBits

/-- The chunk that the blocks of an owner belong to in a reduce-scatter: the owner is its first contributor. -/
def CollSlot.chunkOf (x : CollSlot) (dev owner : Nat) : Nat :=
  let g := (x.group dev).length
  (owner + g - 1) % Nat.max 1 g

/-- The piece that a block belongs to, at this device as the receiver, or on the way through it (R392, R393). -/
def CollSlot.piece (x : CollSlot) (dev owner recv perm dir : Nat) : List (List Nat) :=
  let grp := x.group dev
  if x.isRs then pieceOf perm dir (x.srcBox (x.meshRank dev)) (x.dstBox (grp.getD (x.chunkOf dev owner) 0))
  else pieceOf perm dir (x.srcBox (grp.getD owner 0)) (x.dstBox recv)

/-- The elements of a block, by global coordinates. -/
def CollSlot.elems (x : CollSlot) (dev recv : Nat) (id : BlockId) (perm dir : Nat) : List (List Nat) :=
  ((x.piece dev id.owner recv perm dir).drop (id.num * x.perBlock)).take x.perBlock

def blocksIn (per len : Nat) : Nat := (len + per - 1) / Nat.max 1 per

/-- The blocks that this device forms for a member, in order. -/
def CollSlot.blocksFor (x : CollSlot) (dev recv : Nat) : List ForkBlock :=
  let me := x.rankOf dev
  let n := blocksIn x.perBlock (x.piece dev me recv x.db.perm x.db.dir).length
  (List.range n).map fun j => { recv := x.devOf recv, id := ⟨x.mesh.tensor, me, j⟩ }

/-- The fork of this device: its receivers round from after its own group rank, and for a reduce-scatter the first step of
the ring (R393, R399). -/
def CollSlot.forkOf (x : CollSlot) (dev : Nat) : List ForkBlock :=
  let grp := x.group dev
  let g := grp.length
  let me := x.rankOf dev
  let next := fun (i : Nat) => grp.getD ((me + i) % Nat.max 1 g) 0
  match x.kindAxes.1 with
  | .reduceScatter => if g ≤ 1 then [] else x.blocksFor dev (next 1)
  | .permutation =>
    let t := x.swapped (x.meshRank dev)
    if t = x.meshRank dev then [] else x.blocksFor dev t
  | _ => (List.range (g - 1)).flatMap fun i => x.blocksFor dev (next (i + 1))

/-- The blocks that the engine copies locally (R393). -/
def CollSlot.localOf (x : CollSlot) (dev : Nat) : List ForkBlock :=
  let me := x.meshRank dev
  match x.kindAxes.1 with
  | .reduceScatter => if (x.group dev).length ≤ 1 then x.blocksFor dev me else []
  | .permutation => if x.swapped me = me then x.blocksFor dev me else []
  | _ => x.blocksFor dev me

/-- How many blocks an owner contributes here. -/
def CollSlot.ownerBlocks (x : CollSlot) (dev owner perm dir : Nat) : Nat :=
  blocksIn x.perBlock (x.piece dev owner (x.meshRank dev) perm dir).length

/-! ### The running instance -/

/-- The CLGO of a slot's newest instance, while it is in the dock. -/
def State.collCmd (s : State) (x : CollSlot) : Option DockEntry :=
  if x.ownDone then none else ((s.quayAt x.goQuay).dock.find? fun d => d.seq == x.seq && d.opc == 0x51)

/-- Whether the newest instance runs: its CLGO is started, not halted, not waiting for a page, not saved (R398), and owes no
fault. -/
def State.collLive (s : State) (x : CollSlot) : Bool :=
  match s.collCmd x with
  | some d => d.phase == .running && x.owed.isNone
  | none => false

/-- Whether the own part of the newest instance is under way. -/
def CollSlot.runs (x : CollSlot) : Bool := !x.ownDone && x.active.contains x.gen

/-- Whether the crew that issued the CLGO is saved: the instance then neither sends nor accepts blocks (R398). -/
def State.collSaved (s : State) (x : CollSlot) : Bool := x.runs && (s.collCmd x).isNone

/-- Whether the instance runs in deterministic mode: the crew of its CLGO does (R399). -/
def State.collDet (s : State) (x : CollSlot) : Bool :=
  match s.collCmd x with
  | some d => s.isDet d.crew
  | none => false

/-- An instance halts with a fault (R398): DA's tidemark enters HALT, the slot HALTED. -/
def State.collHalt (s : State) (n : Nat) (code : FaultCode) (index : Nat) : State :=
  (s.atQuay (s.slot n).goQuay fun s => s.cmdFault (s.slot n).seq code index).updSlot n fun x =>
    { x with st := .halted, fcode := code.code }

/-- A fault that another device causes while the CLGO is saved with its crew is taken when it is back in its dock. -/
def State.collOwe (s : State) (n : Nat) (code : FaultCode) : State :=
  if (s.collCmd (s.slot n)).isSome then s.collHalt n code noIndex
  else if (s.slot n).runs then s.updSlot n fun x => { x with owed := some code }
  else s

/-- An instance waits for a page (R398). -/
def State.collPage (s : State) (n page : Nat) (access : BitVec 4) (index : Nat) : State :=
  s.atQuay (s.slot n).goQuay fun s => s.pageStop (s.slot n).seq page access index

def State.collStop (s : State) (n : Nat) (h : Stop) (index : Nat) : State :=
  match h with
  | .fault c => s.collHalt n c index
  | .page p a => s.collPage n p a index
  | .wait => s

/-- The context of the engine's accesses: memory of the slot's slice. -/
def CollSlot.reacher (x : CollSlot) : Reacher := ⟨x.slice, 0, 0⟩

/-- The own source elements of global coordinates, once covered through DB's TM field (R417). -/
def State.collRead (s : State) (x : CollSlot) (gs : List (List Nat)) : Except Stop (Option (List Nat)) :=
  let off := (x.srcBox (x.meshRank s.devId)).map Prod.fst
  let cs := gs.map fun g => List.zipWith (fun (a b : Nat) => a - b) g off
  match ({ s with here := x.quay } : State).allCovered (if x.db.tm = 0xFF then [] else cs.map fun c => (x.db, 0, c)) with
  | .error f => .error (.fault f)
  | .ok false => .ok none
  | .ok true => (cs.mapM fun c => s.readPlace x.reacher x.db (x.db.place c)).map some

/-- Writes an element of DA by global coordinates; no comparator of a quay watches it (R304). -/
def State.collPut (s : State) (x : CollSlot) (g : List Nat) (v : Nat) : Reach State :=
  let off := (x.dstBox (x.meshRank s.devId)).map Prod.fst
  let c := List.zipWith (fun (a b : Nat) => a - b) g off
  match ({ s with here := 320 } : State).writePlace x.reacher x.da (x.da.place c) v with
  | .ok t => .ok { t with here := s.here }
  | .error h => .error h

/-- The physical addresses of elements of DA or DB by global coordinates. -/
def State.collAddrs (s : State) (x : CollSlot) (isA : Bool) (gs : List (List Nat)) : List Nat :=
  let r := if isA then x.da else x.db
  let off := ((if isA then x.dstBox else x.srcBox) (x.meshRank s.devId)).map Prod.fst
  gs.flatMap fun g =>
    match ({ s with here := 320 } : State).elemLocs x.reacher r (r.place (List.zipWith (fun (a b : Nat) => a - b) g off)) isA with
    | .ok ls => physAddrs ls
    | .error _ => []

/-- The packets of the engine's reads of DB, and of what it has written into DA, in peers' memories (R383). -/
def State.collAsk (s : State) (x : CollSlot) (gs : List (List Nat)) : State :=
  let as := s.collAddrs x false gs
  if (s.peersOf as).isEmpty then s
  else s.atQuay x.goQuay fun s => let (age, s) := s.nextAge; s.askReads (.command x.seq) 0 age as

def State.collTell (s : State) (x : CollSlot) (gs : List (List Nat)) : State :=
  let as := s.collAddrs x true gs
  if (s.peersOf as).isEmpty then s
  else s.atQuay x.goQuay fun s =>
    let (age, s) := s.nextAge
    s.sendWrites (.command x.seq) 0 age (as.map fun a => (a, s.readByte a))

/-- The walk index in DA of global coordinates. -/
def CollSlot.daIndex (x : CollSlot) (dev : Nat) (g : List Nat) : Nat :=
  x.da.walkIndex (List.zipWith (fun (a b : Nat) => a - b) g ((x.dstBox (x.meshRank dev)).map Prod.fst))

/-- Writes elements in order: the state, the walk indices written, and the stop with its index. -/
def State.collPutEach (s : State) (x : CollSlot) : List (List Nat × Nat) → State × List Nat × Option (Stop × Nat)
  | [] => (s, [], none)
  | (g, v) :: t =>
    let i := x.daIndex s.devId g
    match s.collPut x g v with
    | .error h => (s, [], some (h, i))
    | .ok s =>
      let (s, l, h) := s.collPutEach x t
      (s, i :: l, h)

/-- Writes elements of a block in order, with the packets of those that lie in a peer's memory. -/
def State.collPutAll (s : State) (x : CollSlot) (es : List (List Nat × Nat)) : State × List Nat × Option (Stop × Nat) :=
  let (s, l, h) := s.collPutEach x es
  (s.collTell x ((es.take l.length).map Prod.fst), l, h)

/-- The written prefix grows over indices written before (R396). -/
def CollSlot.grow (x : CollSlot) : Nat → CollSlot
  | 0 => x
  | k + 1 => if x.wrote.contains x.filled then
      ({ x with wrote := x.wrote.filter fun i => i != x.filled, filled := x.filled + 1 }).grow k else x

/-- An instance has made progress, for its command's waits (R241). -/
def State.collMoved (s : State) (n : Nat) : State :=
  let x := s.slot n
  s.atQuay x.goQuay fun s => s.progress x.seq

/-- Takes note of written elements and publishes DA's tidemark (R234, R396). -/
def State.collPublish (s : State) (n : Nat) (l : List Nat) : State :=
  let s := s.updSlot n fun x =>
    let w := x.wrote ++ l.filter fun i => decide (x.filled ≤ i) && !x.wrote.contains i
    ({ x with wrote := w } : CollSlot).grow (w.length + 1)
  let x := s.slot n
  (if l.isEmpty then s else s.collMoved n).atQuay x.quay fun s =>
    s.publish x.tm (granulate x.da.gran x.da.count x.filled) (some (.collective n x.gen))

/-- A generation is active no longer once the own part is done and every participant has reported (R394). -/
def State.collFinish (s : State) (n g : Nat) : State :=
  let x := s.slot n
  if x.active.contains g && (g != x.gen || x.ownDone) && (x.participants s.devId).all fun d => x.reports.contains (g, d) then
    s.updSlot n fun x =>
      let a := x.active.filter fun y => y != g
      { x with active := a, reports := x.reports.filter fun r => r.1 != g
               st := if a.isEmpty && x.st == .active then .defined else x.st }
  else s

/-- Blocks that the instance receives in a reduce-scatter: those of every chunk but the one it sends first. -/
def CollSlot.rsBlocks (x : CollSlot) (dev : Nat) : Nat :=
  ((List.range (x.group dev).length).map fun o =>
    if o = x.rankOf dev then 0 else x.ownerBlocks dev o x.db.perm x.db.dir).sum

/-- The id of the block that a packet brings this device (R407). -/
def State.ownId (s : State) (p : CollPacket) : BlockId :=
  match p.coded with
  | some c => if c.recvA == s.devId then c.a else c.b
  | none => p.id

/-- The acknowledgement of a block that this device will not write again; one that meets an unusable trunk leaves with the next
credit. -/
def State.ackOld (s : State) (p : CollPacket) : State :=
  let id := s.ownId p
  if s.linkOk p.src then s.toDev p.src (.ack (.block p.slot p.gen s.devId id))
  else s.updSlot p.slot fun x => { x with acks := x.acks ++ [(p.src, p.gen, id)] }

/-- Packets of a generation whose own part is done repeat blocks that are written: they are acknowledged and held no longer
(R418). -/
def State.dropHeld (s : State) (n g : Nat) : State :=
  let old := (s.slot n).held.filter fun p => p.gen == g
  old.foldl State.ackOld (s.updSlot n fun x => { x with held := x.held.filter fun p => p.gen != g })

/-- The own part of an instance is complete (R397): CLGO completes and reports. A participant beyond an unusable trunk
halts it instead (R385, R398). -/
def State.collCheck (s : State) (n : Nat) : State :=
  let x := s.slot n
  let done : Bool := (vget {} (s.quayAt x.quay).tms x.tm).st == .done && x.fork.isEmpty && x.unacked.isEmpty && x.localLeft.isEmpty
    && (!x.isRs || (x.group s.devId).length ≤ 1 || decide (x.rsBlocks s.devId ≤ x.got.length))
  match s.collCmd x with
  | none => s
  | some d =>
    if !(s.collLive x && done) then s
    else if !(x.participants s.devId).all s.linkOk then s.collHalt n .linkDown noIndex
    else
      let s := (s.updSlot n fun x => { x with ownDone := true }).dropHeld n x.gen
      let s := s.atQuay x.goQuay fun s => s.complete d
      let s := (x.participants s.devId).foldl (fun s p => s.toDev p (.completion n x.gen)) s
      s.collFinish n x.gen

/-- The handler of an owner's contribution, or of DA (R17, R396). -/
def State.collHandler (s : State) (n owner sender quay : Nat) (gs : List (List Nat)) : State :=
  let x := s.slot n
  let hq := descField x.desc 0x24 2 % 512
  let off := (x.dstBox (x.meshRank s.devId)).map Prod.fst
  let addrs := gs.map fun g => ((x.da.place (List.zipWith (fun (a b : Nat) => a - b) g off)).1 % 2 ^ 64).toNat
  let lo := addrs.foldl Nat.min (2 ^ 64 - 1)
  match x.crew.bind s.crew with
  | some c =>
    if c.onQuay hq then
      let a : Arrival :=
        { crew := c.id, pc := BitVec.ofNat 32 (descField x.desc 0x28 4)
          x := #v[BitVec.ofNat 64 lo, BitVec.ofNat 64 ((gs.length * x.da.elemBits + 7) / 8)
                , BitVec.ofNat 64 (sender % 64 + quay % 512 * 64), BitVec.ofNat 64 (descField x.desc 0x2C 4), BitVec.ofNat 64 owner
                , BitVec.ofNat 64 x.gen] }
      s.putQuay hq { s.quayAt hq with arrivals := (s.quayAt hq).arrivals ++ [a] }
    else s
  | none => s

/-- Starts the handler that a written block completes: of its owner under all-gather and all-to-all, else of DA (R396). -/
def State.collArrived (s : State) (n owner sender quay perm dir : Nat) : State :=
  let x := s.slot n
  let dev := s.devId
  let all := (List.range x.da.count).map fun i =>
    List.zipWith (fun (a b : Nat) => a + b) (x.da.coords i) ((x.dstBox (x.meshRank dev)).map Prod.fst)
  if !(descField x.desc 0x24 2).testBit 15 then s
  else match x.kindAxes.1 with
    | .reduceScatter | .permutation =>
      if x.filled = x.da.count && !x.handled.contains 64 then
        (s.updSlot n fun x => { x with handled := 64 :: x.handled }).collHandler n owner sender quay all
      else s
    | _ =>
      if (x.got.filter fun g => g.1 == owner).length = x.ownerBlocks dev owner perm dir && !x.handled.contains owner then
        (s.updSlot n fun x => { x with handled := owner :: x.handled }).collHandler n owner sender quay
          (x.piece dev owner (x.meshRank dev) perm dir)
      else s

/-! ### Element data of blocks (R54, R76, R392) -/

/-- The bits of an element on the wire: running values of BF16 and FP16 travel as FP32. -/
def CollSlot.wireBits (x : CollSlot) : Nat :=
  if x.isRs && (x.da.fmt == 3 || x.da.fmt == 4) then 32 else x.da.elemBits

def packElems (bits : Nat) (vs : List Nat) : List Byte :=
  leBytes ((vs.length * bits + 7) / 8) (vs.reverse.foldl (fun n v => n * 2 ^ bits + v % 2 ^ bits) 0)

def unpackElems (bits k : Nat) (bs : List Byte) : List Nat :=
  let n := ofLeBytes bs
  (List.range k).map fun i => field n (i * bits) bits

/-- Whether running values are sums of a floating-point format, whose special terms decide the result as a set (R75). -/
def CollSlot.sums (x : CollSlot) : Bool := x.mesh.op == 1 && [3, 4, 5].contains x.da.fmt

/-- The special terms that a value adds: 1 a NaN, 2 +infinity, 4 -infinity. -/
def Val.special : Val → Nat
  | .nan => 1
  | .inf neg => if neg then 4 else 2
  | .fin _ _ _ => 0

/-- The value that special terms give (R75). -/
def specialVal (m : Nat) : Val := if m % 2 = 1 || m / 2 = 3 then .nan else .inf (m == 4)

/-- A value of the source as it runs round the ring, with its special term: BF16 and FP16 run as FP32 (R76). -/
def CollSlot.toRun (x : CollSlot) (v : Nat) : Nat × Nat :=
  match Fmt.ofCode x.da.fmt with
  | some f =>
    if x.sums && Val.special (f.value v) != 0 then (0, Val.special (f.value v))
    else if x.da.fmt == 3 || x.da.fmt == 4 then ((roundFp32 (f.value v)).1, 0)
    else (v, 0)
  | none => (v, 0)

/-- The bits that a running value has on the wire. -/
def wireVal (r : Nat × Nat) : Nat := if r.2 = 0 then r.1 else (Fmt.fp32.round .rne 0 none (specialVal r.2)).1

/-- A running value as it is written: rounded once, with RNE (R76). -/
def CollSlot.fromRun (x : CollSlot) (r : Nat × Nat) : Nat × FpFlags :=
  if x.da.fmt == 3 || x.da.fmt == 4 then match Fmt.ofCode x.da.fmt with
    | some f => f.round .rne 0 none (if r.2 = 0 then Fmt.fp32.value r.1 else specialVal r.2)
    | none => (r.1, 0)
  else (wireVal r, 0)

/-- A running value combined with the own contribution under OP (R75, R388, R393). A sum that becomes invalid by its set of
terms raises IV then (DEDUCED, log 112). -/
def CollSlot.combineRun (x : CollSlot) (run own : Nat × Nat) : (Nat × Nat) × FpFlags :=
  let m := run.2 ||| own.2
  if m ≠ 0 then ((0, m), flagIf (m == 6 && run.2 != 6 && own.2 != 6) flIV)
  else
    let t : RedTy := if x.da.fmt == 3 || x.da.fmt == 4 then .f32 else .fmt x.da.fmt
    let op : RedOp := if x.mesh.op = 1 then .add else redOp x.mesh.op
    let (r, f) := combine op t (BitVec.ofNat 64 run.1) (BitVec.ofNat 64 own.1)
    ((r.toNat, 0), f)

/-- The data of a block of this device's fork, as wire values: a running value with its special terms, or the own source. -/
def State.forkData (s : State) (x : CollSlot) (b : ForkBlock) : Except Stop (Option (Nat × Nat × List (Nat × Nat))) :=
  match x.runvals.find? fun r => r.1 == b.id with
  | some (_, p, d, vs) => .ok (some (p, d, vs))
  | none =>
    let gs := x.elems s.devId (x.meshRank b.recv) b.id x.db.perm x.db.dir
    (s.collRead x gs).map fun o => o.map fun vs => (x.db.perm, x.db.dir, if x.isRs then vs.map x.toRun else vs.map fun v => (v, 0))

/-- The packets of the reads of a block of this device's fork. -/
def State.forkAsk (s : State) (x : CollSlot) (b : ForkBlock) : State :=
  if x.runvals.any fun r => r.1 == b.id then s
  else s.collAsk x (x.elems s.devId (x.meshRank b.recv) b.id x.db.perm x.db.dir)

/-! ### Writing arriving blocks (R393, R395, R396) -/

/-- The acknowledgement of a block goes to the device that sent it (R397); one that meets an unusable trunk halts the
instance, which sends it when it is resumed (R385, R398). -/
def State.ackBlock (s : State) (p : CollPacket) : State :=
  let t := s.ackOld p
  if !s.linkOk p.src && (s.slot p.slot).runs then t.collOwe p.slot .linkDown else t

/-- A packet is put before those that wait in the slot. -/
def State.holdFirst (s : State) (n : Nat) (p : CollPacket) : State := s.updSlot n fun x => { x with held := p :: x.held }

/-- A block that stops is held unacknowledged, and the instance stops with it (R398). -/
def State.collBlocked (s : State) (n : Nat) (p : CollPacket) (h : Stop) (index : Nat) : State :=
  (s.holdFirst n p).collStop n h index

/-- A block is written into DA (R396); only then it counts in RECEIVED, and a decoded one in DECODED (R415). -/
def State.writeBlock (s : State) (p : CollPacket) (gs : List (List Nat)) (vs : List Nat) : State :=
  let n := p.slot
  let (s, l, stop) := s.collPutAll (s.slot n) (gs.zip vs)
  let s := s.collPublish n l
  match stop with
  | some (h, i) => s.collBlocked n p h i
  | none =>
    let s := s.updSlot n fun x => { x with
      received := x.received + 1, decoded := if p.lit then x.decoded + 1 else x.decoded, got := x.got ++ [(p.id.owner, p.id.num)] }
    ((s.ackBlock p).collArrived n p.id.owner p.src p.srcQuay p.perm p.dir).collCheck n

/-- Raises flags of an instance in its CLGO, which gives them to its strand (R393). -/
def State.collFlags (s : State) (n : Nat) (f : FpFlags) : State :=
  let x := s.slot n
  s.atQuay x.goQuay fun s => s.updCmd x.seq fun d => { d with flags := d.flags ||| f }

/-- A running value arrives (R393): it is combined with the own contribution, and sent on or written. -/
def State.takeRun (s : State) (p : CollPacket) : State :=
  let n := p.slot
  let x := s.slot n
  let dev := s.devId
  let gs := x.elems dev (x.meshRank dev) p.id p.perm p.dir
  match s.collRead x gs with
  | .error h => s.collBlocked n p h noIndex
  | .ok none => s.holdFirst n p
  | .ok (some own) =>
    let s := s.collAsk x gs
    let run := (unpackElems x.wireBits gs.length p.data).mapIdx fun i v => (v, p.terms.getD i 0)
    let rs := List.zipWith (fun r o => x.combineRun r (x.toRun o)) run own
    let s := s.collFlags n (rs.foldl (fun f r => f ||| r.2) 0)
    if x.chunkOf dev p.id.owner = x.rankOf dev then
      let ws := rs.map fun r => x.fromRun r.1
      (s.collFlags n (ws.foldl (fun f r => f ||| r.2) 0)).writeBlock p gs (ws.map Prod.fst)
    else
      let grp := x.group dev
      let b : ForkBlock := { recv := x.devOf (grp.getD ((x.rankOf dev + 1) % Nat.max 1 grp.length) 0), id := p.id }
      let s := s.updSlot n fun x =>
        { x with runvals := x.runvals ++ [(p.id, p.perm, p.dir, rs.map Prod.fst)], fork := x.fork ++ [b]
                 unacked := x.unacked ++ [b], got := x.got ++ [(p.id.owner, p.id.num)] }
      (s.ackBlock p).collCheck n

/-- An uncoded block of the running generation is processed; one met before is only acknowledged. -/
def State.takeBlock (s : State) (p : CollPacket) : State :=
  let x := s.slot p.slot
  if x.got.contains (p.id.owner, p.id.num) then s.ackBlock p
  else if x.isRs then s.takeRun p
  else
    let gs := x.elems s.devId (x.meshRank s.devId) p.id p.perm p.dir
    s.writeBlock p gs (unpackElems x.da.elemBits gs.length p.data)

/-- A packet of the running generation is processed: a coded one goes into a lighter, when one of the 64 is free (R408; a packet
that finds none waits without credit: DEDUCED, log 110). -/
def State.takePacket (s : State) (p : CollPacket) : Option State :=
  match p.coded with
  | some _ => if s.lighters.length < 64 then some { s with lighters := s.lighters ++ [p] } else none
  | none => some (s.takeBlock p)

/-- Processes the packets held for the running generation, in order, as far as it runs. -/
def State.takeHeld (s : State) (n : Nat) : Nat → State
  | 0 => s
  | k + 1 =>
    let x := s.slot n
    if !s.collLive x then s
    else match x.held.find? fun p => p.gen == x.gen with
      | none => s
      | some p => match (s.updSlot n fun x => { x with held := dropFirst (fun q => q == p) x.held }).takePacket p with
        | some t => t.takeHeld n k
        | none => s

/-- How many packets wait for the next generation. -/
def CollSlot.nextHeld (x : CollSlot) : Nat := (x.held.filter fun p => p.gen == (x.gen + 1) % 16).length

/-- Accepts a packet by its generation (R395); none when credit is withheld, which a crew that is saved does too (R398). One
of an active generation whose own part is done has been written before, one of a generation that ended is dropped (log
56). -/
def State.acceptPacket (s : State) (p : CollPacket) : Option State :=
  let x := s.slot p.slot
  let hold := s.updSlot p.slot fun x => { x with held := x.held ++ [p] }
  if x.active.contains p.gen then
    if p.gen ≠ x.gen || x.ownDone then some (s.ackBlock p)
    else if s.collSaved x then none
    else if !s.collLive x || x.held.any (fun q => q.gen == p.gen) then some hold
    else s.takePacket p
  else if p.gen = (x.gen + 1) % 16 then
    if x.nextHeld < 16 then some hold else none
  else if p.gen = (x.gen + 2) % 16 then none
  else some s

/-- A collective packet meets its slot: one that is not assigned discards it, counts a link error and refuses it (R395). -/
def State.meetSlot (s : State) (p : CollPacket) : Option State :=
  if p.slot ≥ 64 then some s
  else if !(s.slot p.slot).assigned then
    some (({ s with linkErrors := s.linkErrors + 1 } : State).toDev p.src (.refusal p.slot p.gen))
  else s.acceptPacket p

/-- What waits at the previous hop of a link on virtual channel 2 (R395). -/
def State.withholds (s : State) (port : Fin 18) : Bool := !(s.ports.get port).withheld.isEmpty

/-- A link item is withheld behind those that wait already. -/
def State.withhold (s : State) (port : Fin 18) (i : LinkItem) : State :=
  let p := s.ports.get port
  s.putPort port.val { p with withheld := p.withheld ++ [i] }

/-- A packet arrives over a link: it is accepted, or stays at the previous hop, and with it all behind it on virtual channel 2
of that link (R395). -/
def State.arrivePacket (s : State) (port : Fin 18) (p : CollPacket) : State :=
  if s.withholds port then s.withhold port (.msg (.data p))
  else match s.meetSlot p with
    | some s => s
    | none => s.withhold port (.msg (.data p))

/-- COLLECTIVE_PACKET_ARRIVE (R395). -/
def execCollectivePacketArrive (p : PacketAt) (s : State) : Out := .next (s.arrivePacket p.port p.packet)

/-! ### Sending (R383, R393, R399, R406, R407) -/

/-- An uncoded packet of a block. -/
def CollSlot.packet (x : CollSlot) (n dev : Nat) (b : ForkBlock) (o : Nat × Nat × List (Nat × Nat)) : CollPacket :=
  { slot := n, gen := x.gen, src := dev, srcQuay := x.goQuay, id := b.id, data := packElems x.wireBits (o.2.2.map wireVal)
    coded := none, perm := o.1, dir := o.2.1, terms := if x.isRs then o.2.2.map Prod.snd else [] }

/-- Whether the slot may send now: in deterministic mode the local copies come first (R399). -/
def State.maySend (s : State) (x : CollSlot) : Bool := s.collLive x && (x.localLeft.isEmpty || !s.collDet x)

/-- Sends the oldest block of the fork uncoded. -/
def State.sendUncoded (s : State) (n : Nat) (b : ForkBlock) : State :=
  let x := s.slot n
  if !s.linkOk b.recv then s.collHalt n .linkDown noIndex
  else match s.forkData x b with
    | .error h => s.collStop n h noIndex
    | .ok none => s
    | .ok (some o) =>
      let s := (s.forkAsk x b).updSlot n fun x =>
        { x with fork := dropFirst (fun y => y == b) x.fork, uncoded := if b.resend then x.uncoded else x.uncoded + 1 }
      ((s.toDev b.recv (.data (x.packet n s.devId b o))).collMoved n).collCheck n

/-- FORK_BLOCK_SEND (R393): the next block of a fork without CODE, and of a reduce-scatter. -/
def execForkBlockSend (slot : Fin 64) (s : State) : Out :=
  let x := s.slot slot.val
  if !s.maySend x || (x.code && !x.isRs) then .next s
  else match x.fork with
    | [] => .next s
    | b :: _ => .next (s.sendUncoded slot.val b)

/-- The holdings that the coder reads: in deterministic mode those at the start (R399). -/
def State.coderHoldings (s : State) (x : CollSlot) : List (Nat × Nat × BlockId × Nat) :=
  if s.collDet x then x.snapHoldings else x.holdings

/-- The manifest index and GEN under which a device holds a block (R405). -/
def holdsOf (h : List (Nat × Nat × BlockId × Nat)) (dev : Nat) (id : BlockId) : Option (Nat × Nat) :=
  (h.find? fun e => e.1 == dev && e.2.2.1 == id).map fun e => (e.2.1, e.2.2.2)

/-- The partner of the oldest block in the window of 32 (R406): the block, where its receiver's partner holds it, and where
the partner's receiver holds the oldest. -/
def partner (h : List (Nat × Nat × BlockId × Nat)) (a : ForkBlock) (w : List ForkBlock) :
    Option (ForkBlock × (Nat × Nat) × (Nat × Nat)) :=
  if a.resend then none
  else w.findSome? fun b =>
    if b.recv == a.recv || b.resend then none
    else match holdsOf h a.recv b.id, holdsOf h b.recv a.id with
      | some u, some v => some (b, u, v)
      | _, _ => none

/-- Pads to a block's 4,096 bytes. -/
def padBlock (bs : List Byte) : List Byte := bs ++ List.replicate (4096 - bs.length) 0

/-- Sends the oldest block XORed with its partner, as one packet that is copied where the routes part (R406, R407). -/
def State.sendCoded (s : State) (n : Nat) (a b : ForkBlock) (u v : Nat × Nat) : State :=
  let x := s.slot n
  if !s.linkOk a.recv || !s.linkOk b.recv then s.collHalt n .linkDown noIndex
  else match s.forkData x a, s.forkData x b with
    | .error h, _ => s.collStop n h noIndex
    | _, .error h => s.collStop n h noIndex
    | .ok (some o), .ok (some p) =>
      let da := packElems x.wireBits (o.2.2.map wireVal)
      let db := packElems x.wireBits (p.2.2.map wireVal)
      let d : CodedDesc :=
        { a := a.id, b := b.id, recvA := a.recv, recvB := b.recv, lenA := da.length - 1, lenB := db.length - 1
          idxB := u.1, genB := u.2, idxA := v.1, genA := v.2 }
      let pkt : CollPacket :=
        { slot := n, gen := x.gen, src := s.devId, srcQuay := x.goQuay, id := a.id
          data := List.zipWith (fun y z => y ^^^ z) (padBlock da) (padBlock db), coded := some d, perm := o.1, dir := o.2.1 }
      let s := ((s.forkAsk x a).forkAsk x b).updSlot n fun x =>
        { x with fork := x.fork.filter fun y => y != a && y != b, codedN := x.codedN + 1 }
      ((s.toBoth a.recv b.recv (.data pkt)).collMoved n).collCheck n
    | _, _ => s

/-- CODER_PACKET (R406). -/
def execCoderPacket (slot : Fin 64) (s : State) : Out :=
  let x := s.slot slot.val
  if !s.maySend x || !x.code || x.isRs then .next s
  else match x.fork with
    | [] => .next s
    | a :: rest => match partner (s.coderHoldings x) a (rest.take 31) with
      | some (b, u, v) => .next (s.sendCoded slot.val a b u v)
      | none => .next (s.sendUncoded slot.val a)

/-- LOCAL_COPY_WRITE (R393): a block of the own part goes into the own DA. -/
def execLocalCopyWrite (slot : Fin 64) (s : State) : Out :=
  let n := slot.val
  let x := s.slot n
  match x.localLeft with
  | [] => .next s
  | b :: rest =>
    if !s.collLive x then .next s
    else
      let gs := x.elems s.devId (x.meshRank s.devId) b.id x.db.perm x.db.dir
      match s.collRead x gs with
      | .error h => .next (s.collStop n h noIndex)
      | .ok none => .next s
      | .ok (some vs) =>
        let (s, l, stop) := (s.collAsk x gs).collPutAll x (gs.zip vs)
        let s := s.collPublish n l
        match stop with
        | some (h, i) => .next (s.collStop n h i)
        | none =>
          let s := s.updSlot n fun x => { x with localLeft := rest, got := x.got ++ [(b.id.owner, b.id.num)] }
          .next ((s.collArrived n b.id.owner s.devId x.goQuay x.db.perm x.db.dir).collCheck n)

/-! ### Lighters (R404, R408) -/

/-- A manifest entry: id, address, GEN, VALID; none when it cannot be read. -/
def State.manifestEntry (s : State) (x : CollSlot) (i : Nat) : Option (BlockId × Nat × Nat × Bool) :=
  match x.manifest with
  | none => none
  | some m => match s.readRange x.reacher ((m.toNat + 32 * i : Nat) : Int) 32 with
    | .error _ => none
    | .ok bs =>
      let n := ofLeBytes bs
      some (⟨field n 40 24, field n 34 6, field n 0 34⟩, field n 64 64, field n 128 32, n.testBit 160)

/-- The decoded bytes of the own block of a coded packet, or none when the manifest is stale. -/
def State.decodeCoded (s : State) (x : CollSlot) (p : CollPacket) (c : CodedDesc) : Option (BlockId × List Byte) :=
  let mine : Bool := c.recvA == s.devId
  let (id, y, len, idx, gen) := if mine then (c.a, c.b, c.lenA + 1, c.idxB, c.genB) else (c.b, c.a, c.lenB + 1, c.idxA, c.genA)
  match s.manifestEntry x idx with
  | none => none
  | some (eid, addr, egen, valid) =>
    if !valid || eid != y || egen != gen then none
    else match s.readRange x.reacher (addr : Int) 4096 with
      | .error _ => none
      | .ok bs => some (id, (List.zipWith (fun a b => a ^^^ b) p.data bs).take len)

/-- Takes the k-th coded packet out of its lighter. -/
def State.freeLighter (s : State) (k : Nat) : State := { s with lighters := listErase s.lighters k }

/-- LIGHTER_DECODE (R408): the k-th coded packet is decoded and its block written; a stale one is NACKed, or is
MANIFEST_STALE with NOFB. A NACK that meets an unusable trunk halts the instance with LINK_DOWN (R398), and the packet stays in its
lighter. A block met before is only acknowledged. -/
def execLighterDecode (k : Nat) (s : State) : Out :=
  match s.lighters[k]? with
  | none => .next s
  | some p =>
    let x := s.slot p.slot
    if !s.collLive x then .next s
    else match p.coded with
      | none => .next (s.freeLighter k)
      | some c =>
        let own := s.ownId p
        if p.gen ≠ x.gen || x.got.contains (own.owner, own.num) then .next ((s.freeLighter k).ackBlock p)
        else match s.decodeCoded x p c with
          | none =>
            if x.nofb then .next ((s.freeLighter k).collHalt p.slot .manifestStale noIndex)
            else if !s.linkOk p.src then .next (s.collHalt p.slot .linkDown noIndex)
            else
              let s := (s.freeLighter k).updSlot p.slot fun x => { x with nackout := x.nackout + 1 }
              .next (s.toDev p.src (.nack p.slot own))
          | some (id, bs) => .next ((s.freeLighter k).takeBlock { p with id := id, data := bs, coded := none, lit := true })

/-- NACK_ARRIVE (R408): the block is sent again, uncoded, now or as the first of the fork once the instance can send. -/
def execNackArrive (slot : Fin 64) (receiver : Nat) (id : BlockId) (s : State) : Out :=
  let n := slot.val
  let x := s.slot n
  let mine := fun (b : ForkBlock) => b.recv == receiver && b.id == id
  if !x.unacked.any mine then .next s
  else
    let b : ForkBlock := { recv := receiver, id := id, resend := true }
    let s := s.updSlot n fun x =>
      { x with resent := x.resent + 1, unacked := x.unacked.map fun y => if mine y then b else y }
    let later := s.updSlot n fun x => { x with fork := b :: x.fork.filter fun y => !mine y }
    if !s.collLive x then .next later
    else if !s.linkOk receiver then .next (later.collHalt n .linkDown noIndex)
    else match s.forkData x b with
      | .ok (some o) => .next ((s.forkAsk x b).toDev receiver (.data (x.packet n s.devId b o)))
      | _ => .next later

/-! ### Messages between engines (R394, R395, R397, R405, R416) -/

/-- HOLDINGS_ARRIVE (R405): the triples replace those of the range; the sender is acknowledged. -/
def execHoldingsArrive (slot : Fin 64) (src first count : Nat) (triples : List (Nat × BlockId × Nat)) (s : State) : Out :=
  let old := fun (e : Nat × Nat × BlockId × Nat) => e.1 == src && decide (first ≤ e.2.1) && decide (e.2.1 < first + count)
  let s := s.updSlot slot.val fun x =>
    { x with holdings := (x.holdings.filter fun e => !old e) ++ triples.map fun t => (src, t.1, t.2.1, t.2.2) }
  .next (s.toDev src (.ack (.holdings slot.val s.devId)))

/-- DIGEST_ARRIVE (R394): a digest of the running generation is compared now, and a differing one faults its CLGO; one of
the next two generations is compared when its CLGO starts. -/
def execDigestArrive (slot : Fin 64) (src gen : Nat) (digest : Word) (s : State) : Out :=
  let n := slot.val
  let x := s.slot n
  if gen = x.gen && x.active.contains gen then
    if (x.participants s.devId).contains src && digest != descDigest x.desc then .next (s.collOwe n .layoutPair)
    else .next s
  else if gen = (x.gen + 1) % 16 || gen = (x.gen + 2) % 16 then
    .next (s.updSlot n fun x => { x with digests := x.digests ++ [(src, gen, digest)] })
  else .next s

/-- COMPLETION_REPORT_ARRIVE (R394, R397). -/
def execCompletionReportArrive (slot : Fin 64) (src gen : Nat) (s : State) : Out :=
  let s := s.updSlot slot.val fun x => { x with reports := (gen, src) :: x.reports.filter fun r => r != (gen, src) }
  .next (s.collFinish slot.val gen)

/-- An instance of a generation is abandoned (R416): its CLGO leaves the dock, DA's tidemark enters ABANDON, held packets of
the generation are dropped, and the slot is DEFINED; an older generation leaves the newest one's state. -/
def State.collCancel (s : State) (n g : Nat) : State :=
  let x := s.slot n
  let s := if g = x.gen then
      let s := match s.collCmd x with
        | some d => s.atQuay x.goQuay fun s => s.retireCmd d
        | none => s
      if x.ownDone || (vget {} (s.quayAt x.quay).tms x.tm).writer != some (.collective n g) then s
      else s.atQuay x.quay fun s => s.abandonTm x.tm false
    else s
  let s := { s with lighters := s.lighters.filter fun p => !(p.slot == n && p.gen == g) }
  s.updSlot n fun x =>
    { x with
      active := x.active.filter fun y => y != g, reports := x.reports.filter fun r => r.1 != g
      st := if g = x.gen || (x.st == .active && x.active.all fun y => y == g) then .defined else x.st
      ownDone := if g = x.gen then true else x.ownDone, held := x.held.filter fun p => p.gen != g
      fork := if g = x.gen then [] else x.fork, unacked := if g = x.gen then [] else x.unacked
      localLeft := if g = x.gen then [] else x.localLeft, runvals := if g = x.gen then [] else x.runvals
      acks := x.acks.filter fun a => a.2.1 != g, owed := if g = x.gen then none else x.owed }

/-- CANCEL_ARRIVE (R416). -/
def execCancelArrive (slot : Fin 64) (src gen : Nat) (s : State) : Out :=
  let n := slot.val
  let s := if (s.slot n).active.contains gen then s.collCancel n gen else s
  .next (s.toDev src (.ack (.cancel n gen s.devId)))

/-- COLLECTIVE_REFUSAL (R395): the sending CLGO takes PERMISSION. -/
def execCollectiveRefusal (slot : Fin 64) (src gen : Nat) (s : State) : Out :=
  let x := s.slot slot.val
  if gen = x.gen && x.runs && (x.participants s.devId).contains src then .next (s.collOwe slot.val .permission) else .next s

/-- An acknowledged block (R397). -/
def State.blockAck (s : State) (n gen receiver : Nat) (id : BlockId) : State :=
  if gen ≠ (s.slot n).gen then s
  else
    let other := fun (b : ForkBlock) => !(b.recv == receiver && b.id == id)
    (s.updSlot n fun x => { x with unacked := x.unacked.filter other, fork := x.fork.filter other }).collCheck n

/-- A command of a slot that waits for a participant's acknowledgement: its quay and entry. -/
def State.waitingFor (s : State) (op slot dev : Nat) : Option (Nat × DockEntry) :=
  s.quays.findSome? fun e =>
    (e.2.dock.find? fun d => d.opc == op && d.started && d.fn % 64 == slot && d.words.contains dev).map fun d => (e.1, d)

/-- A participant has acknowledged holdings or a cancel: the command completes with the last (R414, R416). -/
def State.peerAck (s : State) (op slot dev : Nat) : State :=
  match s.waitingFor op slot dev with
  | none => s
  | some (q, d) =>
    s.atQuay q fun s =>
      let left := d.words.filter fun x => x != dev
      if left.isEmpty && d.phase == .running then s.complete d else s.updCmd d.seq fun d => { d with words := left }

/-- A command sends a message to the participants that have not acknowledged it, and runs until all have; one beyond an
unusable trunk stops it with LINK_DOWN, and it sends again when it is resumed (R385, R414, R416). -/
def State.askPeers (s : State) (d : DockEntry) (ps : List Nat) (m : NetMsg) : State :=
  let s := (ps.filter s.linkOk).foldl (fun s p => s.toDev p m) s
  let s := s.updCmd d.seq fun d => { d with phase := .running, started := true, words := ps }
  if !ps.all s.linkOk then s.cmdFault d.seq .linkDown noIndex
  else if ps.isEmpty then match s.cmd? d.seq with
    | some d => s.complete d
    | none => s
  else s

/-! ### CLDEF (R391, R410) -/

/-- The slot that a command names, assigned to its slice (R387). -/
def State.ownSlot (s : State) (d : DockEntry) : Except FaultCode Unit :=
  let x := s.slot (d.fn % 64)
  if x.assigned && x.slice == d.slice then .ok () else .error .permission

/-- The checks of a scratchpad offset in e[PA]. -/
def spOffset (pa : Word) (align : Nat) : Except FaultCode Unit :=
  if field pa.toNat 22 42 ≠ 0 then .error .reservedField
  else if pa.toNat % align ≠ 0 then .error .misaligned
  else .ok ()

def cldefEntry (d : DockEntry) (s : State) : Except FaultCode State := do
  spOffset d.pa 128
  s.ownSlot d
  let (s, a) ← s.record d d.o.da.val
  let (s, b) ← s.record d d.o.db.val
  pure (s.updCmd d.seq fun d => { d with recA := some a, recB := some b })

/-- A record describes a shard (R391). -/
def recordFits (m : Mesh) (r : Layout) (b : List (Nat × Nat)) : Bool :=
  !r.sp && r.rank == m.rank && r.fmt == m.fmt && (r.ext.take r.rank) == b.map Prod.snd

/-- The checks of R388 to R391. -/
def State.descCheck (s : State) (desc : BitVec 1024) (a b : Layout) : Except FaultCode Unit := do
  if descReserved desc then throw .reservedField
  let m := meshOf desc
  if !m.shapeOk s desc || !m.layoutOk m.src || !m.layoutOk m.dst then throw .layoutPair
  let (k, _) ← m.exchange
  let c := m.coord (m.members.findIdx fun d => d == s.devId)
  if !m.opOk k || !recordFits m a (m.box m.dst c) || !recordFits m b (m.box m.src c) then throw .layoutPair

def cldefAct (d : DockEntry) (s : State) : Except FaultCode State :=
  let n := d.fn % 64
  let x := s.slot n
  if !(x.st == .undef || x.st == .defined) || !x.active.isEmpty then .error .collOverlap
  else match s.readAt d.reacher true false (field d.pa.toNat 0 22 : Nat) 128 128 with
    | .error (.fault f) => .error f
    | .error _ => .ok s
    | .ok raw =>
      let desc := BitVec.ofNat 1024 raw
      let a := d.recA.getD {}
      let b := d.recB.getD {}
      match s.descCheck desc a b with
      | .error f => .error f
      | .ok () =>
        let s := s.updSlot n fun x =>
          { x with
            st := .defined, desc := desc, da := a, db := b, daIdx := d.o.da.val, tm := d.o.tm.val, quay := s.here, crew := d.crew
            uncoded := 0, codedN := 0, decoded := 0, nackout := 0, resent := 0, received := 0 }
        .ok (s.complete d)

/-! ### CLGO (R394, R396, R411) -/

/-- A CLGO is a chaser of DB's tidemark, which stands in the quay of the slot's CLDEF; another DB since replaces the registration
(R232, R411, R417). -/
def State.clgoChase (s : State) (d : DockEntry) : Except FaultCode State :=
  let x := s.slot (d.fn % 64)
  if x.st == .undef || d.recB == some x.db then .ok s
  else
    let s := (s.endChases d).updCmd d.seq fun e => { e with recB := some x.db, chases := [], away := none }
    if x.quay = s.here then s.joinChase d.seq x.db
    else do
      ({ s with here := x.quay } : State).joinable x.db
      if x.db.tm ≥ 64 then pure s
      else
        let s := s.updCmd d.seq fun e => { e with away := some (x.quay, x.db.tm) }
        pure (s.atQuay x.quay fun s => s.updQuay fun q =>
          { q with tms := vput q.tms x.db.tm { vget {} q.tms x.db.tm with chasers := (vget {} q.tms x.db.tm).chasers + 1 } })

def clgoEntry (d : DockEntry) (s : State) : Except FaultCode State := do
  s.ownSlot d
  s.clgoChase d

/-- The first element of DB, which a CLGO waits for before it starts (R239, R411). -/
def State.clgoFirst (s : State) (d : DockEntry) : List (Layout × Nat × List Nat) :=
  let x := s.slot (d.fn % 64)
  if d.started || x.st == .undef || x.st == .halted || x.db.tm = 0xFF then [] else [(x.db, 0, x.db.coords 0)]

/-- Sends the descriptor's digest to the participants that have not been sent it (R394); one beyond an unusable trunk halts
the instance (R398). -/
def State.sendDigests (s : State) (n seq : Nat) : State :=
  let x := s.slot n
  match s.cmd? seq with
  | none => s
  | some d =>
    let s := (d.words.filter s.linkOk).foldl (fun s p => s.toDev p (.digest n x.gen (descDigest x.desc))) s
    let left := d.words.filter fun p => !s.linkOk p
    let s := s.updCmd seq fun d => { d with words := left }
    if left.isEmpty then s else s.collHalt n .linkDown noIndex

/-- Starts an instance: the slot takes its generation, DA's tidemark is taken, the digest goes out, and the packets held for
it are processed (R394 to R396). -/
def State.clgoBegin (s : State) (n : Nat) (d : DockEntry) : State :=
  let x := s.slot n
  let g := (x.gen + 1) % 16
  let dev := s.devId
  let s := s.atQuay x.quay fun s =>
    (s.putTm x.tm ((s.tm x.tm).taken 0x51 d.ctx.val x.daIdx x.da.count x.da x.crew (.collective n g))).compareChasers x.tm
  let var := d.o.var.val
  let home := s.here
  let s := s.updSlot n fun x =>
    { x with
      gen := g, st := .active, active := x.active ++ [g], goQuay := home, seq := d.seq, code := var.testBit 0
      nofb := var.testBit 1, ownDone := false, localLeft := x.localOf dev, fork := x.forkOf dev, unacked := x.forkOf dev
      filled := 0, wrote := [], got := [], handled := [], runvals := [], snapHoldings := x.holdings
      digests := x.digests.filter fun t => t.2.1 != g }
  let op : Instr := .clgo { d.o with tm := Fin.ofNat 64 x.tm }
  let s := s.updCmd d.seq fun d => { d with phase := .running, started := true, op := op, words := x.participants dev }
  let s := s.sendDigests n d.seq
  (s.takeHeld n ((s.slot n).held.length + 1)).collCheck n

/-- Sends the acknowledgements that met an unusable trunk, as far as they can leave now. -/
def State.sendAcks (s : State) (n : Nat) : State :=
  let l := (s.slot n).acks
  let s := (l.filter fun a => s.linkOk a.1).foldl (fun s a => s.toDev a.1 (.ack (.block n a.2.1 s.devId a.2.2))) s
  s.updSlot n fun x => { x with acks := l.filter fun a => !s.linkOk a.1 }

/-- The fork of an instance that goes on after a halt (R398): its blocks that are not acknowledged, those sent before as resends,
which UNCODED does not count (R415). -/
def CollSlot.again (x : CollSlot) : List ForkBlock :=
  x.unacked.map fun b => (x.fork.find? fun y => y.recv == b.recv && y.id == b.id).getD { b with resend := true }

/-- A halted or waiting instance goes on (R398): DA's tidemark runs again, held blocks are processed, and of a halted one the
blocks that are not acknowledged are sent again. A fault that came while its crew was saved is taken now. After
MANIFEST_STALE only a CLCAN ends it (R408). -/
def State.clgoAgain (s : State) (n : Nat) (d : DockEntry) : State :=
  let x := s.slot n
  if x.st == .halted && x.fcode == FaultCode.manifestStale.code then
    s.updCmd d.seq fun d => { d with phase := .halted }
  else
    let s := match s.markOf d with
      | some (q, t) => s.atQuay q fun s => s.resumeTm t
      | none => s
    let s := s.updSlot n fun x =>
      { x with st := .active, fork := if x.st == .halted then x.again else x.fork, owed := none }
    let s := s.updCmd d.seq fun d => { d with phase := .running }
    match x.owed with
    | some c => s.collHalt n c noIndex
    | none =>
      let s := (s.sendAcks n).sendDigests n d.seq
      if !(s.slot n).acks.isEmpty && s.collLive (s.slot n) then s.collHalt n .linkDown noIndex
      else (s.takeHeld n ((s.slot n).held.length + 1)).collCheck n

/-- CLGO starts, faults, or waits (R394, R411). -/
def clgoStart (d : DockEntry) (s : State) : State :=
  let n := d.fn % 64
  let x := s.slot n
  if d.started then s.clgoAgain n d
  else if x.st == .undef then s.cmdFault d.seq .layoutPair noIndex
  else if x.st == .halted then s.cmdFault d.seq .collOverlap noIndex
  else if !x.ownDone || x.active.contains ((x.gen + 15) % 16) then s
  else
    let m := vget {} (s.quayAt x.quay).tms x.tm
    let g := (x.gen + 1) % 16
    if m.fol then s.cmdFault d.seq .permission noIndex
    else if m.pub && m.st == .done then s.cmdFault d.seq .tidemarkRewind noIndex
    else if !m.takable then s
    else if x.digests.any fun t => t.2.1 == g && (x.participants s.devId).contains t.1 && t.2.2 != descDigest x.desc then
      s.cmdFault d.seq .layoutPair noIndex
    else match s.clgoChase d with
      | .error f => s.cmdFault d.seq f noIndex
      | .ok s => s.clgoBegin n d

/-! ### MFPUB (R405, R414) -/

/-- The checks of R414. The listing of R423 to R427 publishes at 32-byte steps, which this rule refuses; the rule is followed (log
131). -/
def mfpubEntry (d : DockEntry) (s : State) : Except FaultCode State := do
  s.ownSlot d
  if d.pa.toNat % 64 ≠ 0 then throw .misaligned
  if field d.pb.toNat 32 32 ≠ 0 || field d.pb.toNat 0 16 + field d.pb.toNat 16 16 + 1 > 65536 then throw .reservedField
  pure s

/-- MFPUB reads its range, records the manifest and sends the holdings; resumed, it sends them to those that have not
acknowledged them. -/
def mfpubStart (d : DockEntry) (s : State) : State :=
  let n := d.fn % 64
  let x := s.slot n
  if !d.started && !(x.st == .defined || x.st == .active) then s.cmdFault d.seq .layoutPair noIndex
  else
    let first := field d.pb.toNat 0 16
    let count := field d.pb.toNat 16 16 + 1
    match s.readRange d.reacher ((d.pa.toNat + 32 * first : Nat) : Int) (32 * count) with
    | .error h => s.stopAt d.seq h noIndex
    | .ok bs =>
      let y := { x with manifest := some d.pa }
      let triples := (List.range count).filterMap fun i =>
        let e := ofLeBytes ((bs.drop (32 * i)).take 32)
        if e.testBit 160 then some (first + i, (⟨field e 40 24, field e 34 6, field e 0 34⟩ : BlockId), field e 128 32) else none
      let s := s.updSlot n fun _ => y
      s.askPeers d (if d.started then d.words else x.participants s.devId) (.holdings n first count triples)

/-! ### CLSTAT (R415) -/

def SlotState.code : SlotState → Nat
  | .undef => 0 | .defined => 1 | .active => 2 | .halted => 3

def PortState.num : PortState → Nat
  | .down => 0 | .training => 1 | .up => 2 | .degraded => 3

/-- The snapshot of a slot. -/
def CollSlot.snapshot (x : CollSlot) : List Byte :=
  leBytes 1 x.st.code ++ leBytes 1 (x.gen % 16) ++ leBytes 1 x.nextHeld ++ leBytes 1 (x.code.toNat + 2 * x.nofb.toNat)
    ++ leBytes 4 x.fcode ++ [x.uncoded, x.codedN, x.decoded, x.nackout, x.resent, x.received, 0].flatMap fun w => leBytes 8 w.toNat

/-- The snapshot of the links. -/
def State.linkSnapshot (s : State) : List Byte :=
  s.ports.toList.flatMap (fun p => leBytes 1 (PortState.num p.st + p.lanes % 8 * 4)) ++ leBytes 14 0
    ++ leBytes 8 s.resentFlits.toNat ++ leBytes 8 s.replaysSent.toNat ++ leBytes 8 s.replaysFound.toNat ++ leBytes 8 0

def clstatEntry (d : DockEntry) (s : State) : Except FaultCode State := do
  spOffset d.pa 64
  match d.op with
  | .clstatLink _ => pure s
  | _ => do
    s.ownSlot d
    pure s

def clstatAct (d : DockEntry) (s : State) : Except FaultCode State :=
  match d.op with
  | .clstatLink _ => s.writeOut d 64 s.linkSnapshot
  | _ => s.writeOut d 64 (s.slot (d.fn % 64)).snapshot

/-! ### CLCAN (R416) -/

/-- CLCAN cancels the slot's current generation while it is active, and completes once every participant has acknowledged;
`tile` keeps the generation. -/
def clcanStart (d : DockEntry) (s : State) : State :=
  let n := d.fn % 64
  let x := s.slot n
  if d.started then s.askPeers d d.words (.cancel n d.tile)
  else if !x.active.contains x.gen then s.complete d
  else
    let ps := x.participants s.devId
    ((s.collCancel n x.gen).updCmd d.seq fun d => { d with tile := x.gen }).askPeers d ps (.cancel n x.gen)

/-! ### CLARM and CLDIS (R400, R412, R413) -/

/-- The command that an encoding attaches. -/
def armedOp (w : Word) : Option Instr :=
  match decodeE w.toNat with
  | .ok (some i) => match i with
    | .clgo o | .cp o | .cpt o | .cph o | .cpr o | .mfpub o => if o.g == .always && o.tag == 0 then some i else none
    | _ => none
  | _ => none

/-- CLARM at its issue (R412). -/
def clarmAct (d : DockEntry) (s : State) : Except FaultCode State :=
  let b := d.fn % 64
  let y := vget {} s.quay.bols b
  match armedOp d.pa with
  | none => .error .illegalOp
  | some op =>
    if y.crew.isSome then .error .permission
    else if y.armed.length ≥ 2 then .error .bollardOverflow
    else
      let a : Attach :=
        { op := op, once := d.fn.testBit 6, ctx := d.ctx, pc := d.pc, pa := d.pa2, pb := d.pb2, pending := 0
          born := (s.quay.ctx d.ctx).born, seed := d.seed, crew := d.crew, slice := d.slice, spBase := d.spBase
          spSize := d.spSize, strand := d.strand }
      .ok ((s.updQuay fun q => { q with bols := vput q.bols b { y with armed := y.armed ++ [a] } }).complete d)

/-- CLDIS at its issue (R413). -/
def cldisAct (d : DockEntry) (s : State) : State :=
  let b := d.fn % 64
  (s.updQuay fun q => { q with bols := vput q.bols b { vget {} q.bols b with armed := [] } }).complete d

/-- The attachment that fires next: that of the oldest flip with a pending firing, the first attached first. -/
def nextArmed (l : List Attach) : Option Attach :=
  (l.filter fun a => a.pending != 0).foldl (fun m a => match m with
    | none => some a
    | some b => if a.first < b.first then some a else some b) none

/-- CLARM_FIRING (R400): an attached command with a pending firing enters the dock, when it has room. -/
def execClarmFiring (bol : Fin 64) (s : State) : Out :=
  let y := vget {} s.quay.bols bol.val
  match nextArmed y.armed with
  | none => .next s
  | some a =>
    if s.quay.dockUsed + 1 > 32 then .next s
    else
      let rest := if a.once then dropFirst (fun z => z == a) y.armed
        else listUpdate (fun z => z == a) (fun z => { z with pending := z.pending - 1, first := z.first + 1 }) y.armed
      let s := s.updQuay fun q => { q with bols := vput q.bols bol.val { y with armed := rest } }
      .next (s.enqueueCmd fun n =>
        { seq := n, op := a.op, owner := a.born, ctx := a.ctx, pc := a.pc, pa := a.pa, pb := a.pb, seed := a.seed
          crew := a.crew, slice := a.slice, spBase := a.spBase, spSize := a.spSize, strand := a.strand
          issuedAt := s.refTime, waited := s.quay.cycle.toNat })

/-! ### Packets that met an unusable trunk (R385, R398) -/

/-- Whether some of the addresses lie in peer memory. -/
def State.toPeer (s : State) (as : List Nat) : Bool := as.any fun a => s.homeDev a != s.devId

/-- Whether a context of a quay has an access to peer memory outstanding: a load, a store that has not performed, or a request or a
reduction that the peer has not answered. -/
def State.peerAccess (s : State) (q : Nat) (c : Context) : Bool :=
  c.loads.any (fun l => s.toPeer (physAddrs l.locs))
    || (s.quays.any fun e => e.2.drained.any (fun g => g.owner == c.born && !(s.storePeers g).isEmpty)
      || e.2.requests.any fun r => r.asker == .strand c.born)
    || (s.quayAt q).unacked.any fun u => u.2.1 == c.born && u.2.2.cmd.isNone && s.toPeer (u.2.2.elems.map Prod.fst)

/-- LINK_DOWN (R385, R398): a packet met an unusable trunk, and what sent it takes the fault: an access's context, a
command, an instance. -/
def execLinkDown (u : LinkUser) (s : State) : Out :=
  match u with
  | .access q c =>
    let n := Fin.ofNat 8 c
    let x := (s.quayAt q).ctx n
    if x.st == .dormant || x.st == .parked || x.st == .faulted || !s.peerAccess q x then .next s
    else .next (s.atQuay q fun s => s.asCtx n fun s => s.slotFault .m .linkDown)
  | .command q seq => .next (s.atQuay q fun s => match s.cmd? seq with
    | some d => if d.phase == .running then s.cmdFault seq .linkDown d.count else s
    | none => s)
  | .collective n =>
    if n < 64 && (s.slot n).runs then .next (s.collOwe n .linkDown) else .next s

/-- A packet of a strand's access met an unusable trunk on its way: the strand takes LINK_DOWN in its context, or where it cannot
take a fault now as an asynchronous one, whose bundle is not known any more (R385; free, log 20). -/
def State.strandDown (s : State) (born quay : Nat) : State :=
  let later := fun (s : State) =>
    let (n, s) := s.draw
    s.tellStrand born quay 0 none ⟨.linkDown, 0, (Config.freeWord n).setWidth 32, 0, 2⟩
  match s.strandAt born with
  | .ctx q c =>
    let x := (s.quayAt q).ctx c
    if x.st == .parked || x.st == .faulted then later s else s.atQuay q fun s => s.asCtx c fun s => s.slotFault .m .linkDown
  | _ => later s

/-! ### Packets that arrive (R383, R384, R386, R395) -/

/-- The message that a packet from a device carries to this one. -/
def netMessage (ty : Nat) (ps : List (BitVec 512)) : Option NetMsg :=
  let bytes := fun (l : List (BitVec 512)) => l.flatMap fun p => leBytes 64 p.toNat
  match ty with
  | 3 => match Config.messageOf 3 ps with
    | some (.data p) => some (.data { p with data := (bytes ps).take p.data.length, coded := none })
    | m => m
  | 4 => match ps with
    | [] => none
    | p0 :: rest =>
      let (c, slot, gen) := codedOf p0
      let (quay, perm, dir) := match Config.messageOf 4 ps with
        | some (.data q) => (q.srcQuay, q.perm, q.dir)
        | _ => (0, 0, 0)
      some (.data { slot := slot, gen := gen, src := 0, srcQuay := quay, id := c.a, data := bytes rest, coded := some c
                    perm := perm, dir := dir })
  | _ => Config.messageOf ty ps

/-- Every follower of a global tidemark of another device sees it. -/
def State.followAll (s : State) (dev g : Nat) (r : RemoteMark) : State :=
  s.quays.foldl (fun s e =>
    (List.range 64).foldl (fun s t =>
      let m := vget {} e.2.tms t
      if m.fol && m.fdev == dev && m.gidx == g then s.atQuay e.1 fun s => s.followRemote t r else s) s) s

/-- What sent a packet of this device that was refused on its way to a device takes LINK_DOWN (R385): a strand, a command, an
instance. A request to a peer's memory is not repeated then. -/
def State.linkRefused (s : State) (dst : Nat) (m : NetMsg) : State :=
  let user := fun (u : LinkUser) => match execLinkDown u s with
    | .next t => t
    | _ => s
  let request := fun (q c age : Nat) => match (s.quayAt q).requests.find? fun r => r.age == age && r.dev == dst with
    | none => user (.access q c)
    | some r =>
      let s := s.putQuay q { s.quayAt q with requests := (s.quayAt q).requests.filter fun x => !(x.age == age && x.dev == dst) }
      match r.asker with
      | .strand b => s.strandDown b q
      | .command n => match execLinkDown (.command q n) s with
        | .next t => t
        | _ => s
      | .unit => s.report .linkDown q 0 none 0
  let waiting := fun (op slot : Nat) => match s.waitingFor op slot dst with
    | some (q, d) => user (.command q d.seq)
    | none => s
  match m with
  | .landing l => match l.kind with
    | .sendh => s.strandDown l.srcSeq l.srcQuay
    | _ => user (.command l.srcQuay l.srcSeq)
  | .data p => user (.collective p.slot)
  | .digest slot _ _ | .completion slot _ | .nack slot _ => user (.collective slot)
  | .ack (.block slot _ _ _) => user (.collective slot)
  | .holdings slot _ _ _ => waiting 0x54 slot
  | .cancel slot _ => waiting 0x56 slot
  | .memRead q c age _ | .memWrite q c age _ | .memAtomic q c age _ _ => request q c age
  | .reduction r => match r.cmd with
    | some n => user (.command r.quay n)
    | none => s.strandDown r.owner r.quay
  | _ => s

/-- The newest packet of this device under the sequence number and destination of a header. -/
def State.sentAs (s : State) (h : Word) : Option NetMsg :=
  s.outbox.reverse.findSome? fun m => match m with
    | .packet _ p =>
      let goes : Bool := p.dst == hdrDst h || match p.msg with
        | .data q => q.coded.any fun c => c.recvA == hdrDst h || c.recvB == hdrDst h
        | _ => false
      if p.src == s.devId && p.seq == hdrSeq h && goes then some p.msg else none
    | _ => none

/-- The state that an event gives. -/
def State.after (s : State) (o : Out) : State :=
  match o with
  | .next t => t
  | _ => s

/-- A message from another device enters the on-die fabric, takes effect, or is answered. -/
def State.deliver (s : State) (port : Fin 18) (src : Nat) (m : NetMsg) : State :=
  match m with
  | .landing l =>
    let l := { l with srcDev := src, via := none }
    if l.kind == .routed && s.withholds port then s.withhold port (.msg (.landing l)) else s.send (.arrivalLanding l)
  | .data p => s.arrivePacket port { p with src := src }
  | .digest n g d => if h : n < 64 then s.after (execDigestArrive ⟨n, h⟩ src g d s) else s
  | .holdings n f c t => if h : n < 64 then s.after (execHoldingsArrive ⟨n, h⟩ src f c t s) else s
  | .completion n g => if h : n < 64 then s.after (execCompletionReportArrive ⟨n, h⟩ src g s) else s
  | .cancel n g => if h : n < 64 then s.after (execCancelArrive ⟨n, h⟩ src g s) else s
  | .nack n id => if h : n < 64 then s.after (execNackArrive ⟨n, h⟩ src id s) else s
  | .refusal n g => if h : n < 64 then s.after (execCollectiveRefusal ⟨n, h⟩ src g s) else s
  | .landingRefused r => s.send (.arrivalRefusalReturn r)
  | .ack a => s.send (.acknowledgementArrive a)
  | .reduction r => s.send (.memoryReductionApply { r with dev := src })
  | .tidemark g r => s.followAll src g r
  | .memRead q c age as => s.toDev src (.memResponse q c age (as.map fun a => (a, s.readByte a)))
  | .memWrite q c age cells =>
    ({ s with mem := sparseSetAll memDefault s.mem (cells.map fun p => (s.normPhys p.1, p.2)) } : State).toDev src
      (.memResponse q c age [])
  | .memAtomic q c age a op =>
    let a := s.normPhys a
    let old := s.readNum a 8
    let t := match atomicNew op (BitVec.ofNat 64 old) with
      | some v => s.writeBytes a (leBytes 8 v.toNat)
      | none => s
    t.toDev src (.memResponse q c age ((leBytes 8 old).zipIdx.map fun p => (a + p.2, p.1)))
  | .memResponse q _ age _ =>
    s.putQuay q { s.quayAt q with requests := (s.quayAt q).requests.filter fun r => !(r.age == age && r.dev == src) }
  | .undeliverable h => match s.sentAs h with
    | some m => s.linkRefused (hdrDst h) m
    | none => s

/-- The TYPE 3 and 4 packets travel on virtual channel 2 (R384). -/
def onDataChannel (f : List Flit) : Bool :=
  match f with
  | [] => false
  | (h, _) :: _ => hdrVc h == 2

/-- A flit under the header of the copy that goes on to a device. -/
def readdress (dst : Nat) (f : Flit) : Flit :=
  (flitHeader (hdrSeq f.1) (hdrLast f.1) (hdrVc f.1) (hdrSrc f.1) dst (hdrType f.1) f.2, f.2)

/-- The flits of a packet go on toward a device (R383); the device that meets an unusable trunk refuses the packet and tells
its source (R385). -/
def State.forward (s : State) (f : List Flit) (dst : Nat) : State :=
  match f with
  | [] => s
  | (h, _) :: _ => match s.portOf (hdrSrc h) dst (hdrSeq h) with
    | some port =>
      let g := f.map (readdress dst)
      (s.buffer port g).emit (.flits port g)
    | none => s.toDev (hdrSrc h) (.undeliverable h)

/-- A whole packet has come in: what is for this device is delivered, the rest goes on; a coded packet is copied where the
routes of its receivers part (R383, R407). -/
def State.takeFlits (s : State) (port : Fin 18) (f : List Flit) : State :=
  match f with
  | [] => s
  | (h, p0) :: _ =>
    let src := hdrSrc h
    let here : State → State := fun s => match netMessage (hdrType h) (f.map Prod.snd) with
      | some m => s.deliver port src m
      | none => s
    if hdrType h = 4 then
      let (c, _, _) := codedOf p0
      let onward := if routesJoined s.devId src c.recvA c.recvB then copiesFrom s.devId src c.recvA c.recvB
        else if hdrDst h = s.devId then [] else [hdrDst h]
      let s := onward.foldl (fun s dst => s.forward f dst) s
      if c.recvA = s.devId || c.recvB = s.devId then here s else s
    else if hdrDst h = s.devId then here s
    else s.forward f (hdrDst h)

/-- CREDIT (R395): what the link withholds is accepted, in the link's order, as far as it can be; each slot looks at the
packets held for its running generation and sends the acknowledgements that it owes. -/
def execCredit (port : Fin 18) (s : State) : Out :=
  let s := (List.range 64).foldl (fun s n => (s.sendAcks n).takeHeld n 1) s
  let p := s.ports.get port
  match p.withheld with
  | [] => .next s
  | i :: rest =>
    let free := s.putPort port.val { p with withheld := [] }
    let back := fun (t : State) =>
      let q := t.ports.get port
      t.putPort port.val { q with withheld := q.withheld ++ rest }
    match i with
    | .msg (.data c) => match free.meetSlot c with
      | some t => .next (back t)
      | none => .next s
    | .msg (.landing l) => .next (back (free.send (.arrivalLanding { l with via := none })))
    | .msg m => .next (back (free.deliver port (s.devId + 64) m))
    | .transit f => .next (back (free.takeFlits port f))

/-! ### Links (R384 to R386, R398, R402) -/

/-- Whether two flits belong to one packet. -/
def samePacket (h g : Word) : Bool :=
  hdrSrc h == hdrSrc g && hdrDst h == hdrDst g && hdrSeq h == hdrSeq g && hdrType h == hdrType g

/-- A flit is taken in; with its last one a packet is whole. On virtual channel 2 it waits behind what the link withholds
(R395). -/
def State.takeFlit (s : State) (port : Fin 18) (h : Word) (payload : BitVec 512) : State :=
  let p := s.ports.get port
  if !hdrLast h then s.putPort port.val { p with received := p.received ++ [(h, payload)] }
  else
    let f := (p.received.filter fun g => samePacket h g.1) ++ [(h, payload)]
    let s := s.putPort port.val { p with received := p.received.filter fun g => !samePacket h g.1 }
    if onDataChannel f && s.withholds port then s.withhold port (.transit f) else s.takeFlits port f

/-- FLIT_RECEIVE (R384): a flit that fails is discarded and counted as an error. -/
def execFlitReceive (port : Nat) (header : Word) (payload : BitVec 512) (s : State) : Out :=
  if h : port < 18 then
    if flitOk header payload then .next (s.takeFlit ⟨port, h⟩ header payload)
    else
      let p := s.ports.get ⟨port, h⟩
      .next (s.putPort port { p with errors := p.errors + 1 })
  else .next s

/-- Whether a port's torus neighbour is a member of the haven (R385). -/
def State.portUsed (s : State) (port : Nat) : Bool := s.members.getLsbD (torusNext s.devId (port / 3)) && s.members.getLsbD s.devId

/-- The neighbour at a port has taken the `n` oldest flits in flight (R386). -/
def State.flitsTaken (s : State) (port n : Nat) : State :=
  let p : Port := vget {} s.ports port
  s.putPort port { p with inFlight := p.inFlight.drop n }

/-- The neighbour has discarded the oldest flit in flight, which goes out again from the replay buffer (R384, R386). -/
def State.flitRetry (s : State) (port : Nat) : State :=
  match (vget ({} : Port) s.ports port).inFlight with
  | [] => s
  | f :: _ => ({ s with resentFlits := s.resentFlits + 1 } : State).emit (.flits port [f])

/-- The flits in flight on the ports of a trunk that carry no traffic, and on a port that has just come back, go out on a
usable port of the trunk (R386). -/
def State.moveFlits (s : State) (port : Nat) (back : Bool) : State :=
  let ps := (List.range 3).map fun i => port / 3 * 3 + i
  let dead := fun (n : Nat) =>
    let p : Port := vget {} s.ports n
    !(p.st == .up || p.st == .degraded) || (back && n == port)
  let f := (ps.filter dead).flatMap fun n => (vget ({} : Port) s.ports n).inFlight
  match s.trunkPorts (port / 3), f with
  | [], _ | _, [] => s
  | o :: _, f =>
    let s := (ps.filter dead).foldl (fun s n => let p : Port := vget {} s.ports n; s.putPort n { p with inFlight := [] }) s
    let s := { s with resentFlits := s.resentFlits + BitVec.ofNat 64 f.length }
    (s.buffer o f).emit (.flits o f)

/-- PORT_STATE_CHANGE (R385, R386): only a port that is READY comes UP or DEGRADED (R431); the flits in flight on a port that leaves UP and DEGRADED go out again on another usable
port of its trunk, now or when one is usable. -/
def execPortStateChange (port : Nat) (st : PortState) (lanes : Nat) (s : State) : Out :=
  let old : Port := vget {} s.ports port
  let was : Bool := old.st == .up || old.st == .degraded
  let up : Bool := st == .up || st == .degraded
  if port ≥ 18 || (st != .down && !s.portUsed port) || (up && !old.ready) then .next s
  else
    let s := s.putPort port { old with st := st, lanes := if up then Nat.min 4 lanes else 0 }
    .next (s.moveFlits port (!was && up))

/-- Whether a time since which nothing was acknowledged has passed (R386). -/
def State.replayDue (s : State) (sentAt : Nat) : Bool := decide (sentAt + 65536 ≤ s.quay.cycle.toNat)

/-- A reduction is sent again end to end (R386). -/
def State.replayReduction (s : State) (k : Nat) (u : Nat × Nat × Reduction) : State :=
  let r := { u.2.2 with sentAt := s.quay.cycle.toNat }
  let l := s.quay.unacked.set k (u.1, u.2.1, r)
  let s := { s.updQuay fun q => { q with unacked := l } with replaysSent := s.replaysSent + 1 }
  let s := match r.elems with
    | [] => s
    | (a, _) :: _ => if s.homeDev a = s.devId then s else s.toDev (s.homeDev a) (.reduction r)
  s.send (.memoryReductionApply r)

/-- The reads of peer memory outstanding at the acting quay: the context and the load's place in it. -/
def State.peerLoads (s : State) : List (Fin 8 × Nat) :=
  (List.finRange 8).flatMap fun c =>
    ((List.range (s.quay.ctx c).loads.length).filter fun k => match (s.quay.ctx c).loads[k]? with
      | some l => s.toPeer (physAddrs l.locs)
      | none => false).map fun k => (c, k)

/-- A read of peer memory is sent again end to end (R386). -/
def State.replayLoad (s : State) (c : Fin 8) (l : OLoad) (k : Nat) : State :=
  let now := s.quay.cycle.toNat
  let s := s.updCtxAt s.here c fun x => { x with loads := x.loads.set k { l with sentAt := now } }
  let s := { s with replaysSent := s.replaysSent + 1 }
  let as := physAddrs l.locs
  (s.peersOf as).foldl (fun s d => s.toDev d (.memRead s.here c.val l.age (as.filter fun a => s.homeDev a == d))) s

/-- A request to a peer's memory is sent again end to end (R386). -/
def State.replayRequest (s : State) (k : Nat) (r : PeerRequest) : State :=
  let l := s.quay.requests.set k { r with sentAt := s.quay.cycle.toNat }
  ({ s.updQuay fun q => { q with requests := l } with replaysSent := s.replaysSent + 1 } : State).toDev r.dev r.msg

/-- END_TO_END_REPLAY (R386): the acting quay's k-th memory request without an acknowledgement for 65,536 cycles, of its
reductions, then its reads of peer memory, then its other requests to peers, is sent again with the same tag. -/
def execEndToEndReplay (k : Nat) (s : State) : Out :=
  match s.quay.unacked[k]? with
  | some u => if s.replayDue u.2.2.sentAt then .next (s.replayReduction k u) else .next s
  | none => match s.peerLoads[k - s.quay.unacked.length]? with
    | none =>
      let j := k - s.quay.unacked.length - s.peerLoads.length
      match s.quay.requests[j]? with
      | some r => if s.replayDue r.sentAt then .next (s.replayRequest j r) else .next s
      | none => .next s
    | some (c, i) => match (s.quay.ctx c).loads[i]? with
      | some l => if s.replayDue l.sentAt then .next (s.replayLoad c l i) else .next s
      | none => .next s

/-- Whether a reduction on the fabric comes before one at a line that they share (R403). -/
def State.redAhead (s : State) (r : Reduction) : Bool :=
  s.wire.any fun i => match i with
    | .memoryReductionApply x => redBefore x r
        && x.elems.any fun p => r.elems.any fun q => s.normPhys p.1 / 64 == s.normPhys q.1 / 64
    | _ => false

/-- MEMORY_REDUCTION_APPLY (R402): one of this device is one that its quay has not had acknowledged; in deterministic mode
the reductions to a line are applied in order (R403). -/
def execMemoryReductionApply (r : Reduction) (s : State) : Out :=
  if r.dev = s.devId && !((s.quayAt r.quay).unacked.any fun u => u.1 == r.seq) then .next s
  else if r.det && s.redAhead r then .next (s.send (.memoryReductionApply r))
  else .next (s.applyReduction r)

/-- Whether the acknowledgement of a CPR's reduction stands before its floor (R338). -/
def State.redAckEarly (s : State) (quay seq : Nat) : Bool :=
  match (s.quayAt quay).unacked.find? fun u => u.1 == seq with
  | some (_, _, r) => match r.cmd with
    | some c => State.ackEarly { s with here := quay } c r.upto
    | none => false
  | none => false

/-- A reduction is acknowledged: its flags go to its owner, its command counts it (R402). -/
def State.reductionAck (s : State) (quay seq : Nat) (f : FpFlags) : State :=
  match (s.quayAt quay).unacked.find? fun u => u.1 == seq with
  | none => s
  | some (_, _, r) =>
    let s := s.settleReduction quay seq f
    match r.cmd with
    | some c => s.atQuay quay fun s => s.craneAck c r.upto f
    | none => s

/-! ### Issue -/

/-- Issues a command that performs at its issue: it is entered and acts at once, and is halted by a check that fails. -/
def issueNow (i : Instr) (o : EOp) (act : DockEntry → State → Except FaultCode State) (s : State) : Out :=
  if !s.ctx.guardHolds .e o.g then .next s else
  let n := s.quay.nextSeq
  match issueE i o s with
  | .next s => match s.cmd? n with
    | some d =>
      let s := (s.updCmd n fun d => { d with entered := true, phase := .waiting }).rankCmd n
      match act d s with
      | .ok s => .next s
      | .error f => .next (s.cmdFault n f noIndex)
    | none => .next s
  | r => r

def execCldef (o : EOp) (s : State) : Out := issueE (.cldef o) o s
def execClgo (o : EOp) (s : State) : Out := issueE (.clgo o) o s
def execMfpub (o : EOp) (s : State) : Out := issueE (.mfpub o) o s
def execClstat (o : EOp) (s : State) : Out := issueE (.clstat o) o s
def execClstatLink (o : EOp) (s : State) : Out := issueE (.clstatLink o) o s
def execClcan (o : EOp) (s : State) : Out := issueE (.clcan o) o s
def execCldis (o : EOp) (s : State) : Out := issueNow (.cldis o) o (fun d s => .ok (cldisAct d s)) s

/-- CLARM reads the e registers of the attached command's PA and PB at its issue (R412). -/
def execClarm (o : EOp) (s : State) : Out :=
  if !s.ctx.guardHolds .e o.g then .next s
  else match s.ctx.eReg true o.pa with
  | .error _ => issueNow (.clarm o) o clarmAct s
  | .ok w =>
    let f := EFields.ofWord w.toNat
    let used := match armedOp w with
      | some i => usesRegs i
      | none => (false, false)
    match s.ctx.eReg used.1 (Fin.ofNat 16 f.pa), s.ctx.eReg used.2 (Fin.ofNat 16 f.pb) with
    | .ok a, .ok b =>
      let n := s.quay.nextSeq
      match issueNow (.clarm o) o (fun d s => clarmAct { d with pa2 := a, pb2 := b } s) s with
      | .next t => .next (t.updCmd n fun d => { d with pa2 := a, pb2 := b })
      | r => r
    | .error h, _ => s.halted (.clarm o) .e h
    | _, .error h => s.halted (.clarm o) .e h

end Sys2Proof.Machine
end

