-- ==== Sys2Proof/Machine/Harbour.lean ====
section
/-! DEFINITION. The harbourmaster's crews (R319 to R330, R336 to R341): queues and their windows, what a crew reserves
and where, placement, retirement and the end of a crew, and the energy shares. -/

namespace Sys2Proof.Machine

open Sys2Proof

/-! ### Launch records (R323, R324) -/

/-- Whether a record fails R323. -/
def LaunchRec.malformed (l : LaunchRec) : Bool :=
  l.get 0x00 1 != 1 || l.tmode == 3 || l.ncrew == 0 || l.dcount == 0 || l.quays == 0 || l.spad == 0
    || decide (l.quays > 320) || decide (l.spad > 3072) || l.cb % 64 != 0 || l.img % 16 != 0 || l.rtab % 0x4000 != 0
    || ((l.fuse || l.l1fuse) && l.quays % 4 != 0) || (l.tmode == 2 && l.tbmp == 0)

/-- Whether a crew takes whole jetties: with FUSE (R327), and with L1FUSE, whose L1 is a jetty's (R189; DEDUCED, log 57). -/
def LaunchRec.byJetty (l : LaunchRec) : Bool := l.fuse || l.l1fuse

/-- The dictionary units of 16 entries that a crew takes (R327). -/
def LaunchRec.units (l : LaunchRec) : Nat := (l.dcount + 15) / 16

/-- The scratchpad range of a crew in units of 64 KiB (R327). -/
def LaunchRec.spUnits (l : LaunchRec) : Nat := (l.spad + 63) / 64

/-- The quays of a slice (R319): those of its jetties that have not failed (R431), ascending. -/
def State.sliceQuays (s : State) (slice : Nat) : List Nat :=
  (List.range 320).filter fun q => (vget {} s.slices slice).jetties.getLsbD (q / 4) && !(s.quayAt q).failed

/-- The quays of a jetty. -/
def jettyQuays (j : Nat) : List Nat := [4 * j, 4 * j + 1, 4 * j + 2, 4 * j + 3]

/-- The whole jetties of a slice: a jetty with a failed quay cannot fuse (R431). -/
def State.wholeJetties (s : State) (slice : Nat) : List Nat :=
  (List.range 80).filter fun j => (vget {} s.slices slice).jetties.getLsbD j && (jettyQuays j).all fun q => !(s.quayAt q).failed

/-- Whether a crew needs more than its slice can ever hold (R324). -/
def State.unplaceable (s : State) (slice : Nat) (l : LaunchRec) : Bool :=
  (if l.byJetty then decide (l.quays / 4 > (s.wholeJetties slice).length)
    else decide (l.quays > (s.sliceQuays slice).length))
    || decide (l.splen * 64 > l.spad * 1024) || decide (l.rtab + 0x4000 > l.spad * 1024) || decide (16 * l.units > 4096)

/-- The fault that a record takes as it enters (R323, R324). -/
def State.recordFaultOf (s : State) (slice : Nat) (l : LaunchRec) : Option FaultCode :=
  if l.malformed then some .reservedField
  else if s.unplaceable slice l then some .crewUnplaceable
  else none

/-! ### Queues and the error log (R320, R321, R324) -/

def State.queueAt (s : State) (q : Nat) : Queue := vget {} s.queues q

def State.updQueue (s : State) (q : Nat) (f : Queue → Queue) : State := { s with queues := vput s.queues q (f (s.queueAt q)) }

/-- Whether a shipment is in its queue's window: it leaves when all its crews have started, or its record has failed. -/
def Shipment.inWindow (x : Shipment) : Bool := !x.failed && decide (x.started.length < x.lr.ncrew)

def Queue.window (q : Queue) : List Shipment := q.shipments.filter Shipment.inWindow

def State.ship? (s : State) (q key : Nat) : Option Shipment := (s.queueAt q).shipments.find? fun x => x.key == key

def State.updShip (s : State) (q key : Nat) (f : Shipment → Shipment) : State :=
  s.updQueue q fun x => { x with shipments := listUpdate (fun y => y.key == key) f x.shipments }

/-- The context of the harbourmaster's accesses to a slice's memory. -/
def sliceReacher (slice : Nat) : Reacher := ⟨slice, 0, 0⟩

/-- Writes bytes of a slice's virtual memory as the harbourmaster; where the access fails its checks nothing is written. -/
def State.pokeVa (s : State) (slice va align : Nat) (bs : List Byte) : State :=
  match s.reach (sliceReacher slice) false false (va : Int) bs.length align true with
  | .ok ls => s.pokeLocs ls bs
  | .error _ => s

/-- An error-log entry (R324), with MSI-X vector 3 (R428): record index, crew index, fault code, time. One whose page is
not mapped is lost (DESIGN CHOICE, log 58). -/
def State.errLog (s : State) (q index crew code : Nat) : State :=
  let x := s.queueAt q
  let s := s.updQueue q fun x => { x with errs := x.errs + 1 }
  let s := s.pokeVa x.slice (x.errlog.toNat + 16 * (x.errs % 256)) 1
    (leBytes 4 index ++ leBytes 2 crew ++ leBytes 1 code ++ leBytes 1 0 ++ leBytes 8 s.refTime)
  s.emit (.msix 3)

/-- The queue stops (R320). -/
def State.stopQueue (s : State) (q : Nat) (code : FaultCode) : State :=
  let x := s.queueAt q
  (s.updQueue q fun x => { x with stopped := true }).errLog q x.head.toNat 0xFFFF code.code

/-- Whether the pager holds a fault of a waiter. -/
def State.pagerHolds (s : State) (w : PageWaiter) : Bool :=
  (s.pager.batch ++ s.pager.closed.flatMap FaultRange.members ++ s.pager.delivered.flatMap FaultRange.members).any
    fun f => f.waiter == w

/-- The key of a dependence counter of a slice among all (R319). -/
def ctrKey (slice ctr : Nat) : Nat := 4096 * slice + ctr % 4096

/-- Enters a checked record as a shipment; one with a counter is bound to it first (R326, R334). -/
def State.enterShip (s : State) (q : Nat) (l : LaunchRec) (index : Nat) (origin : Option Launcher) : State :=
  let key := s.nextShip
  let free : Bool := l.depctr == 0xFFFF
  let slice := (s.queueAt q).slice
  let x : Shipment := { key := key, lr := l, index := index, ready := free, origin := origin }
  let s := { s with nextShip := key + 1 }.updQueue q fun y => { y with shipments := y.shipments ++ [x] }
  if free then s else { s with depOps := s.depOps ++ [.bind 512 noIndex slice l.depctr (.shipment q key)] }

/-- QUEUE_TAKE_RECORD (R320, R321): the next record below the doorbell's value enters the window. -/
def execQueueTakeRecord (q : Fin 64) (s : State) : Out :=
  let x := s.queueAt q.val
  let ahead := ((BitVec.ofNat 32 (sparseGet {} s.gtms (x.doorbell % 4096)).value) - x.head).toNat
  if x.weight = 0 || x.stopped || ahead = 0 || x.window.length ≥ 16 || s.pagerHolds (.ring q.val) then .next s
  else if ahead > x.size.toNat then .next (s.stopQueue q.val .reservedField)
  else
    let va := x.ring.toNat + 128 * (x.head.toNat % x.size.toNat)
    match s.readAt (sliceReacher x.slice) false false (va : Int) 128 128 with
    | .error .wait => .next s
    | .error (.fault _) => .next (s.stopQueue q.val .permission)
    | .error (.page n a) => .next (s.pagerFault { slice := x.slice, page := n, access := a, waiter := .ring q.val })
    | .ok raw =>
      let l : LaunchRec := { raw := BitVec.ofNat 1024 raw, addr := va }
      let s := s.updQueue q.val fun y => { y with head := y.head + 1 }
      match s.recordFaultOf x.slice l with
      | some f => .next (s.errLog q.val x.head.toNat 0xFFFF f.code)
      | none => .next (s.enterShip q.val l x.head.toNat none)

/-! ### What a crew reserves (R327) -/

/-- A crew's share of one quay: contexts, first byte of the range, dictionary window and first unit. -/
structure Share where
  quay : Nat
  ctxs : List Nat
  base : Nat
  win : Nat
  dict : Nat
  deriving DecidableEq, Repr

/-- Crews that hold a reservation on a quay. -/
def State.holders (s : State) (q : Nat) : List Crew := s.crews.filter fun c => c.holds && c.quays.contains q

/-- The first of `n` places at which `len` units are free of the taken ranges. -/
def firstFit (n len : Nat) (taken : List (Nat × Nat)) : Option Nat :=
  (List.range n).find? fun b => decide (b + len ≤ n) && taken.all fun t => decide (b + len ≤ t.1) || decide (t.1 + t.2 ≤ b)

/-- The free contexts of a quay: DORMANT and unreserved, ascending. -/
def Quay.freeCtxs (q : Quay) : List Nat :=
  ((List.finRange 8).filter fun n => (q.ctx n).st == .dormant && (q.ctx n).reservedBy.isNone).map Fin.val

/-- What a crew can have on a quay now, none where its reservation does not fit. A jetty holds one crew that takes whole
jetties (DEDUCED, log 57). -/
def State.shareOn (s : State) (l : LaunchRec) (n : Nat) : Option Share :=
  let q := s.quayAt n
  let hs := s.holders n
  let free := q.freeCtxs
  if !q.ready || q.failed || decide (free.length < l.ctxs) || (l.byJetty && hs.any fun c => c.lr.byJetty)
      || hs.any (fun c => c.lr.banks &&& l.banks != 0 || c.lr.berths &&& l.berths != 0 || c.lr.pj &&& l.pj != 0) then none
  else
    match firstFit 48 l.spUnits (hs.map fun c => (c.baseOn n / 65536, c.spSize / 65536)),
        (List.range 4).find? (fun w => !hs.any fun c => c.winOf n == w),
        firstFit 256 l.units (hs.map fun c => (c.dictBase.getD (c.pos n) 0, c.dictUnits)) with
    | some b, some w, some d => some ⟨n, free.take l.ctxs, 65536 * b, w, d⟩
    | _, _, _ => none

/-- The shares of all of several quays. -/
def State.sharesOn (s : State) (l : LaunchRec) : List Nat → Option (List Share)
  | [] => some []
  | n :: t => match s.shareOn l n, s.sharesOn l t with
    | some x, some r => some (x :: r)
    | _, _ => none

/-- The fixed placement of crew `k` of a deterministic shipment (R338). -/
def State.fixedQuays (s : State) (slice : Nat) (l : LaunchRec) (k : Nat) : List Nat :=
  if l.byJetty then
    let js := s.wholeJetties slice
    (List.range (l.quays / 4)).flatMap fun i => jettyQuays (js.getD ((k * (l.quays / 4) + i) % js.length) 0)
  else
    let qs := s.sliceQuays slice
    (List.range l.quays).map fun i => qs.getD ((k * l.quays + i) % qs.length) 0

/-- Where crew `k` of a record can be placed now (R327, R338). -/
def State.choose (s : State) (slice : Nat) (l : LaunchRec) (k : Nat) : Option (List Share) :=
  if l.det then s.sharesOn l (s.fixedQuays slice l k)
  else if l.byJetty then
    let js := ((s.wholeJetties slice).filterMap fun j => s.sharesOn l (jettyQuays j)).take (l.quays / 4)
    if js.length < l.quays / 4 then none else some js.flatten
  else
    let xs := ((s.sliceQuays slice).filterMap fun n => s.shareOn l n).take l.quays
    if xs.length < l.quays then none else some xs

/-! ### When a crew may start (R322, R326, R337) -/

/-- Bit `j` of a bitmap of a slice, by its 64-bit words; one that cannot be read counts as clear (log 59). -/
def State.bitmapBit (s : State) (slice bmp j : Nat) : Bool :=
  match s.readAt (sliceReacher slice) false false ((bmp + 8 * (j / 64) : Nat) : Int) 8 8 with
  | .ok w => w.testBit (j % 64)
  | .error _ => false

/-- The conditions of R326 for crew `k` of a shipment. -/
def State.triggered (s : State) (slice : Nat) (x : Shipment) (k : Nat) : Bool :=
  x.ready && match x.lr.tmode with
    | 1 => (List.range x.lr.tcnt).all fun i => s.bitmapBit slice x.lr.tbmp (x.lr.tbit + i)
    | 2 => s.bitmapBit slice x.lr.tbmp (x.lr.tbit + k)
    | _ => true

/-- The hotter band of the dies that hold some quays (R337). -/
def State.bandOf (s : State) (qs : List Nat) : Nat :=
  qs.foldl (fun b q => Nat.max b (if basinOf q = 0 then s.host.actBand0 else s.host.actBand1)) 0

/-- Whether a queue has a shipment in its window or a crew running (R322). -/
def State.queueBusy (s : State) (q : Nat) : Bool :=
  !(s.queueAt q).window.isEmpty || s.crews.any fun c => c.queue == q && c.st == .placed

/-- The queues of a slice that take part in its rounds, ascending. -/
def State.roundOf (s : State) (slice : Nat) : List Nat :=
  (List.range 64).filter fun q => (s.queueAt q).slice == slice && (s.queueAt q).weight != 0 && s.queueBusy q

/-- A queue's share of its slice's budget, rounded down (R336); all of it where no queue takes part (DESIGN CHOICE, log 101). -/
def State.shareOf (s : State) (q : Nat) : Nat :=
  let x := s.queueAt q
  let ebud := (vget {} s.slices x.slice).ebud.toNat
  match ((s.roundOf x.slice).map fun p => (s.queueAt p).weight).sum with
  | 0 => ebud
  | sum + 1 => ebud * x.weight / (sum + 1)

/-- The window of 1 ms that runs (R336). -/
def State.windowNow (s : State) : Nat := s.refTime / 100000

/-- The energy of a queue in the current window. -/
def State.energyNow (s : State) (q : Nat) : Nat := if s.windowNow = s.energyWin then (s.queueAt q).energy else 0

/-- Whether the band lets a crew of a class start or come back (R337). -/
def State.bandAllows (s : State) (q : Nat) (l : LaunchRec) (qs : List Nat) : Bool :=
  match l.energy, s.bandOf qs with
  | 2, b => decide (b < 2)
  | 3, 0 => true
  | 3, 1 => decide (s.energyNow q < s.shareOf q)
  | 3, _ => false
  | _, _ => true

/-- Where crew `k` of a record of a queue may be placed now. -/
def State.canPlace (s : State) (q : Nat) (l : LaunchRec) (k : Nat) : Option (List Share) :=
  match s.choose (s.queueAt q).slice l k with
  | none => none
  | some xs => if s.bandAllows q l (xs.map Share.quay) then some xs else none

/-- Whether crew `k` of a shipment has a crew record: it waits for its image, runs, or is saved. -/
def State.crewOf (s : State) (q key k : Nat) : Option Crew :=
  s.crews.find? fun c => c.queue == q && c.ship == key && c.index == k && c.st != .retiring

/-- The crews of a queue that ask for a placement: those of the shipments in the window whose conditions hold (R326), and
the saved ones. -/
def State.wanting (s : State) (q : Nat) : List (LaunchRec × Nat) :=
  let x := s.queueAt q
  (x.window.flatMap fun h =>
      ((List.range h.lr.ncrew).filter fun k =>
        !h.started.contains k && (s.crewOf q h.key k).isNone && s.triggered x.slice h k).map fun k => (h.lr, k))
    ++ (s.crews.filter fun c => c.queue == q && c.st == .saved).map fun c => (c.lr, c.index)

/-- Whether a queue gives way to the one whose quantum it is: that one has a crew that fits now (R322). -/
def State.givesWay (s : State) (q : Nat) : Bool :=
  let t := (vget {} s.slices (s.queueAt q).slice).turn
  t != q && decide (t < 64) && (s.wanting t).any fun w => (s.canPlace t w.1 w.2).isSome

/-- Whether no lower crew of the shipment could start instead (R326). -/
def State.lowestFirst (s : State) (q : Nat) (x : Shipment) (k : Nat) : Bool :=
  (List.range k).all fun j =>
    x.started.contains j || (s.crewOf q x.key j).isSome || !s.triggered (s.queueAt q).slice x j || (s.canPlace q x.lr j).isNone

/-! ### Preparing the quays (R328) -/

/-- ST_DICTWIN with a window set (R81). -/
def setWin (w : Word) (win base size : Nat) : Word :=
  (w &&& ~~~(BitVec.ofNat 64 (0xFFFF * 2 ^ (16 * win)))) ||| BitVec.ofNat 64 ((base % 256 + size % 256 * 256) * 2 ^ (16 * win))

/-- A store with a range replaced: `n` entries from `lo` on. -/
def refill {α : Type} [DecidableEq α] (d : α) (l : Sparse α) (lo n : Nat) (cells : List (Nat × α)) : Sparse α :=
  sparseSetAll d (sparseDrop l lo (lo + n)) cells

/-- Entries of a vector where a mask has a bit are set to a value. -/
def maskSet {α : Type} {n : Nat} (v : Vector α n) (mask : Nat) (x : α) : Vector α n :=
  Vector.ofFn fun i => if mask.testBit i.val then x else v.get i

/-- The cells of bytes from an offset on. -/
def byteCells (base : Nat) (bs : List Byte) : List (Nat × Byte) := bs.zipIdx.map fun p => (base + p.2, p.1)

/-- The dictionary entries of an image's bytes, 48 each. -/
def dictCells (base : Nat) (bs : List Byte) : Nat → List (Nat × BitVec 384)
  | 0 => []
  | n + 1 => (base, BitVec.ofNat 384 (ofLeBytes (bs.take 48))) :: dictCells (base + 1) (bs.drop 48) n

/-- What placement clears on a quay (R328, step 4): the reserved banks, berths and projection registers, and the quay's
routing and table registers, rings, tidemarks and bollards (log 53). -/
def Quay.cleared (q : Quay) (l : LaunchRec) : Quay :=
  { q with
    banks := maskSet q.banks l.banks {}, berths := maskSet q.berths l.berths {}, pjs := maskSet q.pjs l.pj {}
    rtes := Vector.replicate 8 none, tabs := Vector.replicate 32 {}, rings := Vector.replicate 64 {}
    tms := Vector.replicate 64 {}, bols := Vector.replicate 64 {}, rcache := [], pushes := []
    ctxs := q.ctxs.map fun c => { c with regs := { c.regs with seen := Vector.replicate 64 0 } } }

/-- A clearing of the tidemark table ends the publishers' bindings (R245). -/
def State.unbindAll (s : State) (q : Nat) : State :=
  (s.quayAt q).tms.toList.foldl (fun s m =>
    let g := sparseGet ({} : GlobalMark) s.gtms m.gidx
    if m.pub then { s with gtms := sparsePut s.gtms m.gidx { g with bound := false } } else s) s

/-- The bytes of a kernel image: the dictionary's, and the scratchpad's at the next multiple of 64 (R323). -/
structure KernelImage where
  dict : List Byte
  sp : List Byte
  deriving DecidableEq, Repr

/-- Reads a kernel image through the slice's translation. -/
def State.readImage (s : State) (slice : Nat) (l : LaunchRec) : Reach KernelImage := do
  let d ← s.readRange (sliceReacher slice) (l.img : Int) (48 * l.dcount)
  let p ← s.readRange (sliceReacher slice) ((l.img + (48 * l.dcount + 63) / 64 * 64 : Nat) : Int) (64 * l.splen)
  pure ⟨d, p⟩

/-- Steps 1 to 4 on one quay of a crew. A crew of another slice than the last finds an empty dictionary (R83). -/
def State.prepQuay (s : State) (c : Crew) (im : KernelImage) (q : Nat) : State :=
  let base := c.baseOn q
  let i := c.pos q
  let dict := c.dictBase.getD i 0
  let s := s.unbindAll q
  let x := s.quayAt q
  let old := if x.lastSlice == some c.slice then x.dict else []
  s.putQuay q
    { x.cleared c.lr with
      sp := refill memDefault x.sp base c.spSize (byteCells base im.sp)
      dict := sparseSetAll 0 old (dictCells (16 * dict) im.dict c.lr.dcount)
      dictwin := setWin x.dictwin (c.winOf q) dict c.dictUnits, lastSlice := some c.slice }

/-- The jetties of a crew that takes whole ones. -/
def Crew.jettyNos (c : Crew) : List Nat := (c.quays.filter fun q => q % 4 == 0).map fun q => q / 4

/-- The lowest context that a crew reserved on a quay. -/
def Crew.firstCtx (c : Crew) (q : Nat) : Nat := (c.ctxs.getD (c.pos q) []).headD 0

/-- Empties the L1s of some quays (R189). -/
def State.dropL1 (s : State) (qs : List Nat) : State := qs.foldl (fun s q => s.putQuay q { s.quayAt q with l1 := [] }) s

/-- Step 5: ST_JETTY and the L1s (R185, R189). Each quay's fused context is its lowest reserved one (log 57), which runs the
quay's lowest strand (R328). -/
def State.setupJetties (s : State) (c : Crew) : State :=
  if !c.lr.byJetty then s
  else
    let s := if c.lr.l1fuse then s.dropL1 c.quays else s
    c.jettyNos.foldl (fun s j =>
      let x : Jetty :=
        { l1fused := c.lr.l1fuse, fused := c.lr.fuse, members := if c.lr.fuse then 15 else 0
          fctx := Vector.ofFn fun i => c.firstCtx (4 * j + i.val)
          fborn := Vector.ofFn fun i => s.bornNow (c.pos (4 * j + i.val) * c.lr.ctxs) }
      { s with jetties := sparsePut s.jetties j x }) s

/-- Strand `i` starts (R328). -/
def State.startMember (s : State) (c : Crew) (i : Nat) : State :=
  let q := c.quays.getD (i / c.lr.ctxs) 0
  let n := (c.ctxs.getD (i / c.lr.ctxs) []).getD (i % c.lr.ctxs) 0
  s.startStrand q (Fin.ofNat 8 n) c i (s.bornNow i) (BitVec.ofNat 32 c.lr.entry) (BitVec.ofNat 2 (c.winOf q)) c.lr.x
    (BitVec.ofNat 64 (i + c.index * 2 ^ 32))

/-! ### The save area's header and table (R343) -/

/-- A section of a save area: type, context or other number, position of the quay, size. -/
structure Section where
  kind : Nat
  num : Nat
  pos : Nat
  size : Nat
  deriving DecidableEq, Repr

/-- The numbers of the bits of a mask below `n`. -/
def bitNos (mask n : Nat) : List Nat := (List.range n).filter fun i => mask.testBit i

/-- The sections of one quay of a crew; their order is the model's (DESIGN CHOICE, log 60). -/
def Crew.quaySections (c : Crew) (pos : Nat) : List Section :=
  ((c.ctxs.getD pos []).flatMap fun n => [⟨1, n, pos, 21696⟩, ⟨2, n, pos, 18688⟩])
    ++ [⟨3, 0, pos, 4160⟩, ⟨4, 0, pos, 16384⟩, ⟨5, 0, pos, c.lr.spad * 1024⟩]
    ++ (bitNos c.lr.banks 16).map (fun b => ⟨6, b, pos, 49152⟩)
    ++ (bitNos c.lr.pj 4).map (fun p => ⟨7, p, pos, 131072⟩)
    ++ [⟨8, 0, pos, 48 * (16 * c.dictUnits)⟩]

def Crew.sections (c : Crew) : List Section := (List.range c.quays.length).flatMap c.quaySections

/-- Where the sections begin. -/
def Crew.sectionStart (c : Crew) : Nat := (0x40 + 16 * c.sections.length + 255) / 256 * 256

/-- The sections with their offsets. -/
def placeSections (off : Nat) : List Section → List (Section × Nat)
  | [] => []
  | x :: t => (x, off) :: placeSections (off + (x.size + 63) / 64 * 64) t

def Crew.saveSize (c : Crew) : Nat := c.sections.foldl (fun n x => n + (x.size + 63) / 64 * 64) c.sectionStart

/-- The largest byte count of a quay: header and table count toward the first. -/
def Crew.saveLargest (c : Crew) : Nat :=
  ((List.range c.quays.length).map fun p =>
    (c.quaySections p).foldl (fun n x => n + x.size) (if p = 0 then c.sectionStart else 0)).foldl Nat.max 0

/-- The header and the section table; `st` is the state byte. -/
def Crew.saveHeader (c : Crew) (st : Nat) : List Byte :=
  leBytes 2 1 ++ leBytes 2 c.sections.length ++ leBytes 4 c.id ++ leBytes 8 c.saveSize
    ++ leBytes 4 ((c.saveLargest * 7 + 959) / 960) ++ leBytes 2 c.quays.length ++ leBytes 1 st ++ leBytes 1 0
    ++ leBytes 8 c.lr.addr ++ List.replicate 32 0
    ++ (placeSections c.sectionStart c.sections).flatMap fun p =>
        leBytes 1 p.1.kind ++ leBytes 1 p.1.num ++ leBytes 2 (c.quays.getD p.1.pos 0) ++ leBytes 4 0 ++ leBytes 4 p.2
          ++ leBytes 4 p.1.size

/-- Writes a run of bytes of a slice's virtual memory, one at a time. -/
def State.pokeRun (s : State) (slice : Nat) : Nat → List Byte → State
  | _, [] => s
  | va, b :: t => (s.pokeVa slice va 1 [b]).pokeRun slice (va + 1) t

/-- The address of a crew's save area. -/
def State.saveBase (s : State) (c : Crew) (off : Nat) : Nat := (vget {} s.slices c.slice).save.toNat + off

/-- A free place in the slice's save pool, at a multiple of 256 (DESIGN CHOICE, log 60): the lowest after another area. -/
def State.saveSpot (s : State) (c : Crew) : Option Nat :=
  let taken := (s.crews.filter fun k => k.slice == c.slice).filterMap fun k => k.saveAt.map fun a => (a, (k.saveLen + 255) / 256 * 256)
  let fits := fun (b : Nat) => decide (b + c.saveSize ≤ (vget {} s.slices c.slice).saveSize.toNat)
    && taken.all fun (t : Nat × Nat) => decide (b + c.saveSize ≤ t.1) || decide (t.1 + t.2 ≤ b)
  ((0 :: taken.map fun t => t.1 + t.2).filter fits).foldl (fun (m : Option Nat) b => match m with
    | none => some b
    | some a => some (Nat.min a b)) none

/-- Gives a crew its save area and writes header and table there. -/
def State.openSave (s : State) (c : Crew) : State :=
  match s.saveSpot c with
  | none => s
  | some a =>
    let s := s.pokeRun c.slice (s.saveBase c a) (c.saveHeader 0)
    s.updCrew c.id fun k => { k with saveAt := some a, saveLen := c.saveSize }

/-! ### Placement (R327, R328) -/

/-- The crew record of a reservation. -/
def newCrew (s : State) (q : Nat) (x : Shipment) (k : Nat) (xs : List Share) : Crew :=
  { id := s.nextCrew, queue := q, ship := x.key, index := k, slice := (s.queueAt q).slice, lr := x.lr, st := CrewState.waiting
    quays := xs.map Share.quay, ctxs := xs.map Share.ctxs, spBases := xs.map Share.base, spSize := 65536 * x.lr.spUnits
    window := xs.map Share.win, dictBase := xs.map Share.dict, dictUnits := x.lr.units, live := 0, startedAt := s.refTime
    placedAt := s.refTime }

/-- Reserves or gives up the contexts of a crew. -/
def State.markCtxs (s : State) (c : Crew) (r : Option Nat) : State :=
  (c.quays.zip c.ctxs).foldl (fun s p => p.2.foldl (fun s n => s.updCtxAt p.1 (Fin.ofNat 8 n) fun x => { x with reservedBy := r }) s) s

/-- Reserves for a crew. -/
def State.reserve (s : State) (c : Crew) : State :=
  ({ s with crews := s.crews ++ [c], nextCrew := s.nextCrew + 1 }).markCtxs c (some c.id)

/-- Starts a crew whose reservation stands and whose image has been read. -/
def State.startCrew (s : State) (c : Crew) (im : KernelImage) : State :=
  let n := c.lr.quays * c.lr.ctxs
  let s := c.quays.foldl (fun s q => s.prepQuay c im q) s
  let s := s.setupJetties c
  let now := s.refTime
  let s := s.updCrew c.id fun k => { k with st := .placed, live := n, startedAt := now }
  let s := s.updShip c.queue c.ship fun x => { x with started := x.started ++ [c.index] }
  let s := (List.range n).foldl (fun s i => s.startMember c i) s
  s.openSave c

/-- Tells who entered a record of a fault of it: the LAUNCH's strand asynchronously (R183), else the error log (R324,
R328). -/
def State.failShip (s : State) (q : Nat) (x : Shipment) (code : FaultCode) : State :=
  match x.origin with
  | none => s.errLog q x.index 0xFFFF code.code
  | some o =>
    s.tellStrand o.born o.quay 0 o.crew ⟨code, 0, o.pc, BitVec.ofNat 32 noIndex, 8⟩

/-- A record whose image cannot be read fails: none of its crews starts any more, and their reservations are given up. -/
def State.failRecord (s : State) (q : Nat) (x : Shipment) : State :=
  let s := s.updShip q x.key fun x => { x with failed := true }
  let gone := s.crews.filter fun c => c.queue == q && c.ship == x.key && c.st == .waiting
  let s := gone.foldl (fun s c => s.markCtxs c none) s
  let s := { s with crews := s.crews.filter fun (c : Crew) => !(c.queue == q && c.ship == x.key && c.st == CrewState.waiting) }
  s.failShip q x .permission

/-- The image of a crew that holds its reservation is read, and the crew starts; an unmapped page is a page wait. -/
def State.loadCrew (s : State) (q : Nat) (x : Shipment) (c : Crew) : State :=
  match s.readImage c.slice c.lr with
  | .ok im => s.startCrew c im
  | .error .wait => s
  | .error (.fault _) => s.failRecord q x
  | .error (.page n a) => s.pagerFault { slice := c.slice, page := n, access := a, waiter := .placement q x.key c.index }

/-- A record of the window that can no longer be placed, since a quay that it needs has failed, counts as CREW_UNPLACEABLE
(R324, R431): it leaves the window. Crews of it that hold their reservations go on. -/
def State.dropUnplaceable (s : State) (q : Nat) (x : Shipment) : State :=
  let held : Bool := s.crews.any fun c => c.queue == q && c.ship == x.key
  if x.started.isEmpty && !held && s.unplaceable (s.queueAt q).slice x.lr then
    (s.updShip q x.key fun x => { x with failed := true }).failShip q x .crewUnplaceable
  else s

/-- A quay has failed: the records in the windows are looked at again (R431). -/
def State.recheckWindows (s : State) : State :=
  (List.range 64).foldl (fun s q => (s.queueAt q).window.foldl (fun s x => s.dropUnplaceable q x) s) s

/-- The acquire with which the trigger bits of a record are read, at the scope of the bitmap (R326): for a peer's or the
host's the L2 copies of peer lines are discarded (R35); the L1s are emptied as the crew's strands start. -/
def State.acquireBits (s : State) (slice : Nat) (l : LaunchRec) : State :=
  match l.tmode, s.reach (sliceReacher slice) false false (l.tbmp : Int) 8 8 false with
  | 0, _ => s
  | _, .ok ls => if s.memScope ls ≤ 2 then s else { s with l2 := [] }
  | _, .error _ => s

/-- CREW_PLACE (R326 to R328): crew `crew` of a shipment is placed. -/
def execCrewPlace (q : Fin 64) (ship : Nat) (crew : Nat) (s : State) : Out :=
  match s.ship? q.val ship with
  | none => .next s
  | some x =>
    if x.failed || crew ≥ x.lr.ncrew || x.started.contains crew || (s.queueAt q.val).weight = 0
        || s.pagerHolds (.placement q.val ship crew) then .next s
    else match s.crewOf q.val ship crew with
      | some c => .next (if s.bandAllows q.val c.lr c.quays then s.loadCrew q.val x c else s)
      | none =>
        if !s.triggered (s.queueAt q.val).slice x crew || s.givesWay q.val || !s.lowestFirst q.val x crew then .next s
        else match s.canPlace q.val x.lr crew with
          | none => .next s
          | some xs =>
            let s := s.acquireBits (s.queueAt q.val).slice x.lr
            let c := newCrew s q.val x crew xs
            .next ((s.reserve c).loadCrew q.val x c)

/-! ### Retirement (R340) -/

/-- A context after its crew has left: its fault registers stay. -/
def Context.vacant (c : Context) : Context := { fault := c.fault, faultPc := c.faultPc, faultVa := c.faultVa }

/-- Releases a crew's reservation: its contexts, and its jetties with their fused L1s (R189, R340). -/
def State.release (s : State) (c : Crew) : State :=
  let s := (c.quays.zip c.ctxs).foldl (fun s p =>
    p.2.foldl (fun s n => s.updCtxAt p.1 (Fin.ofNat 8 n) Context.vacant) s) s
  if !c.lr.byJetty then s
  else
    let s := if c.lr.l1fuse then s.dropL1 c.quays else s
    c.jettyNos.foldl (fun s j => { s with jetties := sparsePut s.jetties j {} }) s

/-- Whether a context of a quay is one of a crew's. -/
def Crew.hasCtx (c : Crew) (q n : Nat) : Bool := c.quays.contains q && (c.ctxs.getD (c.pos q) []).contains n

/-- Whether a record is a crew's. -/
def Mooring.of (m : Mooring) (id : Nat) : Bool := m.crew.toNat == id

def DepWaiter.of (w : DepWaiter) (id : Nat) : Bool :=
  match w with
  | .record _ _ m => m.of id
  | .shipment _ _ => false

def DepOp.of (o : DepOp) (id : Nat) : Bool :=
  match o with
  | .bind _ _ _ _ w => w.of id
  | _ => false

def FutOp.of (o : FutOp) (id : Nat) : Bool :=
  match o with
  | .wait _ _ _ _ m => m.of id
  | _ => false

/-- Whether a record of a crew waits anywhere: in a deque, an overflow list, a wait list, an image or an arrival. -/
def State.hasRecords (s : State) (id : Nat) : Bool :=
  (s.quays.any fun e => e.2.deque.any (fun m => m.of id) || e.2.arrivals.any fun a => a.crew == id)
    || (s.crews.any fun c => c.overflow.any fun e => e.2.2.of id)
    || s.depWait.any (fun w => w.2.of id) || s.depOps.any (fun o => o.of id) || s.futWait.any (fun w => w.2.of id)
    || s.futOps.any (fun o => o.of id) || s.images.any fun i => i.mooring.of id

/-- Whether stores or reductions of a crew's contexts have not performed yet. -/
def State.hasStores (s : State) (c : Crew) : Bool :=
  c.quays.any fun q =>
    (s.quayAt q).drained.any (fun g => c.hasCtx q g.ctx.val) || (s.quayAt q).unacked.any fun u => c.hasCtx q u.2.2.ctx

/-- Whether a crew retires now (R340). Its stores have performed (R46). -/
def State.retires (s : State) (c : Crew) : Bool :=
  c.st == .placed && c.live == 0 && !(s.quays.any fun e => e.2.dock.any fun d => d.crew == some c.id) && !s.hasRecords c.id
    && !s.hasStores c

/-- A crew is gone; a shipment whose crews are all gone is complete. -/
def State.forget (s : State) (c : Crew) : State :=
  let s := { s with crews := s.crews.filter fun k => k.id != c.id, pilots := s.pilots.filter fun p => p.crew != c.id }
  let s := s.updShip c.queue c.ship fun x => { x with retired := x.retired ++ [c.index] }
  s.updQueue c.queue fun y => { y with shipments := y.shipments.filter fun x => !(x.key == c.ship && decide (x.lr.ncrew ≤ x.retired.length)) }

/-- A completion bit that stays unset: the error log and the system context are told (R340). -/
def State.bitLost (s : State) (c : Crew) : State :=
  let i := match s.ship? c.queue c.ship with
    | some x => x.index
    | none => noIndex
  ((s.errLog c.queue i c.index FaultCode.permission.code).report .permission (c.quays.headD 0) 0 (some c.id) 0).forget c

/-- Sets the completion bit of a crew that has given up its reservation, as a BMSET would (R340). -/
def State.setDone (s : State) (c : Crew) : State :=
  if c.lr.cbmp = 0 then s.forget c
  else
    let bit := c.lr.cbit + c.index
    match s.reach (sliceReacher c.slice) false false ((c.lr.cbmp + 8 * (bit / 64) : Nat) : Int) 8 8 true with
    | .error .wait => s
    | .error (.fault _) => s.bitLost c
    | .error (.page n a) => s.pagerFault { slice := c.slice, page := n, access := a, waiter := .retirement c.id }
    | .ok ls =>
      let op : AtomicOp := .bits (BitVec.ofNat 64 (2 ^ (bit % 64)))
      let (age, s) := (s.atHome ls op).2.nextAge
      (s.atQuay (c.quays.headD 0) fun s => s.sendAtomic .unit 0 age op (physAddrs ls)).forget c

/-- CREW_RETIRE (R340). -/
def execCrewRetire (id : Nat) (s : State) : Out :=
  match s.crew id with
  | none => .next s
  | some c =>
    if c.st == .retiring then (if s.pagerHolds (.retirement id) then .next s else .next (s.setDone c))
    else if !s.retires c then .next s
    else .next (((s.release c).updCrew id fun k => { k with st := .retiring, saveAt := none }).setDone c)

/-! ### The end of a crew (R330, R341) -/

/-- Whether a tidemark of a quay is one of a crew's: its run or its binding, or any that is no crew's when no other crew is
there. -/
def State.ownsTm (s : State) (c : Crew) (q : Nat) (m : Tidemark) : Bool :=
  m.crew == some c.id
    || ((m.crew.bind s.crew).isNone && (s.holders q).all fun k => k.id == c.id)

/-- A crew's tidemarks on a quay are abandoned; what they publish breaks (R330), and the bindings end. -/
def State.endTms (s : State) (c : Crew) (q : Nat) : State :=
  (List.range 64).foldl (fun s t =>
    let m := vget {} (s.quayAt q).tms t
    if !s.ownsTm c q m || m.fol then s
    else
      let s := s.atQuay q fun s => s.abandonTm t m.pub
      if !m.pub then s
      else
        let g := sparseGet ({} : GlobalMark) s.gtms m.gidx
        let x := vget ({} : Tidemark) (s.quayAt q).tms t
        let s := { s with gtms := sparsePut s.gtms m.gidx { g with bound := false } }
        s.putQuay q { s.quayAt q with tms := vput (s.quayAt q).tms t { x with pub := false } }) s

/-- An abandoned command leaves the dock without completing, and its claims end (R243). A CLGO's instance ends here as by a
CLCAN, without the messages (DESIGN CHOICE, log 62). -/
def State.leaveCmd (s : State) (d : DockEntry) : State :=
  let inst := (List.range 64).find? fun n =>
    let x := s.slot n
    d.opc == 0x51 && x.goQuay == s.here && (s.collCmd x).any fun e => e.seq == d.seq
  match inst with
  | some n => s.collCancel n (s.slot n).gen
  | none => (s.popClaims d).retireCmd d

/-- A command is abandoned (R243): it leaves the dock, and its tidemark ends. -/
def State.abandonCmd (s : State) (d : DockEntry) (broken : Bool) : State :=
  let s := s.leaveCmd d
  if s.holds d then s.abandonTm d.o.tm.val broken else s

/-- A crew's commands in a quay's dock are abandoned: all have left before the first tidemark ends, so that none of them takes
a fault as a chaser of another's. -/
def State.endCmds (s : State) (c : Crew) (q : Nat) : State :=
  let mine := (s.quayAt q).dock.filter fun d => d.crew == some c.id
  s.atQuay q fun s =>
    (mine.filter s.holds).foldl (fun s d => s.abandonTm d.o.tm.val (s.tm d.o.tm.val).pub) (mine.foldl State.leaveCmd s)

/-- A crew's arrivals on a quay are dropped with its strands. What they have drained performs, without flags (R67). -/
def State.endStrands (s : State) (c : Crew) (q : Nat) : State :=
  s.putQuay q { s.quayAt q with arrivals := (s.quayAt q).arrivals.filter fun a => a.crew != c.id }

/-- A crew's records are dropped. -/
def State.dropRecords (s : State) (id : Nat) : State :=
  let quays := s.quays.map fun e => (e.1, { e.2 with deque := e.2.deque.filter fun m => !m.of id })
  { s with
    quays := quays, depWait := s.depWait.filter fun w => !w.2.of id, depOps := s.depOps.filter fun o => !o.of id
    futWait := s.futWait.filter fun w => !w.2.of id, futOps := s.futOps.filter fun o => !o.of id
    images := s.images.filter fun i => !i.mooring.of id }

/-- What a saved crew has left of its tidemarks on a quay of other crews, which see it as it stood (R244; log 125), and does not
leave there any longer. -/
def State.dropStale (s : State) (c : Crew) (q : Nat) : State :=
  s.putQuay q { s.quayAt q with
    tms := (s.quayAt q).tms.map fun m => if m.crew == some c.id then { chasers := m.chasers } else m }

/-- The tidemarks that a saved crew has left on a quay are abandoned with it (R243, R330). -/
def State.endStale (s : State) (c : Crew) (p : Nat × SavedQuay) : State :=
  s.atQuay p.1 fun s => (List.range 64).foldl (fun s t =>
    if (s.tm t).crew == some c.id then s.abandonTm t (vget {} p.2.tms t).pub else s) s

/-- What a saved crew publishes breaks, as it would on a quay (R330), and its collective instances end. -/
def State.endSaved (s : State) (c : Crew) : State :=
  let mine := (List.range 64).filter fun n => (s.slot n).crew == some c.id && !(s.slot n).ownDone
  let s := mine.foldl (fun s n => s.collCancel n (s.slot n).gen) s
  let s := (c.quays.zip c.saved).foldl (fun s p => s.endStale c p) s
  (c.saved.flatMap fun q => q.tms.toList).foldl (fun s m =>
    if !m.pub then s
    else
      let g := sparseGet {} s.gtms m.gidx
      let broke : Bool := m.st == .run || m.st == .halt
      let g' := { g with bound := false, st := if broke then .abandon else g.st, broken := g.broken || broke }
      let s := { s with gtms := sparsePut s.gtms m.gidx g' }
      if broke then s.otherMembers.foldl (fun s d => s.toDev d (.tidemark m.gidx g'.remote)) s else s) s

/-- CREW_END (R341): the system context ends a crew, running or saved or waiting for its image. -/
def execCrewEnd (id : Nat) (s : State) : Out :=
  match s.crew id with
  | none => .next s
  | some c =>
    if c.st == .retiring then .next s
    else
      let s := if c.st == .placed then
          c.quays.foldl (fun s q => ((s.endCmds c q).endTms c q).endStrands c q) s
        else s.endSaved c
      let s := (s.dropRecords id).updShip c.queue c.ship fun x =>
        { x with started := if x.started.contains c.index then x.started else x.started ++ [c.index] }
      let s := if c.holds then s.release c else s
      let i := match s.ship? c.queue c.ship with
        | some x => x.index
        | none => noIndex
      .next ((s.errLog c.queue i c.index c.firstFault).forget c)

/-! ### Energy (R336) -/

/-- ENERGY_WINDOW (R336): the meters add the energy spent to the accounts of the queues, which are empty at the start of a
window of 1 ms; the shares are those of the queues that take part now. -/
def execEnergyWindow (spent : List (Nat × Nat)) (s : State) : Out :=
  let qs := Vector.ofFn fun (i : Fin 64) => { s.queueAt i.val with energy := s.energyNow i.val, share := s.shareOf i.val }
  .next (spent.foldl (fun s p => s.updQueue p.1 fun x => { x with energy := x.energy + p.2 })
    { s with energyWin := s.windowNow, queues := qs })

end Sys2Proof.Machine
end

