-- ==== Sys2Proof/Machine/Preempt.lean ====
section
/-! DEFINITION. Pre-emption (R190 to R193, R244, R286, R307, R322, R337, R342, R343): when a crew can be stopped, what is
saved, the bytes of the save area, and how a crew comes back. -/

namespace Sys2Proof.Machine

open Sys2Proof

/-! ### Snapshots as bytes (R192, R193) -/

/-- The number of a context state in the order of R155. -/
def CtxState.code : CtxState → Nat
  | .dormant => 0 | .ready => 1 | .active => 2 | .waiting => 3 | .parked => 4 | .faulted => 5

/-- The entries of a slot's queue: the slot's words and the addresses of their bundles. -/
def Context.slotQueue (c : Context) (k : Slot) : List (Nat × BitVec 32) :=
  c.queue.filterMap fun e => match e.what with
    | .slot j w => if j == k then some (w, e.pc) else none
    | .event _ => none

/-- The bundle index of a slot's next operation: that of the first in its queue, else the next one to be dispatched. -/
def Context.slotNext (c : Context) (k : Slot) : Nat :=
  match c.queue.find? fun e => e.lane == slotNum k with
  | some e => e.idx
  | none => c.lastIdx + 1

/-- The slots in order. -/
def slotList : List Slot := [.s0, .s1, .m, .v0, .v1, .e, .b]

/-- A latch as the slot's next operation reads it (R99). -/
def Context.latchNext (c : Context) (k : Slot) (n : Nat) : Option VWord := c.latchAt? k (c.slotNext k) n

/-- One latch in a snapshot: its bytes, zero when it is empty. -/
def Context.latchBytes (c : Context) (k : Slot) (size n : Nat) : List Byte :=
  leBytes size (((c.latchNext k n).getD 0).toNat % 2 ^ (8 * size))

/-- The number of a location: an absolute offset or a physical address. -/
def Loc.num : Loc → Nat
  | .sp o => o
  | .phys p => p

/-- The code of a memory type in a snapshot (DESIGN CHOICE, log 60). -/
def State.locType (s : State) : Loc → Nat
  | .sp _ => 3
  | .phys p => match s.memType p with
    | .ok .hbm => 0
    | .ok .peer => 1
    | .ok .host => 2
    | .error _ => 0

/-- A gated store in a snapshot: address, size, memory type, data. -/
def State.gatedParts (s : State) (g : GStore) : Nat × Nat × Nat × List Byte :=
  match g.kind with
  | .bytes cells => ((cells.head?.map fun p => p.1.num).getD 0, cells.length, (cells.head?.map fun p => s.locType p.1).getD 0,
      cells.map Prod.snd)
  | .reduce _ t es => ((es.head?.map fun p => p.1.num).getD 0, es.length * redBytes t, (es.head?.map fun p => s.locType p.1).getD 0,
      es.flatMap fun p => leBytes (redBytes t) p.2.toNat)
  | .sendh l _ => (l.addr, l.bytes, 1, l.cells.map Prod.snd)

/-- The file and number of a register in a snapshot; the codes of the files are the model's (log 60). -/
def RegId.codes : RegId → Nat × Nat
  | .x r => (0, r.val) | .y r => (1, r.val) | .a r => (2, r.val) | .e r => (3, r.val) | .v r => (4, r.val)
  | .w r => (5, r.val) | .q r => (6, r.val) | .k r => (7, r.val) | .g r => (8, r.val)

/-- Bytes cut or filled with zeros to a length. -/
def padTo (n : Nat) (l : List Byte) : List Byte := (l ++ List.replicate (n - l.length) 0).take n

/-- The context snapshot of version 1 (R192); a DORMANT context's holds only its number and state 0. -/
def State.contextSnapshot (s : State) (c : Context) (n : Nat) : List Byte :=
  if c.st == .dormant then padTo 21696 (leBytes 2 1 ++ leBytes 1 n)
  else
    let loads := c.loads.filter OLoad.lands
    let head := leBytes 2 1 ++ leBytes 1 n ++ leBytes 1 c.st.code ++ leBytes 4 c.pc.toNat
      ++ slotList.flatMap (fun k => leBytes 4 (((c.slotQueue k).head?.map Prod.snd).getD c.pc).toNat)
      ++ leBytes 4 c.mark.toNat ++ leBytes 1 c.gated.length ++ leBytes 1 loads.length
      ++ slotList.flatMap fun k => leBytes 1 (c.slotQueue k).length
    let queues := slotList.flatMap fun k =>
      padTo 256 ((c.slotQueue k).flatMap fun p => leBytes 8 p.1 ++ leBytes 4 p.2.toNat ++ leBytes 4 0)
    let lat := fun (size : Nat) (ks : List Slot) => ks.flatMap fun k => (List.range 4).flatMap fun i => c.latchBytes k size i
    let full := ([Slot.s0, .s1, .v0, .v1].zipIdx.map fun p =>
      ((List.range 4).map fun i => if (c.latchNext p.1 i).isSome then 2 ^ (4 * p.2 + i) else 0).sum).sum
    let loads := (loads.zipIdx.take 16).flatMap fun p =>
      leBytes 8 p.1.va.toNat ++ leBytes 1 p.1.hd ++ leBytes 1 p.1.reg.codes.1 ++ leBytes 1 p.1.reg.codes.2
        ++ leBytes 1 p.1.opc ++ leBytes 4 p.2
    let parts := (c.gated.take 64).map fun g => (s.gatedParts g, g.hd)
    padTo 64 head ++ queues ++ lat 8 [.s0, .s1] ++ lat 256 [.v0, .v1] ++ padTo 64 (leBytes 2 full) ++ padTo 256 loads
      ++ padTo 1024 (parts.flatMap fun p =>
          leBytes 8 p.1.1 ++ leBytes 2 p.1.2.1 ++ leBytes 1 p.1.2.2.1 ++ leBytes 1 p.2 ++ leBytes 4 0)
      ++ padTo 16384 (parts.flatMap fun p => padTo 256 p.1.2.2.2)

/-- Inserts an element behind those with no larger key. -/
def insertBy {α : Type} (key : α → Nat) (x : α) : List α → List α
  | [] => [x]
  | y :: t => if key x < key y then x :: y :: t else y :: insertBy key x t

/-- Sorts a list by a key, keeping the order of equal ones. -/
def sortBy {α : Type} (key : α → Nat) (l : List α) : List α := l.foldl (fun r x => insertBy key x r) []

/-- Dock entries in dock-entry order: those that have entered by rank, then the others by issue (R193, R274). -/
def dockOrder (l : List DockEntry) : List DockEntry :=
  sortBy DockEntry.rank (l.filter fun d => d.rank != 0) ++ sortBy DockEntry.seq (l.filter fun d => d.rank == 0)

/-- The place of an entry in issue order among some. -/
def issueRank (l : List DockEntry) (d : DockEntry) : Nat := (l.filter fun e => e.seq < d.seq).length

/-- The state of a dock entry in a snapshot. -/
def Phase.code : Phase → Nat
  | .issued | .waiting => 0 | .running => 1 | .halted | .pageWait => 2

/-- The quay snapshot of version 1 (R193). The engines' resume data is their own: free values (log 20). -/
def State.quaySnapshot (s : State) (quay : Nat) (dock : List DockEntry) (tms : Vector Tidemark 64) : List Byte × State :=
  let l := dockOrder dock
  let entry := fun (p : DockEntry × Nat) =>
    let d := p.1
    leBytes 8 (encode d.op) ++ leBytes 8 d.pa.toNat ++ leBytes 8 d.pb.toNat ++ leBytes 4 d.pc.toNat ++ leBytes 1 d.ctx.val
      ++ leBytes 1 d.phase.code ++ leBytes 2 (issueRank l d) ++ leBytes 4 d.seed.toNat ++ leBytes 4 d.count
      ++ leBytes 4 (if d.opc = 0x31 then d.count else d.ktile)
      ++ (List.range 5).flatMap fun i => leBytes 4 ((Config.freeWord (s.fresh + 5 * p.2 + i)).toNat % 2 ^ 32)
  (padTo 64 (leBytes 2 1 ++ leBytes 2 quay ++ leBytes 1 l.length) ++ padTo 2048 (l.zipIdx.flatMap entry)
      ++ tms.toList.flatMap Tidemark.bytes,
    { s with fresh := s.fresh + 160 })

/-- The context image of a saved context: its mark, and the streams as they stand (R170, R190). -/
def Context.savedImage (c : Context) : List Byte :=
  { c with regs := { c.regs with streamPos := c.streams.map Stream.seq } }.imageBytes c.mark

/-- The bytes of a section of a saved crew (R343). The layout of the engine state is not stated: free values (log 20). -/
def State.sectionBytes (s : State) (c : Crew) (x : Section) : List Byte × State :=
  let q := c.saved[x.pos]?
  match q with
  | none => ([], s)
  | some q =>
    let ctx := ((q.ctxs.find? fun p => p.1 == x.num).map Prod.snd).getD {}
    match x.kind with
    | 1 => (s.contextSnapshot ctx x.num, s)
    | 2 => (if ctx.st == .dormant then List.replicate 18688 0 else ctx.savedImage, s)
    | 3 => s.quaySnapshot (c.quays.getD x.pos 0) q.dock q.tms
    | 4 => ((List.range 2048).flatMap fun i => leBytes 8 (Config.freeWord (s.fresh + i)).toNat, { s with fresh := s.fresh + 2048 })
    | 5 => ((List.range x.size).map fun i => sparseGet memDefault q.sp i, s)
    | 6 => ((denseWords 0 12288 (((q.banks.find? fun p => p.1 == x.num).map Prod.snd).getD {}).words).flatMap (leBytes 4), s)
    | 7 =>
      let p := ((q.pjs.find? fun p => p.1 == x.num).map Prod.snd).getD {}
      ((List.range 65536).flatMap fun i => leBytes 2 (sparseGet (0 : BitVec 16) p.words i).toNat, s)
    | _ => (padTo x.size (q.dict.flatMap fun b => leBytes 48 b.toNat), s)

/-- Writes the save area of a saved crew (R342). -/
def State.writeSave (s : State) (c : Crew) : State :=
  match c.saveAt with
  | none => s
  | some a =>
    let base := s.saveBase c a
    let s := (placeSections c.sectionStart c.sections).foldl (fun s p =>
      let (bs, s) := s.sectionBytes c p.1
      s.pokeRun c.slice (base + p.2) bs) s
    s.pokeRun c.slice base (c.saveHeader 2)

/-! ### Stopping (R342) -/

/-- Whether a command must complete, or have its beats acknowledged, before its crew is saved (R286, R307, R342, R375). -/
def DockEntry.mustEnd (d : DockEntry) : Bool :=
  (d.sends && !d.flight.isEmpty) || (d.phase == .running && match d.op with
    | .mma _ | .mmas _ => decide (0 < d.group)
    | .acz _ | .pjld _ | .tbld _ | .tspl _ | .tfil _ | .tinv _ | .tstat _ | .pfxh _ | .mfpub _ | .clcan _ => true
    | _ => d.isKv || (decide (0x60 ≤ d.opc) && decide (d.opc ≤ 0x68)))

/-- Writes the state byte of a crew's save area (R343). -/
def State.markSave (s : State) (c : Crew) (st : Nat) : State :=
  match c.saveAt with
  | none => s
  | some a => s.pokeVa c.slice (s.saveBase c a + 0x16) 1 (leBytes 1 st)

/-- The harbourmaster asks a placed crew to stop: its contexts dispatch nothing more (R190, R342). -/
def State.askStop (s : State) (id : Nat) : State :=
  match s.crew id with
  | none => s
  | some c => if c.st != .placed || c.stop then s else (s.updCrew id fun k => { k with stop := true }).markSave c 1

/-- Whether a crew that has been asked to stop can be saved now: its stores and reductions have performed, since their flags
belong to its strands (R67), and its commands stand where they can be stopped. -/
def State.canStop (s : State) (c : Crew) : Bool :=
  c.st == .placed && c.stop && !c.restoring && !s.hasStores c
    && c.quays.all fun q => (s.quayAt q).dock.all fun d => d.crew != some c.id || !d.mustEnd

/-- Whether the last bundle of a context waits at a header: its own, or for a member of a lock-step that of any member, which
holds all (R185). -/
def State.headerHeld (s : State) (quay n : Nat) : Bool :=
  let t := { s with here := quay }
  if t.lockedCtx == some n then t.lockedQuays.any fun q => (t.fusedCtx q).atHeader
  else ((s.quayAt quay).ctx (Fin.ofNat 8 n)).atHeader

/-- The operations that a crew's contexts have begun land; a bundle that waits at its header is still to be dispatched, in all
quays of a lock-step, which stop at the same bundle index (R190). -/
def State.landCrew (s : State) (c : Crew) : State :=
  let ctxs := (c.quays.zip c.ctxs).flatMap fun p => p.2.map fun n => (p.1, n, s.headerHeld p.1 n)
  ctxs.foldl (fun s p => s.atQuay p.1 fun s => s.asCtx (Fin.ofNat 8 p.2.1) fun s =>
    s.landAll.updCtx fun c => if p.2.2 then c.takeBack else c) s

/-- The arrivals of a crew on a quay whose handlers have not started become mooring records, as where no context is DORMANT
(R16; DEDUCED, log 97). -/
def State.moorArrivals (s : State) (c : Crew) (q : Nat) : State :=
  let (mine, rest) := (s.quayAt q).arrivals.partition fun a => a.crew == c.id
  mine.foldl (fun s a => (s.addLive c.id 1).moor q false (s.arrivalRecord c q a))
    (s.putQuay q { s.quayAt q with arrivals := rest })

/-- A command as it is saved: a running one goes back to the point from which it continues (R244, R286); a TLK that has
started rebuilds its registers, and a TBLD that has stopped builds its own anew, since no entries are saved (R307); a stream and
a collective instance go on as they are. -/
def State.stopCmd (s : State) (d : DockEntry) : DockEntry :=
  match d.op with
  | .sbind _ | .clgo _ => d
  | .tlk _ => if d.started then { d with phase := if d.phase == .running then .waiting else d.phase
                                         words := (tlkRegs d).map Prod.fst, group := 0 } else d
  | .tbld _ => { d with started := false }
  | _ =>
    let d := { d with flight := if d.sends then d.flight else [] }
    if d.phase != .running then d
    else match d.op with
      | .mma _ | .mmas _ => { d with phase := .waiting, group := 0 }
      | _ => { d with phase := .waiting, count := if s.holds d && !d.sends then s.resumeIndex d else d.count }

/-- The crew's tidemarks as they are saved; their chasers are counted again where they come back. -/
def State.savedTms (s : State) (c : Crew) (q : Nat) : Vector Tidemark 64 :=
  (s.quayAt q).tms.map fun m => if s.ownsTm c q m then { m with chasers := 0 } else {}

/-- What a crew's quay keeps (R343). -/
def State.saveQuay (s : State) (c : Crew) (pos : Nat) : SavedQuay :=
  let n := c.quays.getD pos 0
  let q := s.quayAt n
  let at' := { s with here := n }
  let dock := (q.dock.filter fun d => d.crew == some c.id).map at'.stopCmd
  let dict := c.dictBase.getD pos 0
  { ctxs := (c.ctxs.getD pos []).map fun i => (i, q.ctx (Fin.ofNat 8 i))
    sp := sparseSlice q.sp (c.baseOn n) (c.baseOn n + c.spSize)
    banks := (bitNos c.lr.banks 16).map fun b => (b, vget {} q.banks b)
    pjs := (bitNos c.lr.pj 4).map fun p => (p, vget {} q.pjs p)
    berths := (bitNos c.lr.berths 16).map fun b => (b, vget {} q.berths b)
    tms := s.savedTms c n, bols := q.bols, rings := q.ringsNow, rtes := q.rtes, tabs := q.tabs, dock := dock
    dict := (List.range (16 * c.dictUnits)).map fun i => sparseGet 0 q.dict (16 * dict + i)
    jetty := { sparseGet ({} : Jetty) s.jetties (n / 4) with rejoin := 0 } }

/-- What a saved crew leaves of a tidemark in the table of a quay where other crews run: their chasers see the state and the
value as they stood, and wait (R244; log 125). -/
def Tidemark.left (m : Tidemark) (id : Nat) : Tidemark :=
  if m.st == .idle then { chasers := m.chasers } else { m with crew := some id, pub := false, fol := false }

/-- The crew's commands leave a quay's dock, and its tidemarks the table, but for what crews that stay there see of them; what the
record cache keeps of its table goes. -/
def State.leaveQuay (s : State) (c : Crew) (q : Nat) : State :=
  let mine := (s.quayAt q).dock.filter fun d => d.crew == some c.id
  let s := s.atQuay q fun s => mine.foldl (fun s d => s.retireCmd d) s
  let base := c.baseOn q
  let own := fun m => s.ownsTm c q m
  let alone := (s.holders q).all fun k => k.id == c.id
  s.putQuay q
    { s.quayAt q with
      tms := (s.quayAt q).tms.map fun m => if !own m then m else if alone then {} else m.left c.id
      rcache := (s.quayAt q).rcache.filter fun e => decide (e.1 < base) || decide (base + c.spSize ≤ e.1) }

/-- Saves a crew that has stopped (R342). -/
def State.preempt (s : State) (c : Crew) : State :=
  let s := c.quays.foldl (fun s q => s.moorArrivals c q) (s.landCrew c)
  let saved := (List.range c.quays.length).map (s.saveQuay c)
  let s := c.quays.foldl (fun s q => s.leaveQuay c q) s
  let s := s.release c
  let s := s.updCrew c.id fun k => { k with st := .saved, saved := saved, stop := false }
  match s.crew c.id with
  | some k => s.writeSave k
  | none => s

/-- CREW_PREEMPT (R342): system software's request asks the crew to stop; a crew that has been asked is saved once its engines
have stopped. -/
def execCrewPreempt (id : Nat) (s : State) : Out :=
  match s.crew id with
  | none => .next s
  | some c =>
    if !c.stop then .next (if s.system then s.askStop id else s)
    else .next (if s.canStop c then s.preempt c else s)

/-! ### Coming back (R193, R307, R342, R343) -/

/-- How one quay of a crew moves: numbers of its quay and contexts, and by how much its range shifts. -/
structure Relocation where
  old : Nat
  new : Nat
  ctxs : List (Nat × Nat)
  shift : Int
  base : Nat
  win : Nat
  dict : Nat
  oldWin : Nat
  oldDict : Nat
  cycle : Nat
  seqs : List (Nat × Nat)
  deriving DecidableEq, Repr

/-- The new number of a context; one of another crew keeps its own. -/
def Relocation.ctx (r : Relocation) (n : Nat) : Nat := ((r.ctxs.find? fun p => p.1 == n).map Prod.snd).getD n

/-- The new issue sequence number of a command. -/
def Relocation.seq (r : Relocation) (n : Nat) : Nat := ((r.seqs.find? fun p => p.1 == n).map Prod.snd).getD n

def Relocation.loc (r : Relocation) (l : Loc) : Loc :=
  match l with
  | .sp o => .sp ((o : Int) + r.shift).toNat
  | l => l

def Relocation.store (r : Relocation) (g : GStore) : GStore :=
  let kind := match g.kind with
    | .bytes cells => .bytes (cells.map fun p => (r.loc p.1, p.2))
    | .reduce op t es => .reduce op t (es.map fun p => (r.loc p.1, p.2))
    | k => k
  { g with ctx := Fin.ofNat 8 (r.ctx g.ctx.val), kind := kind }

/-- The number of a quay of the crew on the new placement. -/
def moveQuay (rs : List Relocation) (q : Nat) : Nat :=
  match rs.find? fun r => r.old == q with
  | some r => r.new
  | none => q

/-- The tidemark that a context waits on is that of the new quay. -/
def moveWait (rs : List Relocation) (w : WaitOn) : WaitOn :=
  match w with
  | .tidemark q t => .tidemark (moveQuay rs q) t
  | w => w

/-- An outstanding TMW reads the tidemark of the new quay. -/
def OLoad.moved (rs : List Relocation) (l : OLoad) : OLoad :=
  match l.form with
  | .tm q t k => { l with form := .tm (moveQuay rs q) t k }
  | _ => l

/-- The command that a run belongs to, under its new number. -/
def Relocation.writer (r : Relocation) (w : Option TmWriter) : Option TmWriter :=
  w.map fun w => match w with
    | .command n => .command (r.seq n)
    | w => w

/-- A window number on the new quay: the crew's own window is the new one, another keeps its number (R343). -/
def Relocation.window (r : Relocation) (w : Nat) : Nat := if w = r.oldWin then r.win else w

/-- Registers whose ST_DICTSEL named the crew's window name its new one (R343). -/
def Relocation.sel (r : Relocation) (h : Shadowed) : Shadowed :=
  { h with dictsel := BitVec.ofNat 2 (r.window h.dictsel.toNat) }

/-- A saved context on its new quay. Its streams read on from their positions. -/
def Relocation.context (r : Relocation) (rs : List Relocation) (id : Nat) (win : Word) (c : Context) : Context :=
  { c with
    st := if c.st == .active then .ready else c.st
    regs := r.sel c.regs, shadow := r.sel c.shadow, entry := r.sel c.entry
    win := win, reservedBy := some id, spBase := r.base, lines := [], held := [], ran := []
    streams := c.streams.map fun (t : Stream) => { t with buf := [] }
    gated := c.gated.map r.store, loads := c.loads.map fun l => { l.moved rs with locs := l.locs.map r.loc }
    xlates := c.xlates.map fun x => { x with cycle := r.cycle }
    waitCycles := if c.waitCycles = 0 then 0 else r.cycle + 1, waitOn := moveWait rs c.waitOn
    futw := c.futw.map fun p => (r.seq p.1, p.2) }

/-- A saved command on its new quay; `rank` is its place in dock-entry order. What it sends goes on under the number with which it
began (R16, R17). -/
def Relocation.command (r : Relocation) (rs : List Relocation) (rank : Nat) (d : DockEntry) : DockEntry :=
  { d with
    seq := r.seq d.seq, ctx := Fin.ofNat 8 (r.ctx d.ctx.val), spBase := r.base
    waited := r.cycle, readyAt := r.cycle, rank := if d.rank = 0 then 0 else rank
    sendId := some (d.sendId.getD (r.old, d.seq)), reqAt := none, away := d.away.map fun p => (moveQuay rs p.1, p.2) }

/-- A table register that comes back: filled ones are stale, armed again, with GEN raised (R307). -/
def Relocation.tab (r : Relocation) (t : TabReg) : TabReg :=
  let range := match t.range with
    | .rows a b => .rows ((a : Int) + r.shift / 2048).toNat ((b : Int) + r.shift / 2048).toNat
    | x => x
  if !t.filled then { t with range := range }
  else { t with valid := false, armed := true, gen := nextGen t.gen, range := range, entries := [], dirty := false }

/-- Puts numbered entries into a vector. -/
def putAll {α : Type} {n : Nat} (v : Vector α n) (l : List (Nat × α)) : Vector α n := l.foldl (fun v p => vput v p.1 p.2) v

/-- Installs what a crew's quay has kept (R343). The crew's tidemarks return beside those of other crews. -/
def Relocation.install (r : Relocation) (rs : List Relocation) (c : Crew) (k : SavedQuay) (q : Quay) : Quay :=
  let dock := dockOrder k.dock
  let win := setWin q.dictwin r.win r.dict c.dictUnits
  let old := if q.lastSlice == some c.slice then q.dict else []
  let tms := Vector.ofFn fun (t : Fin 64) =>
    let m := k.tms.get t
    if m == ({} : Tidemark) then q.tms.get t else { m with wctx := r.ctx m.wctx, writer := r.writer m.writer }
  let q := q.cleared c.lr
  { q with
    ctxs := putAll q.ctxs (k.ctxs.map fun p => (r.ctx p.1, r.context rs c.id win p.2)), dictwin := win, lastSlice := some c.slice
    dict := sparseSetAll 0 old (k.dict.zipIdx.map fun p => (16 * r.dict + p.2, p.1))
    sp := refill memDefault q.sp r.base c.spSize (k.sp.map fun p => (r.base + p.1, p.2))
    banks := putAll q.banks k.banks, pjs := putAll q.pjs k.pjs, berths := putAll q.berths (k.berths.map fun p => (p.1, { p.2 with setBy := r.writer p.2.setBy }))
    tms := tms, rings := k.rings, rtes := k.rtes, tabs := k.tabs.map r.tab
    bols := k.bols.map fun b => { b with armed := b.armed.map fun a =>
      { a with ctx := Fin.ofNat 8 (r.ctx a.ctx.val), spBase := r.base } }
    dock := q.dock ++ dock.zipIdx.map fun p => r.command rs (q.nextRank + 1 + p.2) p.1
    nextSeq := q.nextSeq + dock.length, nextRank := q.nextRank + dock.length }

/-- The quay that a tidemark saved on a quay overwrites publishes no more through it. -/
def State.unbindUnder (s : State) (q : Nat) (k : SavedQuay) : State :=
  ((s.quayAt q).tms.toList.zip k.tms.toList).foldl (fun s p =>
    if p.1.pub && p.2 != ({} : Tidemark) then
      let g := sparseGet ({} : GlobalMark) s.gtms p.1.gidx
      { s with gtms := sparsePut s.gtms p.1.gidx { g with bound := false } }
    else s) s

/-- How quay `pos` of a saved crew moves to a share. -/
def State.relocation (s : State) (c : Crew) (pos : Nat) (x : Share) : Relocation :=
  let k := c.saved[pos]?
  let dock := (k.map SavedQuay.dock).getD []
  let q := s.quayAt x.quay
  { old := c.quays.getD pos 0, new := x.quay, ctxs := (c.ctxs.getD pos []).zip x.ctxs
    shift := (x.base : Int) - (c.spBases.getD pos 0 : Int), base := x.base, win := x.win, dict := x.dict
    oldWin := c.window.getD pos 0, oldDict := c.dictBase.getD pos 0
    cycle := q.cycle.toNat, seqs := dock.map fun d => (d.seq, q.nextSeq + issueRank dock d) }

/-- The move that a record follows: that of its hint quay, else of a quay whose window it names. -/
def Mooring.move (m : Mooring) (rs : List Relocation) : Option Relocation :=
  match rs.find? fun r => r.old == field m.hint.toNat 0 9 with
  | some r => some r
  | none => rs.find? fun r => r.oldWin == m.window.toNat % 4

/-- A record's hint and window on the new placement, position for position (R342, R343). A BASE that no longer held at the save
still does not hold (R86). -/
def relocateRecord (rs : List Relocation) (id : Nat) (m : Mooring) : Mooring :=
  if !m.of id then m
  else match m.move rs with
    | none => m
    | some r =>
      let w := m.window.toNat
      let base := if field w 2 8 = r.oldDict % 256 then r.dict % 256 else if field w 2 8 = r.dict % 256 then r.oldDict % 256
        else field w 2 8
      { m with
        hint := if r.old = field m.hint.toNat 0 9 then (m.hint &&& ~~~0x1FF) ||| BitVec.ofNat 32 r.new else m.hint
        window := if w % 4 = r.oldWin then BitVec.ofNat 16 (w / 1024 * 1024 + base * 4 + r.win) else m.window }

/-- Records of a crew on a counter's wait list go to the deque of the new quay. -/
def relocateDep (rs : List Relocation) (id : Nat) (w : DepWaiter) : DepWaiter :=
  match w with
  | .record q t m => if m.of id then .record (moveQuay rs q) t (relocateRecord rs id m) else w
  | w => w

/-- While a deque has room the oldest overflow records of it come to its top (R331). -/
def State.refillDeque (s : State) (quay : Nat) : Nat → State
  | 0 => s
  | n + 1 =>
    if (s.quayAt quay).deque.length ≥ 1024 then s
    else match s.oldestOverflow quay with
      | none => s
      | some (t, id, m) =>
        let s := s.updCrew id fun c => { c with overflow := dropFirst (fun e => e.1 == t && e.2.1 == quay) c.overflow }
        (s.putQuay quay { s.quayAt quay with deque := m :: (s.quayAt quay).deque }).refillDeque quay n

/-- The records of a crew in the deques of its old quays go to those of the new ones, position for position, at the bottom and
in their order (R342; DEDUCED, log 97). -/
def State.relocateDeques (s : State) (rs : List Relocation) (id : Nat) : State :=
  let own := rs.map fun r => (r, (s.quayAt r.old).deque.filter fun m => m.of id)
  let quays := s.quays.map fun e =>
    let left : Bool := rs.any fun r => r.old == e.1
    let kept := e.2.deque.filter fun m => !m.of id
    (e.1, { e.2 with deque := if left then kept else e.2.deque.map (relocateRecord rs id) })
  let move := fun (e : Nat × Nat × Mooring) =>
    if e.2.2.of id then (e.1, moveQuay rs e.2.1, relocateRecord rs id e.2.2) else e
  let crews := s.crews.map fun c => { c with overflow := c.overflow.map move }
  let s : State := { s with quays := quays, crews := crews }
  let s := own.foldl (fun s p => p.2.foldl (fun s m => s.moor p.1.new false (relocateRecord rs id m)) s) s
  (rs.map Relocation.old ++ rs.map Relocation.new).foldl (fun s q => s.refillDeque q 1024) s

/-- The records of a crew everywhere. -/
def State.relocateRecords (s : State) (rs : List Relocation) (id : Nat) : State :=
  let f := relocateRecord rs id
  let image := fun (i : Image) =>
    if !i.mooring.of id then i
    else match rs.find? fun r => r.old == i.quay with
      | none => { i with mooring := f i.mooring }
      | some r =>
        { i with mooring := f i.mooring, quay := r.new, waitOn := moveWait rs i.waitOn
                 ctx := { i.ctx with loads := i.ctx.loads.map fun l => l.moved rs } }
  let s : State :=
    { s with
      depWait := s.depWait.map fun e => (e.1, relocateDep rs id e.2)
      depOps := s.depOps.map fun o => match o with
        | .bind q n sl k w => .bind q n sl k (relocateDep rs id w)
        | o => o
      futWait := s.futWait.map fun e => (e.1, f e.2)
      futOps := s.futOps.map fun o => match o with
        | .wait q n sl va m => match rs.find? fun r => r.old == q && r.seqs.any fun p => p.1 == n with
          | some r => .wait r.new (r.seq n) sl va (f m)
          | none => .wait q n sl va (f m)
        | .resolve q n sl va v => match rs.find? fun r => r.old == q && r.seqs.any fun p => p.1 == n with
          | some r => .resolve r.new (r.seq n) sl va v
          | none => o
      images := s.images.map image }
  s.relocateDeques rs id

/-- The waiters of the pager follow the crew's commands and contexts. -/
def relocateWaiter (rs : List Relocation) (w : PageWaiter) : PageWaiter :=
  match w with
  | .command q n => match rs.find? fun r => r.old == q && r.seqs.any fun p => p.1 == n with
    | some r => .command r.new (r.seq n)
    | none => w
  | .context q c => match rs.find? fun r => r.old == q && r.ctxs.any fun p => p.1 == c with
    | some r => .context r.new (r.ctx c)
    | none => w
  | w => w

def State.relocatePager (s : State) (rs : List Relocation) : State :=
  let f := fun (p : PageFault) => { p with waiter := relocateWaiter rs p.waiter }
  let g := fun (r : FaultRange) => { r with members := r.members.map f }
  { s with pager := { s.pager with batch := s.pager.batch.map f, closed := s.pager.closed.map g, delivered := s.pager.delivered.map g } }

/-- Global tidemarks and collective slots name the new quays. -/
def State.relocateShared (s : State) (rs : List Relocation) (c : Crew) : State :=
  let slot := fun (x : CollSlot) =>
    if x.crew != some c.id then x
    else
      let x := match rs.find? fun r => r.old == x.quay with
        | some r => { x with quay := r.new }
        | none => x
      match rs.find? fun r => r.old == x.goQuay && r.seqs.any fun p => p.1 == x.seq with
        | some r => { x with goQuay := r.new, seq := r.seq x.seq }
        | none => x
  let pubs := (c.quays.zip c.saved).flatMap fun p => (p.2.tms.toList.filter Tidemark.pub).map fun m => (p.1, m.gidx)
  let gtms := pubs.foldl (fun g p =>
    match rs.find? fun r => r.old == p.1 with
    | some r =>
      let x := sparseGet ({} : GlobalMark) g p.2
      sparsePut g p.2 { x with pubQuay := r.new }
    | none => g) s.gtms
  { s with slots := s.slots.map slot, gtms := gtms }

/-- A command whose page was answered while its crew was saved goes on, or takes PERMISSION. -/
def State.wakeSaved (s : State) (r : Relocation) : State :=
  s.atQuay r.new fun s => r.seqs.foldl (fun s p =>
    match s.cmd? p.2 with
    | none => s
    | some d =>
      if d.phase != .pageWait || s.pagerHolds (.command r.new p.2) then s
      else if d.fcode = 0 then s.requeueCmd p.2
      else s.cmdFault p.2 .permission d.findex) s

/-- What is read again at a restore: the records of bound streams (R262), and the code in target buffers (R190). -/
def State.readAgain (s : State) (q : Nat) (n : Fin 8) : State :=
  let s := s.rebind q n
  let ts := s.refillTargets q ((s.quayAt q).ctx n) ((s.quayAt q).ctx n).regs.targets
  s.updCtxAt q n fun c => { c with regs := { c.regs with targets := ts } }

/-- The chasers of the tidemarks of a quay are the commands that are registered for them, its own and CLGOs of other quays
(R232). -/
def State.recount (s : State) (q : Nat) : State :=
  let n := fun (t : Nat) => (s.quays.flatMap fun e => e.2.dock.filter fun d =>
    (e.1 == q && d.chases.contains t) || d.away == some (q, t)).length
  s.putQuay q { s.quayAt q with tms := Vector.ofFn fun t => { (s.quayAt q).tms.get t with chasers := n t.val } }

/-- The jetty of a quay as it was saved, with its fused contexts by their new numbers (R185). -/
def Jetty.moved (j : Jetty) (rs : List Relocation) (no : Nat) : Jetty :=
  { j with fctx := Vector.ofFn fun i =>
      let n := vget 0 j.fctx i.val
      match rs.find? fun r => r.new == 4 * no + i.val with
      | some r => r.ctx n
      | none => n }

/-- Puts a saved crew's state onto its new shares; its contexts do not run yet. The crew counts as placed from now (DESIGN
CHOICE, log 106). What it has read before is not read older: the L1s are empty, and the L2's copies of peer lines dropped. -/
def State.comeBack (s : State) (c : Crew) (xs : List Share) : State :=
  let rs := xs.zipIdx.map fun p => s.relocation c p.2 p.1
  let c' : Crew :=
    { c with st := .placed, quays := xs.map Share.quay, ctxs := xs.map Share.ctxs, spBases := xs.map Share.base
             window := xs.map Share.win, dictBase := xs.map Share.dict, placedAt := s.refTime, saved := []
             restoring := true }
  let s := c.quays.foldl (fun s q => s.dropStale c q) s
  let s := (rs.zip c.saved).foldl (fun s p =>
    let s := s.unbindUnder p.1.new p.2
    s.putQuay p.1.new (p.1.install rs c p.2 (s.quayAt p.1.new))) s
  let s := rs.foldl (fun s r => (s.recount r.new).atQuay r.new fun s => s.acquire 3) s
  let s := if !c.lr.byJetty then s
    else
      let s := if c.lr.l1fuse then s.dropL1 c'.quays else s
      (rs.zip c.saved).foldl (fun s p =>
        let j := p.1.new / 4
        if p.1.new % 4 ≠ 0 then s
        else
          { s with jetties := sparsePut s.jetties j (p.2.jetty.moved rs j) }) s
  let s := s.updCrew c.id fun k => { c' with overflow := k.overflow }
  let s := ((s.relocateRecords rs c.id).relocatePager rs).relocateShared rs c
  let s := rs.foldl State.wakeSaved s
  let s := rs.foldl (fun s r => r.ctxs.foldl (fun s p => s.readAgain r.new (Fin.ofNat 8 p.2)) s) s
  match c.saveAt with
  | some a => s.pokeRun c.slice (s.saveBase c a) (c'.saveHeader 3)
  | none => s

/-- The contexts of a crew whose state is back run again. -/
def State.runAgain (s : State) (c : Crew) : State := (s.updCrew c.id fun k => { k with restoring := false }).markSave c 0

/-- CREW_RESTORE (R342): a saved crew comes back whole, where a placement of its shape is free and its band allows it; the next
one ends the restore. -/
def execCrewRestore (id : Nat) (s : State) : Out :=
  match s.crew id with
  | none => .next s
  | some c =>
    if c.restoring then .next (s.runAgain c)
    else if c.st != .saved || s.givesWay c.queue then .next s
    else match s.canPlace c.queue c.lr c.index with
      | none => .next s
      | some xs => .next (s.comeBack c xs)

/-! ### Quanta (R322, R337) -/

/-- The crews that a quantum may stop: of other queues of the slice, started 50 µs ago or earlier; the youngest first. -/
def State.candidates (s : State) (slice q : Nat) : List Crew :=
  (sortBy Crew.startedAt (s.crews.filter fun c =>
    c.slice == slice && c.queue != q && c.st == .placed && decide (c.startedAt + 5000 ≤ s.refTime))).reverse

/-- Whether a crew holds on a quay what a record lacks there (R322, R327): its reservation does not fit, and the crew has
contexts, scratchpad, a window and dictionary units there, or banks, berths, projection registers or the jetty in common. -/
def State.lacks (s : State) (l : LaunchRec) (n : Nat) (c : Crew) : Bool :=
  let q := s.quayAt n
  let hs := s.holders n
  c.quays.contains n && q.ready && !q.failed && (s.shareOn l n).isNone
    && (c.lr.banks &&& l.banks != 0 || c.lr.berths &&& l.berths != 0 || c.lr.pj &&& l.pj != 0 || (l.byJetty && c.lr.byJetty)
      || decide (q.freeCtxs.length < l.ctxs) || decide (4 ≤ hs.length)
      || (firstFit 48 l.spUnits (hs.map fun c => (c.baseOn n / 65536, c.spSize / 65536))).isNone
      || (firstFit 256 l.units (hs.map fun c => (c.dictBase.getD (c.pos n) 0, c.dictUnits))).isNone)

/-- The quays on which crew `k` of a record could be placed. -/
def State.wantedQuays (s : State) (slice : Nat) (l : LaunchRec) (k : Nat) : List Nat :=
  if l.det then s.fixedQuays slice l k
  else if l.byJetty then (s.wholeJetties slice).flatMap jettyQuays
  else s.sliceQuays slice

/-- The state without some crews and their reservations. -/
def State.without (s : State) (cs : List Crew) : State :=
  let s := cs.foldl State.release s
  { s with crews := s.crews.filter fun (k : Crew) => !cs.any fun c => c.id == k.id }

/-- Where crew `k` of a record would be placed, on quays that a condition allows. -/
def State.fit (s : State) (slice : Nat) (l : LaunchRec) (k : Nat) (ok : List Nat → Bool) : Option (List Share) :=
  (s.choose slice l k).filter fun xs => ok (xs.map Share.quay)

/-- The crews to stop for crew `k` of a record, youngest start first, until it fits: those that hold what it lacks. -/
def State.victims (s : State) (slice : Nat) (l : LaunchRec) (k : Nat) (ok : List Nat → Bool) : List Crew → List Crew
  | [] => []
  | c :: t =>
    if (s.fit slice l k ok).isSome then []
    else if (s.wantedQuays slice l k).any fun n => s.lacks l n c then c :: (s.without [c]).victims slice l k ok t
    else s.victims slice l k ok t

/-- The crews to stop so that the crews that a queue wants to place fit, one after the other, where crews of other queues keep
them out (R322): none for a crew that the band of its die keeps out (R337). `s0` is the device as it stands. -/
def State.makeRoom (s s0 : State) (slice q : Nat) : List (LaunchRec × Nat) → List Nat
  | [] => []
  | (l, k) :: t =>
    let ok := s0.bandAllows q l
    let others := s.crews.filter fun c => c.slice == slice && c.queue != q && c.holds
    let out := if ((s.without others).fit slice l k ok).isSome then s.victims slice l k ok (s.candidates slice q) else []
    let s := s.without out
    let s := match s.fit slice l k ok with
      | some xs => s.reserve (newCrew s q { key := s.nextShip, lr := l, index := 0 } k xs)
      | none => s
    out.map Crew.id ++ s.makeRoom s0 slice q t

/-- The crews of class 3 of a queue whose die is Red (R337). -/
def State.redCrews (s : State) (q : Nat) : List Nat :=
  ((s.crews.filter fun c => c.queue == q && c.st == .placed && c.lr.energy == 3 && s.bandOf c.quays == 2)).map Crew.id

/-- The queue whose quantum comes next: ascending from the last one, and round. -/
def State.nextTurn (s : State) (slice : Nat) : Option Nat :=
  let l := s.roundOf slice
  let now := (vget {} s.slices slice).turn
  match l.find? fun q => decide (now < 64) && decide (now < q) with
  | some q => some q
  | none => l.head?

/-- QUANTUM_EXPIRY (R322, R337): once its WEIGHT × 50 µs have passed, or it has nothing to run, the next queue's quantum
begins; the crews to stop are asked to. -/
def execQuantumExpiry (slice : Fin 16) (s : State) : Out :=
  let d := vget {} s.slices slice.val
  let past : Bool := decide (64 ≤ d.turn) || !s.queueBusy d.turn || decide (d.quantumStart + 5000 * (s.queueAt d.turn).weight ≤ s.refTime)
  if !past then .next s
  else match s.nextTurn slice.val with
    | none => .next (if d.turn = 64 then s else { s with slices := vput s.slices slice.val { d with turn := 64 } })
    | some q =>
      let now := s.refTime
      let s := { s with slices := vput s.slices slice.val { d with turn := q, quantumStart := now } }
      let stop := s.makeRoom s slice.val q (s.wanting q) ++ s.redCrews q ++ (if d.turn < 64 then s.redCrews d.turn else [])
      .next (stop.foldl State.askStop s)

end Sys2Proof.Machine
end

