-- ==== Sys2Proof/Machine/Deque.lean ====
section
/-! DEFINITION. Records and strands (R331 to R335, R344 to R351): the harbourmaster's commands, dependence counters and
futures, the pickup of mooring records, and what the system context does with strands and commands (R184, R237). -/

namespace Sys2Proof.Machine

open Sys2Proof

/-! ### Dock entry (R344 to R351) -/

/-- The checks of a counter binding (R344). -/
def bindingOk (w : Word) : Except FaultCode Unit :=
  if field w.toNat 13 51 ≠ 0 || (!w.getLsbD 12 && w ≠ 0) then .error .reservedField else .ok ()

/-- The checks of a linear-view offset in an e register, 32-byte aligned (R350, R351). -/
def offsetOk (w : Word) : Except FaultCode Unit :=
  if field w.toNat 22 42 ≠ 0 then .error .reservedField
  else if w.toNat % 32 ≠ 0 then .error .misaligned
  else .ok ()

/-- The alignment of a memory operand. -/
def alignedTo (n : Nat) (w : Word) : Except FaultCode Unit := if w.toNat % n ≠ 0 then .error .misaligned else .ok ()

/-- The dock entry of a harbourmaster command. -/
def harbourEntry (d : DockEntry) (s : State) : Except FaultCode State := do
  match d.op with
  | .spawn _ | .dqpush _ => do alignedTo 64 d.pa; bindingOk d.pb
  | .depset _ => if field d.pa.toNat 12 20 ≠ 0 then throw .reservedField
  | .depdec _ => if field d.pa.toNat 12 52 ≠ 0 then throw .reservedField
  | .futw _ | .futr _ => alignedTo 16 d.pa
  | .launch _ => alignedTo 128 d.pa
  | .pilot _ | .pnext _ => offsetOk d.pa
  | _ => pure ()
  pure s

/-! ### SPAWN and DQPUSH (R345) -/

/-- A mooring record from its 64 bytes (R171). -/
def Mooring.ofNum (n : Nat) : Mooring :=
  { resume := BitVec.ofNat 32 n, window := BitVec.ofNat 16 (field n 32 16), flags := BitVec.ofNat 16 (field n 48 16)
    crew := BitVec.ofNat 32 (field n 64 32), hint := BitVec.ofNat 32 (field n 96 32)
    x := Vector.ofFn fun i => BitVec.ofNat 64 (field n (128 + 64 * i.val) 64) }

def Mooring.aff (m : Mooring) : Nat := m.flags.toNat % 4
def Mooring.fr (m : Mooring) : Bool := m.flags.getLsbD 5
def Mooring.quay (m : Mooring) : Nat := field m.hint.toNat 0 9
def Mooring.imageNo (m : Mooring) : Nat := field m.hint.toNat 12 20

/-- Whether a record sets a reserved bit or AFF = 3 (R86, R171, R172). -/
def Mooring.reserved (m : Mooring) : Bool :=
  field m.flags.toNat 6 10 != 0 || m.aff == 3 || field m.window.toNat 10 6 != 0 || field m.hint.toNat 9 3 != 0
    || (!m.fr && field m.hint.toNat 12 20 != 0)

/-- The checks of a record that SPAWN or DQPUSH pushes, and the crew that it joins (R345). -/
def State.pushCheck (s : State) (d : DockEntry) (spawn : Bool) (m : Mooring) : Except FaultCode Crew :=
  if m.reserved || m.fr then .error .reservedField
  else match s.crew m.crew.toNat with
    | none => .error .permission
    | some c =>
      if d.crew == some c.id then .ok c
      else if spawn && m.aff == 0 && c.st == .placed && c.slice == d.slice then .ok c
      else .error .permission

/-- The record as it is pushed and the deque it goes to. A SPAWN whose hint is no quay of the crew goes to the issuing quay,
which its hint then names (DEDUCED, log 61), or faults with QUAY. -/
def spawnTarget (home : Nat) (c : Crew) (m : Mooring) : Except FaultCode (Nat × Mooring) :=
  if c.quays.contains m.quay then .ok (m.quay, m)
  else if m.aff = 2 then .error .permission
  else .ok (home, { m with hint := BitVec.ofNat 32 home })

/-- SPAWN and DQPUSH start: the record is read and checked, and pushed or bound to its counter. -/
def pushStart (d : DockEntry) (s : State) : State :=
  let spawn : Bool := match d.op with
    | .spawn _ => true
    | _ => false
  match s.readAt (sliceReacher d.slice) false false (d.pa.toNat : Int) 64 64 with
  | .error h => s.stopAt d.seq h noIndex
  | .ok raw =>
    let m := Mooring.ofNum raw
    match s.pushCheck d spawn m with
    | .error f => s.cmdFault d.seq f noIndex
    | .ok c =>
      let target := if spawn then spawnTarget s.here c m else .ok (s.here, m)
      match target with
      | .error f => s.cmdFault d.seq f noIndex
      | .ok (q, m) =>
        let m := { m with strand := c.lateStrand }
        let top : Bool := !spawn && d.fn.testBit 0
        let s := s.addLive c.id 1
        if d.pb.getLsbD 12 then
          let s := s.updCmd d.seq fun d => { d with phase := .running, started := true }
          { s with depOps := s.depOps ++ [.bind s.here d.seq d.slice (field d.pb.toNat 0 12) (.record q top m)] }
        else (s.moor q top m).complete d

/-! ### LAUNCH, PILOT and PNEXT (R349 to R351) -/

/-- LAUNCH (R349): the record enters the window of the crew's queue; a full window makes it wait. -/
def launchStart (d : DockEntry) (s : State) : State :=
  match d.crew.bind s.crew with
  | none => s.cmdFault d.seq .permission noIndex
  | some c =>
    if (s.queueAt c.queue).window.length ≥ 16 then s
    else match s.readAt (sliceReacher d.slice) false false (d.pa.toNat : Int) 128 128 with
      | .error h => s.stopAt d.seq h noIndex
      | .ok raw =>
        let l : LaunchRec := { raw := BitVec.ofNat 1024 raw, addr := d.pa.toNat }
        match s.recordFaultOf c.slice l with
        | some f => s.cmdFault d.seq f noIndex
        | none => (s.enterShip c.queue l noIndex (some ⟨s.here, d.pc, d.owner, d.crew⟩)).complete d

/-- The walk of a tile nest, as a layout's. -/
def nestLayout (ext : List Nat) (rank perm : Nat) : Layout := { rank := rank, perm := perm, ext := ext, scale := 0xFFFF }

/-- The extents, rank and PERM of a tile-nest descriptor, or RESERVED_FIELD (R350). -/
def nestOf (n : Nat) : Except FaultCode Layout :=
  let ext := (List.range 4).map fun k => field n (32 * k) 32
  let rank := field n 128 2 + 1
  let l := nestLayout ext rank (field n 136 8)
  let ps := (List.range rank).map l.at
  let beyond := (List.range 4).filter fun k => decide (k ≥ rank)
  if field n 130 6 ≠ 0 || field n 144 16 ≠ 0 || field n 192 64 ≠ 0 || !(ps.Nodup : Bool) || ps.any (fun k => decide (k ≥ rank))
      || beyond.any (fun k => l.at k != 0 || l.extent k != 0) || (ext.take rank).any (fun e => e == 0) || decide (l.count ≥ 2 ^ 32) then
    .error .reservedField
  else .ok l

/-- The tile nest that a strand has in force. -/
def State.pilotOf (s : State) (d : DockEntry) : Option Pilot :=
  s.pilots.find? fun p => p.slice == d.slice && some p.crew == d.crew && p.strand == d.strand

/-- Replaces the tile nest of a strand. -/
def State.putPilot (s : State) (p : Pilot) : State :=
  { s with pilots := p :: s.pilots.filter fun x => !(x.slice == p.slice && x.crew == p.crew && x.strand == p.strand) }

/-- PILOT (R350). -/
def pilotStart (d : DockEntry) (s : State) : State :=
  match s.readAt d.reacher true false (field d.pa.toNat 0 22 : Nat) 32 32 with
  | .error h => s.stopAt d.seq h noIndex
  | .ok n => match nestOf n with
    | .error f => s.cmdFault d.seq f noIndex
    | .ok l =>
      let all := match d.crew.bind s.crew with
        | some c => c.lateStrand
        | none => 1
      let S := if field n 160 32 = 0 then all else field n 160 32
      let i := d.strand
      let lo := if i < S then i * l.count / S else 0
      let hi := if i < S then (i + 1) * l.count / S else 0
      (s.putPilot
        { slice := d.slice, crew := d.crew.getD 0, strand := i, ext := l.ext, rank := l.rank, perm := l.perm, next := lo
          last := hi }).complete d

/-- The tile word of a nest at its position; zero when the slice is exhausted (R351). -/
def tileWord (p : Option Pilot) : List Byte :=
  match p with
  | none => List.replicate 32 0
  | some p =>
    if p.next ≥ p.last then List.replicate 32 0
    else
      let c := (nestLayout p.ext p.rank p.perm).coords p.next
      (List.range 4).flatMap (fun k => leBytes 4 (if k < p.rank then c.getD k 0 else 0)) ++ leBytes 4 p.next
        ++ leBytes 4 (p.last - p.next - 1) ++ leBytes 1 1 ++ leBytes 7 0

/-- PNEXT (R351): the tile word is written and the position advances. -/
def pnextStart (d : DockEntry) (s : State) : State :=
  let p := s.pilotOf d
  match s.writeAt d.reacher true false (field d.pa.toNat 0 22 : Nat) 32 (tileWord p) with
  | .error h => s.stopAt d.seq h noIndex
  | .ok s =>
    let s := match p with
      | some p => if p.next < p.last then s.putPilot { p with next := p.next + 1 } else s
      | none => s
    s.complete d

/-- A harbourmaster command starts. -/
def harbourStart (d : DockEntry) (s : State) : State :=
  let run := s.updCmd d.seq fun d => { d with phase := .running, started := true }
  match d.op with
  | .spawn _ | .dqpush _ => pushStart d s
  | .depset _ =>
    { run with depOps := s.depOps ++ [.set s.here d.seq d.slice (field d.pa.toNat 0 12) (BitVec.ofNat 32 (field d.pa.toNat 32 32))] }
  | .depdec _ => { run with depOps := s.depOps ++ [.dec s.here d.seq d.slice (field d.pa.toNat 0 12)] }
  | .futw _ => run
  | .futr _ =>
    let mine := s.futOps.any fun o => match o with
      | .resolve q n _ _ _ => q == s.here && n == d.seq
      | _ => false
    if mine then run else { run with futOps := s.futOps ++ [.resolve s.here d.seq d.slice d.pa.toNat d.pb] }
  | .launch _ => launchStart d s
  | .pilot _ => pilotStart d s
  | .pnext _ => pnextStart d s
  | _ => s

/-! ### Dependence counters (R334) -/

/-- A waiter of a counter is ready: its record is pushed, its shipment marked. -/
def State.depReady (s : State) (w : DepWaiter) : State :=
  match w with
  | .record q top m => s.moor q top m
  | .shipment q key => s.updShip q key fun x => { x with ready := true }

/-- A counter takes a value; at zero every waiter becomes ready. -/
def State.setCounter (s : State) (key : Nat) (v : BitVec 32) : State :=
  let s := { s with counters := sparseSet 0 s.counters key v }
  if v ≠ 0 then s
  else
    let now := s.depWait.filter fun w => w.1 == key
    now.foldl (fun s w => s.depReady w.2) { s with depWait := s.depWait.filter fun w => w.1 != key }

/-- The command of an operation completes. -/
def State.completeAt (s : State) (quay seq : Nat) : State :=
  s.atQuay quay fun s => match s.cmd? seq with
    | some d => s.complete d
    | none => s

/-- DEP_COUNTER_APPLY (R334, R346): the k-th operation on its way is applied at its counter's home, and its command
completes. -/
def execDepCounterApply (k : Nat) (s : State) : Out :=
  match s.depOps[k]? with
  | none => .next s
  | some o =>
    let s := { s with depOps := listErase s.depOps k }
    match o with
    | .set q n slice ctr v => .next ((s.setCounter (ctrKey slice ctr) v).completeAt q n)
    | .dec q n slice ctr =>
      let v : BitVec 32 := sparseGet 0 s.counters (ctrKey slice ctr)
      if v = 0 then .next (s.atQuay q fun s => s.cmdFault n .depUnderflow noIndex)
      else .next ((s.setCounter (ctrKey slice ctr) (v - 1)).completeAt q n)
    | .bind q n slice ctr w =>
      let s := if (sparseGet 0 s.counters (ctrKey slice ctr) : BitVec 32) = 0 then s.depReady w
        else { s with depWait := s.depWait ++ [(ctrKey slice ctr, w)] }
      .next (s.completeAt q n)

/-! ### Futures (R335, R347, R348) -/

/-- The locations of a future, readable and writable. -/
def State.futureLocs (s : State) (slice va : Nat) : Reach (List Loc) :=
  match s.reach (sliceReacher slice) false false (va : Int) 16 16 false with
  | .error h => .error h
  | .ok _ => s.reach (sliceReacher slice) false false (va : Int) 16 16 true

/-- The key of a future among the waiting records: its physical address. -/
def State.futureKey (s : State) (ls : List Loc) : Nat := s.normPhys ((ls.headD (.phys 0)).num)

/-- A record that has its future's value in x5. -/
def Mooring.given (m : Mooring) (v : Word) : Mooring := { m with x := m.x.set 5 v }

/-- Writes a future as its home does; the reserved bits of word 0 keep what they hold (DESIGN CHOICE, log 98). It invalidates no
L1 line: R31 names the stores of M slots alone. -/
def State.putFuture (s : State) (ls : List Loc) (waiters : Nat) (done : Bool) (old : Nat) (v : Word) : State :=
  let w0 := waiters % 2 ^ 32 * 2 ^ 32 + field old 1 31 * 2 + done.toNat
  let bs := leBytes 8 w0 ++ leBytes 8 v.toNat
  s.pokeLocs ls bs

/-- Whether the command of a future operation is under way. -/
def State.futRunning (s : State) (quay seq : Nat) : Bool :=
  (s.quayAt quay).dock.any fun d => d.seq == seq && d.phase == .running

/-- FUTURE_OP_APPLY (R335, R347, R348): the k-th FUTW or FUTR acts on its future in one indivisible step. -/
def execFutureOpApply (k : Nat) (s : State) : Out :=
  match s.futOps[k]? with
  | none => .next s
  | some o =>
    let (q, n, slice, va) := match o with
      | .wait q n slice va _ => (q, n, slice, va)
      | .resolve q n slice va _ => (q, n, slice, va)
    if !s.futRunning q n then .next s
    else match s.futureLocs slice va with
      | .error h => .next (s.atQuay q fun s => s.stopAt n h noIndex)
      | .ok ls =>
        let s := { s with futOps := listErase s.futOps k }
        let f := ofLeBytes (ls.map s.readLoc)
        let done := f.testBit 0
        let value := BitVec.ofNat 64 (field f 64 64)
        match o with
        | .wait _ _ _ _ m =>
          if done then .next ((s.moor q false (m.given value)).completeAt q n)
          else
            let s := s.putFuture ls (Nat.min (field f 32 32 + 1) (2 ^ 32 - 1)) false f value
            .next ({ s with futWait := s.futWait ++ [(s.futureKey ls, m)] }.completeAt q n)
        | .resolve _ _ _ _ v =>
          if done then .next (s.completeAt q n)
          else
            let key := s.futureKey ls
            let now := s.futWait.filter fun w => w.1 == key
            let s := ({ s with futWait := s.futWait.filter fun w => w.1 != key }).putFuture ls 0 true f v
            .next ((now.foldl (fun s w => s.moor w.2.quay false (w.2.given v)) s).completeAt q n)

/-! ### Pickup (R173, R174, R332, R333) -/

/-- Whether a quay may pick up a record of a crew placed on it (R173); in deterministic mode QUAY holds for every record. -/
def Mooring.allows (m : Mooring) (c : Crew) (quay : Nat) : Bool :=
  c.quays.contains quay && match (if c.lr.det then 2 else m.aff) with
    | 0 | 3 => true
    | 1 => m.quay / 4 == quay / 4
    | _ => m.quay == quay

/-- The context of the acting quay that could take a record, with its crew. -/
def State.taker (s : State) (m : Mooring) (thief : Bool) : Option (Crew × Fin 8) :=
  match s.crew m.crew.toNat with
  | none => none
  | some c =>
    if c.st != .placed || !m.allows c s.here || (thief && c.lr.det) then none
    else (s.dormantOf s.here c.id).map fun n => (c, n)

/-- How far one number stands from another. -/
def apart (a b : Nat) : Nat := (a - b) + (b - a)

/-- The other quays whose deques a quay searches, in order (R332). -/
def otherDeques (q : Nat) : List Nat :=
  let j := q / 4
  let own := [4 * j + (q + 1) % 4, 4 * j + (q + 2) % 4, 4 * j + (q + 3) % 4]
  let basin := (List.range 160).map fun i => 160 * (q / 160) + i
  own ++ sortBy (fun n => apart (n / 4) j) (basin.filter fun n => n / 4 != j)

/-- The record that the acting quay takes: its deque's quay, its place there, the record, crew and context. -/
def State.nextPickup (s : State) : Option (Nat × Nat × Mooring × Crew × Fin 8) :=
  let scan := fun (q : Nat) (thief : Bool) (l : List (Mooring × Nat)) =>
    l.findSome? fun p => (s.taker p.1 thief).map fun t => (q, p.2, p.1, t.1, t.2)
  match scan s.here false s.quay.deque.zipIdx.reverse with
  | some r => some r
  | none => (otherDeques s.here).findSome? fun q => scan q true (s.quayAt q).deque.zipIdx

/-- A resume (R173): the strand goes on with the same number, or a new one starts. -/
def State.resumeRecord (s : State) (c : Crew) (n : Fin 8) (m : Mooring) : State :=
  let sel := BitVec.ofNat 2 m.window.toNat
  let q := s.here
  let born := if m.born = 0 then s.bornNow m.strand else m.born
  let off : Bool := winBase (s.quayAt q).dictwin sel.toNat != field m.window.toNat 2 8
  let s := s.startStrand q n c m.strand born m.resume sel m.x 0
  s.updCtxAt q n fun x => { x with dictMismatch := off, lastAff := if m.born = 0 then 0 else m.aff }

/-- RECORD_PICKUP (R332): the acting quay takes the first record that qualifies. One with a reserved bit, AFF = 3 or no
image is not resumed: the system context is told (R172); the record's address is a free value (log 20). -/
def execRecordPickup (s : State) : Out :=
  match s.nextPickup with
  | none => .next s
  | some (q, k, m, c, n) =>
    let s := s.unmoor q k
    let image := s.images.find? fun i => i.no == m.imageNo && i.moored
    if m.reserved || (m.fr && (image.isNone || decide (s.imageCount ≤ m.imageNo))) then
      let (v, s) := s.draw
      .next (s.report .reservedField s.here n.val (some c.id) (Config.freeWord v))
    else if m.fr then match image with
      | some i => .next ((s.restoreImage s.here n c m i).rebind s.here n)
      | none => .next s
    else .next (s.resumeRecord c n m)

/-! ### The system context (R184, R237, R243) -/

/-- SYSTEM_END_STRAND (R184): a FAULTED strand ends, and its context is DORMANT. -/
def execSystemEndStrand (ctx : Fin 8) (s : State) : Out :=
  if (s.quay.ctx ctx).st != .faulted then .next s
  else
    let s := match (s.quay.ctx ctx).crew with
      | some id => s.subLive id
      | none => s
    .next (s.asCtx ctx fun s =>
      let s := s.untag.orphanFaults.quitLockstep.dropRejoin
      (s.updCtx fun c => { c with queue := [], realigns := [], loads := c.loads.filter OLoad.lands, regs := { c.regs with tags := 0 } }).endLeg .dormant)

/-- SYSTEM_RESUME_STRAND (R184): a FAULTED context is READY again and runs from its mark. -/
def execSystemResumeStrand (ctx : Fin 8) (s : State) : Out :=
  if (s.quay.ctx ctx).st != .faulted then .next s
  else .next (s.updCtxAt s.here ctx fun c => { c with st := .ready, pc := c.mark, wdCount := 0 })

/-- SYSTEM_RESUME_COMMAND (R237): a halted command waits for a unit again and goes on. -/
def execSystemResumeCommand (seq : Nat) (s : State) : Out :=
  match s.cmd? seq with
  | some d => if d.phase == .halted then .next (s.requeueCmd seq) else .next s
  | none => .next s

/-! ### Issue -/

def execSpawn (o : EOp) (s : State) : Out := issueE (.spawn o) o s
def execDepset (o : EOp) (s : State) : Out := issueE (.depset o) o s
def execDepdec (o : EOp) (s : State) : Out := issueE (.depdec o) o s
def execFutr (o : EOp) (s : State) : Out := issueE (.futr o) o s
def execLaunch (o : EOp) (s : State) : Out := issueE (.launch o) o s
def execPilot (o : EOp) (s : State) : Out := issueE (.pilot o) o s
def execPnext (o : EOp) (s : State) : Out := issueE (.pnext o) o s
def execDqpush (o : EOp) (s : State) : Out := issueE (.dqpush o) o s

/-- The strand of a FUTW suspends as its bundle retires: its record is on its way to the future (R347). -/
def State.futwSuspend (s : State) (seq aff : Nat) : State :=
  let m := s.suspRecord aff
  let (slice, va) := match s.cmd? seq with
    | some d => (d.slice, d.pa.toNat)
    | none => (s.ctx.slice, 0)
  let home := s.here
  let s := (s.updCtx fun c => { c with futw := none }).freeCtx
  { s with futOps := s.futOps ++ [.wait home seq slice va m] }

/-- FUTW (R347): the command is issued, and the strand suspends once every slot of the bundle has retired. -/
def execFutw (o : EOp) (s : State) : Out :=
  match s.ctx.futw with
  | some (seq, aff) => if s.ctx.recordBusy then stall (.futw o) s else .next (s.futwSuspend seq aff)
  | none =>
    if !s.ctx.guardHolds .e o.g then .next s
    else if s.ctx.streamsBusy then stall (.futw o) s
    else
      let n := s.quay.nextSeq
      match issueE (.futw o) o s with
      | .next s => match s.cmd? n with
        | some _ =>
          .next (s.updCtx fun c => { c with futw := some (n, o.func.toNat % 4) }.requeue (.futw o) lastPos)
        | none => .next s
      | r => r

end Sys2Proof.Machine
end

