-- ==== Sys2Proof/Machine/Pager.lean ====
section
/-! DEFINITION. The pager (R176 to R178, R432): batches of translation faults, merged ranges, the fault log in host memory,
and the answers of system software. -/

namespace Sys2Proof.Machine

open Sys2Proof

/-! ### Batches (R176) -/

/-- The order of faults in a batch: by slice, then by page. -/
def PageFault.key (f : PageFault) : Nat := f.slice * 2 ^ 48 + f.page % 2 ^ 48

/-- Whether a fault's page is one of a range's or the next, in one slice and one GiB. -/
def FaultRange.takes (r : FaultRange) (f : PageFault) : Bool :=
  f.slice == r.slice && decide (f.page ≤ r.page + r.pages) && f.page / 2 ^ 14 == r.page / 2 ^ 14

/-- What a waiter counts in WAITERS: a strand, or a command of one (R177, R237). -/
def PageWaiter.strand : PageWaiter → Nat
  | .context _ _ | .command _ _ => 1
  | _ => 0

/-- A range of one fault. -/
def FaultRange.one (f : PageFault) (time : Nat) : FaultRange :=
  { ticket := 0, slice := f.slice, page := f.page, pages := 1, waiters := f.waiter.strand, access := f.access, faults := 1
    time := time, members := [f] }

/-- A range with another fault. -/
def FaultRange.add (r : FaultRange) (f : PageFault) : FaultRange :=
  { r with
    pages := Nat.max r.pages (f.page + 1 - r.page), waiters := r.waiters + f.waiter.strand, access := r.access ||| f.access
    faults := r.faults + 1, members := r.members ++ [f] }

/-- Merges sorted faults into ranges: every run of equal or adjacent pages of one slice and one GiB. -/
def mergeFaults (time : Nat) : List PageFault → List FaultRange → List FaultRange
  | [], acc => acc.reverse
  | f :: t, [] => mergeFaults time t [.one f time]
  | f :: t, r :: acc => if r.takes f then mergeFaults time t (r.add f :: acc) else mergeFaults time t (.one f time :: r :: acc)

/-- Gives ranges their tickets, in order. -/
def ticketed (n : Nat) : List FaultRange → List FaultRange
  | [] => []
  | r :: t => { r with ticket := n } :: ticketed (n + 1) t

/-- Whether a tidemark is held in HALT by the page wait of a command whose page lies in a range: the command's own
tidemark, or a follower of it. -/
def State.heldBy (s : State) (r : FaultRange) (quay tm : Nat) : Bool :=
  let me := vget {} (s.quayAt quay).tms tm
  s.quays.any fun e => e.2.dock.any fun d =>
    State.holds { s with here := e.1 } d && d.phase == .pageWait && (match d.page with
      | some p => r.slice == d.slice && decide (r.page ≤ p) && decide (p < r.page + r.pages)
      | none => false)
    && ((e.1 == quay && d.o.tm.val == tm)
      || (me.fol && me.fdev == s.devId && (e.2.tms.get d.o.tm).pub && (e.2.tms.get d.o.tm).gidx == me.gidx))

/-- Whether a wait is for a tidemark that a page wait of a range holds in HALT (R168). -/
def State.behind (s : State) (r : FaultRange) (w : WaitOn) : Bool :=
  match w with
  | .tidemark q t => s.heldBy r q t
  | _ => false

/-- The strands that wait behind a range through a tidemark in HALT count in WAITERS too (R168, R264). -/
def State.strandsBehind (s : State) (r : FaultRange) : Nat :=
  (s.images.filter fun i => s.behind r i.waitOn).length
    + (s.quays.map fun e => (e.2.ctxs.toList.filter fun c => c.st == .parked && s.behind r c.waitOn).length).sum

/-! ### The fault log (R177, R432) -/

/-- The 32 bytes of a log entry. -/
def FaultRange.entry (r : FaultRange) : List Byte :=
  leBytes 8 (r.page * 2 ^ 16) ++ leBytes 4 r.pages ++ leBytes 2 (Nat.min r.waiters 65535) ++ leBytes 1 r.access.toNat
    ++ leBytes 1 r.slice ++ leBytes 4 r.ticket ++ leBytes 4 r.faults ++ leBytes 8 r.time

/-- Delivers the first closed range when the log has room: its entry, PIDX, MSI-X vector 0. -/
def State.deliverOne (s : State) : State :=
  let p := s.pager
  match p.closed with
  | [] => s
  | r :: rest =>
    if (p.pidx - p.cidx).toNat ≥ p.logSize.toNat then s
    else
      let s := s.writeBytes (hostPhys (p.logBase.toNat + 32 * (p.pidx.toNat % p.logSize.toNat))) r.entry
      let s := { s with pager := { p with closed := rest, delivered := p.delivered ++ [r], pidx := p.pidx + 1 } }
      s.emit (.msix 0)

/-- Delivers up to `n` closed ranges. -/
def State.deliverRanges (s : State) : Nat → State
  | 0 => s
  | n + 1 => s.deliverOne.deliverRanges n

/-- PAGER_BATCH_CLOSE (R176): a batch that holds 256 faults, or that opened 20 µs ago, closes; its ranges go to the log as
far as it has room. Faults beyond the 256th open the next batch. -/
def execPagerBatchClose (s : State) : Out :=
  let p := s.pager
  if p.batch.isEmpty || (p.batch.length < 256 && decide (s.refTime < p.batchTime + 2000)) then .next s
  else
    let rs := ticketed p.nextTicket (mergeFaults p.batchTime (sortBy PageFault.key (p.batch.take 256)) [])
    let rs := rs.map fun r => { r with waiters := r.waiters + s.strandsBehind r }
    let now := s.refTime
    let s := { s with pager :=
      { p with batch := p.batch.drop 256, batchTime := now, closed := p.closed ++ rs, nextTicket := p.nextTicket + rs.length } }
    .next (s.deliverRanges rs.length)

/-- PAGER_LOG_DELIVER (R432): closed ranges that waited for log room are delivered. -/
def execPagerLogDeliver (s : State) : Out := .next (s.deliverRanges s.pager.closed.length)

/-! ### Answers (R178, R432) -/

/-- Whether a wait is for a fault of a range: one that opened it or joined it, not another fault on its pages (R176, R178). -/
def FaultRange.answers (r : FaultRange) (w : WaitOn) : Bool :=
  match w with
  | .page _ _ id => r.members.any fun f => f.id == id
  | _ => false

/-- The tickets of the pending handles that a range's faults came through. -/
def FaultRange.tickets (r : FaultRange) : List Nat := r.members.filterMap PageFault.ticket

/-- What an answer tells a waiting context: with Mapped its handles of the future become valid at its restore (R174). -/
def Context.answeredBy (c : Context) (r : FaultRange) (denied : Bool) : Context :=
  { c with waitOn := .nothing, answered := !denied, served := if denied then [] else r.tickets }

/-- Images whose fault a range answers are free to be picked up, denied or not. -/
def State.answerImages (s : State) (r : FaultRange) (denied : Bool) : State :=
  { s with images := s.images.map fun i =>
      if r.answers i.waitOn && !i.resolved then
        { i with resolved := true, denied := denied, ctx := i.ctx.answeredBy r denied } else i }

/-- A context that is still PARKED: its wait is over, or it becomes FAULTED with PERMISSION. -/
def State.answerParked (s : State) (r : FaultRange) (denied : Bool) (q c : Nat) : State :=
  let n := Fin.ofNat 8 c
  let x := (s.quayAt q).ctx n
  if x.st != .parked || !r.answers x.waitOn then s
  else if denied then
    let s := s.updCtxAt q n fun x =>
      { x.answeredBy r true with
        st := .faulted, fault := (x.fault &&& 0xFFFFFF00) ||| BitVec.ofNat 32 FaultCode.permission.code }
    s.report .permission q c x.crew x.faultVa
  else s.updCtxAt q n fun x => x.answeredBy r false

/-- A context or a command of a saved crew takes the answer to its fault with it: it waits no longer, or PERMISSION. -/
def SavedQuay.answeredBy (k : SavedQuay) (quay : Nat) (r : FaultRange) (denied : Bool) : SavedQuay :=
  let ctx := fun (c : Context) =>
    if c.st != .parked || !r.answers c.waitOn then c
    else if denied then
      { c.answeredBy r true with
        st := .faulted, fault := (c.fault &&& 0xFFFFFF00) ||| BitVec.ofNat 32 FaultCode.permission.code }
    else c.answeredBy r false
  let cmd := fun (d : DockEntry) =>
    if d.phase == .pageWait && denied && r.members.any fun f => f.waiter == .command quay d.seq then
      { d with fcode := FaultCode.permission.code } else d
  { k with ctxs := k.ctxs.map fun p => (p.1, ctx p.2), dock := k.dock.map cmd }

/-- The answer to the faults of saved crews; the system context hears of contexts that are denied. -/
def State.answerSaved (s : State) (r : FaultRange) (denied : Bool) : State :=
  let hit := s.crews.flatMap fun c => (c.saved.zip c.quays).flatMap fun k =>
    (k.1.ctxs.filter fun p => denied && p.2.st == .parked && r.answers p.2.waitOn).map fun p => (k.2, p.1, c.id, p.2.faultVa)
  let s := { s with crews := s.crews.map fun c =>
    { c with saved := (c.saved.zip c.quays).map fun k => k.1.answeredBy k.2 r denied } }
  hit.foldl (fun s h => s.report .permission h.1 h.2.1 (some h.2.2.1) h.2.2.2) s

/-- A command that waits for a page goes on, or takes PERMISSION. -/
def State.answerCommand (s : State) (denied : Bool) (q n : Nat) : State :=
  s.atQuay q fun s => match s.cmd? n with
    | none => s
    | some d =>
      if d.phase != .pageWait then s
      else if denied then s.cmdFault n .permission d.findex
      else s.requeueCmd n

/-- One member of an answered range. -/
def State.answerMember (s : State) (r : FaultRange) (denied : Bool) (f : PageFault) : State :=
  match f.waiter with
  | .context q c => s.answerParked r denied q c
  | .command q n => s.answerCommand denied q n
  | .ring q => if denied then s.stopQueue q .permission else s
  | .placement q key _ => match denied, s.ship? q key with
    | true, some x => if x.failed then s else s.failRecord q x
    | _, _ => s
  | .retirement id => match denied, s.crew id with
    | true, some c => s.bitLost c
    | _, _ => s

/-- The answer to a ticket (R178): one that is not outstanding changes nothing. -/
def State.answer (s : State) (ticket : Nat) (denied : Bool) : State :=
  match s.pager.delivered.find? fun r => r.ticket == ticket with
  | none => s
  | some r =>
    let l := s.pager.delivered.filter fun x => x.ticket != ticket
    let s := { s with pager := { s.pager with delivered := l } }
    let s := (s.answerImages r denied).answerSaved r denied
    (r.members.foldl (fun s f => s.answerMember r denied f) s).moorImages

end Sys2Proof.Machine
end

