-- ==== Sys2Proof/Machine/Engines.lean ====
section
/-! DEFINITION. The life of a command in the dock (R227, R235 to R243): dock entry, start, progress and completion for every
engine; waits on coverage; the commands that perform at their issue; and acknowledgements. -/

namespace Sys2Proof.Machine

open Sys2Proof

/-! ### Dock entry (R227, R238, R274) -/

/-- The dock-entry checks of a command, and what it keeps from its records. -/
def dockChecks (d : DockEntry) (s : State) : Except FaultCode State :=
  match d.op with
  | .cp _ | .cpmm _ | .cpg _ | .cps _ | .cpf _ | .cph _ | .cpr _ | .cpt _ => craneEntry d s
  | .tmsetAdv _ => tmsetEntry d s
  | .tmsetAbandon _ => .error .permission
  | .tmq _ | .tmqGlb _ => tmqEntry d s
  | .sbind _ => sbindEntry d s
  | .sidx _ => sidxEntry d s
  | .mma _ | .mmas _ => mmaEntry d s
  | .epi _ => epiEntry d s
  | .pjld _ => pjldEntry d s
  | .tbld _ => tbldEntry d s
  | .tlk _ => tlkEntry d s
  | .tspl _ | .tfil _ => tsplEntry d s
  | .tinv _ => tinvEntry d s
  | .pfxh _ => pfxhEntry d s
  | .pfxm _ | .pfxi _ | .pgpin _ | .pgunp _ | .pgfork _ | .pgmaskClr _ | .pgmaskSet _ | .pgmaskExport _ | .pgcmp _
  | .pgalloc _ | .pgfree _ | .pgfreeReclaim _ => kvEntry d s
  | .cldef _ => cldefEntry d s
  | .clgo _ => clgoEntry d s
  | .mfpub _ => mfpubEntry d s
  | .clstat _ | .clstatLink _ => clstatEntry d s
  | .clcan _ => (s.ownSlot d).map fun _ => s
  | .spawn _ | .depset _ | .depdec _ | .futw _ | .futr _ | .launch _ | .pilot _ | .pnext _ | .dqpush _ => harbourEntry d s
  | _ => .ok s

/-- COMMAND_DOCK_ENTRY: the oldest issued command that has not entered reads its records, passes its checks and waits, or
halts with no index (R227). -/
def execCommandDockEntry (seq : Nat) (s : State) : Out :=
  match s.cmd? seq with
  | none => .next s
  | some d =>
    let first : Bool := s.quay.dock.all fun e => !(e.phase == .issued && decide (e.seq < seq))
    if d.phase != .issued || !first then .next s
    else match dockChecks d s with
      | .error f => .next ((s.rankCmd seq).cmdFault seq f noIndex)
      | .ok t => match (if d.isKv then kvTable d t else .ok ()) with
        | .error (.wait, _) => .next s
        | .error (h, i) => .next ((s.rankCmd seq).stopAt seq h i)
        | .ok _ => .next (((t.updCmd seq fun e => { e with entered := true, phase := .waiting }).rankCmd seq).progress seq)

/-! ### Start (R239) -/

/-- Whether a command is a writer that takes its tidemark as it starts (R232). -/
def DockEntry.writes (d : DockEntry) : Bool :=
  match d.op with
  | .cp _ | .cpmm _ | .cpg _ | .cps _ | .cpf _ | .cph _ | .cpr _ | .cpt _ | .epi _ | .pfxh _ => true
  | .sbind _ => d.fn.testBit 3
  | _ => false

/-- Whether a command has no elements: it performs in one step and completes (R240). -/
def DockEntry.acts (d : DockEntry) : Bool :=
  match d.op with
  | .tmsetAdv _ | .tmrst _ | .tmglbPub _ | .tmglbFol _ | .tmglbUnb _ | .tmq _ | .tmqGlb _ | .sunb _ | .sidx _ | .acz _
  | .rteset _ | .rtesetClr _ | .bthset _ | .bthsetRel _ | .bthpop _ | .tspl _ | .tfil _ | .tinv _ | .tstat _ | .cldef _
  | .clstat _ | .clstatLink _ | .clarm _ | .cldis _ => true
  | _ => false

/-- What the first element of a command's walk needs covered. -/
def State.startNeed (s : State) (d : DockEntry) : List (Layout × Nat × List Nat) :=
  match d.op with
  | .cp _ | .cpmm _ | .cpg _ | .cps _ | .cpf _ | .cph _ | .cpr _ | .cpt _ => craneNeed d d.count
  | .mma _ | .mmas _ => s.mmaFirst d
  | .epi _ => epiNeed d d.count
  | .pjld _ => regionNeed (d.recA.getD {}) 0
  | .tbld _ => tbldFirst d
  | .tlk _ => (tlkNeed d (d.count % d.tlkOutputs)).take 1
  | .pfxh _ => pfxhNeed d d.count
  | .pfxm _ | .pfxi _ => (kvNeed d).take 1
  | .clgo _ => s.clgoFirst d
  | _ => []

/-- Whether the first element of a command's walk is covered; a CLGO's by a tidemark of its slot's quay. -/
def State.startCovered (s : State) (d : DockEntry) : Except FaultCode Bool :=
  let s' : State := { s with here := if d.opc = 0x51 then (s.slot (d.fn % 64)).quay else s.here }
  s'.allCovered (s.startNeed d)

/-- What a running command needs covered to go on. -/
def State.runNeed (s : State) (d : DockEntry) : List (Layout × Nat × List Nat) :=
  match d.op with
  | .mma _ | .mmas _ => if d.ktile < d.nk && d.group < 4 then s.groupNeed d d.ktile d.group else []
  | .pjld _ => let a := d.recA.getD {}; (List.range a.count).flatMap (regionNeed a)
  | .tbld _ =>
    let r := d.recA.getD {}
    let kb := field d.pa.toNat 0 32
    if r.tm = 0xFF then [] else (List.range (buildEnd r kb - kb)).map fun i => (r, 0, [kb + i])
  | .tlk _ => match d.words with
    | n :: _ =>
      let t := s.tab n
      let r := Layout.ofBits t.raw
      if r.tm = 0xFF || d.group = 0 then [] else (List.range (buildEnd r t.kb - t.kb)).map fun i => (r, 0, [t.kb + i])
    | [] => tlkNeed d (d.count % d.tlkOutputs)
  | .pfxm _ | .pfxi _ => kvNeed d
  | _ => s.startNeed d

/-- The element at which a command stands. -/
def DockEntry.index (d : DockEntry) : Nat :=
  match d.op with
  | .mma _ | .mmas _ => d.ktile
  | _ => d.count

/-- Whether an SBIND, SUNB or SIDX is the next of its strand's stream: those acts are made in the order of issue, and wait
while their strand is in an image. -/
def State.streamTurn (s : State) (d : DockEntry) : Bool :=
  let strm := fun (e : DockEntry) => e.opc == 0x18 || e.opc == 0x19 || e.opc == 0x1A
  !strm d || d.performed || (s.streamFree d
    && s.quay.dock.all fun e => !(strm e && decide (e.seq < d.seq) && e.owner == d.owner && e.fn % 8 == d.fn % 8
        && !e.performed && e.phase != .halted))

/-- The conditions of a start but those on coverage and on the tidemark. -/
def State.mayStart (s : State) (d : DockEntry) : Bool :=
  d.phase == .waiting && d.entered && decide (d.readyAt ≤ s.quay.cycle.toNat) && s.unitFree d.engine && s.atHead d
    && s.slotFree d && s.streamTurn d

/-- A command runs. -/
def State.running (s : State) (seq : Nat) : State :=
  (s.updCmd seq fun e => { e with phase := .running, started := true }).progress seq

/-- A writer takes its tidemark unless it writes a berth or holds it. -/
def State.takeOwn (s : State) (d : DockEntry) : State :=
  if d.taken || d.berth.isSome then s else s.takeTm d (d.recA.getD {}) (d.recA.getD {}).count

/-- The start of a command whose conditions hold. -/
def startCmd (d : DockEntry) (s : State) : State :=
  match d.op with
  | .mma _ | .mmas _ => match mmaStart d s with
    | .ok s => s.progress d.seq
    | .error f => s.cmdFault d.seq f d.ktile
  | .epi _ => (epiStart d (s.takeOwn d)).running d.seq
  | .pjld _ => (pjldStart d s).running d.seq
  | .tbld _ => match tbldStart d s with
    | .ok s => s.running d.seq
    | .error h => s.stopAt d.seq h (field d.pa.toNat 0 32)
  | .tlk _ => (tlkStart d s).progress d.seq
  | .sbind _ => match sbindStart d s with
    | .ok s => s.running d.seq
    | .error f => s.cmdFault d.seq f noIndex
  | .pfxm _ | .pfxi _ | .pgpin _ | .pgunp _ | .pgfork _ | .pgmaskClr _ | .pgmaskSet _ | .pgmaskExport _ | .pgcmp _
  | .pgalloc _ | .pgfree _ | .pgfreeReclaim _ => (kvStart d s).progress d.seq
  | .clgo _ => clgoStart d s
  | .mfpub _ => mfpubStart d s
  | .clcan _ => clcanStart d s
  | .spawn _ | .depset _ | .depdec _ | .futw _ | .futr _ | .launch _ | .pilot _ | .pnext _ | .dqpush _ => harbourStart d s
  | .pfxh _ => ((s.updCmd d.seq fun e => { e with arrive := s.arriveAt d }).takeOwn d).running d.seq
  | _ => (s.takeOwn d).running d.seq

/-- BTHSET acts once its tidemark can be taken. -/
def bthsetNow (d : DockEntry) (s : State) : Except FaultCode State := do
  let s ← if d.recA.isSome then pure s else bthsetEntry d s
  let d := (s.cmd? d.seq).getD d
  match ← bthsetAct d s with
  | some s => pure s
  | none => pure s

/-- BTHPOP claims its tiles once, and pops what it can. -/
def bthpopNow (d : DockEntry) (s : State) : Except FaultCode State := do
  let s ← if d.started then pure s else bthpopEntry d s
  let s := s.updCmd d.seq fun e => { e with started := true }
  bthpopAct ((s.cmd? d.seq).getD d) s

/-- The effect of a command without elements. -/
def actCmd (d : DockEntry) (s : State) : Except FaultCode State :=
  match d.op with
  | .tmsetAdv _ => tmsetAct d s
  | .tmrst _ => tmrstAct d s
  | .tmglbPub _ => tmglbPubAct d s
  | .tmglbFol _ => tmglbFolAct d s
  | .tmglbUnb _ => tmglbUnbAct d s
  | .tmq _ | .tmqGlb _ => tmqAct d s
  | .sunb _ => .ok (sunbAct d s)
  | .sidx _ => .ok (sidxAct d s)
  | .acz _ => .ok (aczAct d (s.landBanks d))
  | .rteset _ => rtesetAct d s
  | .rtesetClr _ => rtesetClrAct d s
  | .bthset _ => bthsetNow d s
  | .bthsetRel _ => bthsetRelAct d s
  | .bthpop _ => bthpopNow d s
  | .tspl _ => tsplAct d s
  | .tfil _ => tfilAct d s
  | .tinv _ => .ok (tinvAct d s)
  | .tstat _ => tstatAct d s
  | .cldef _ => cldefAct d s
  | .clstat _ | .clstatLink _ => clstatAct d s
  | .clarm _ => clarmAct d s
  | .cldis _ => .ok (cldisAct d s)
  | _ => .ok s

/-- Whether a command waits no longer. -/
def State.hasLeft (s : State) (seq : Nat) : Bool :=
  match s.cmd? seq with
  | some e => e.phase != .waiting
  | none => true

/-- Whether a command that waits would start, or act, now. -/
def State.startable (s : State) (d : DockEntry) : Bool :=
  s.mayStart d && if d.acts then
      match actCmd d s with
      | .ok t => t.hasLeft d.seq
      | .error _ => true
    else (!d.writes || s.canTake d matches .ok true) && s.startCovered d matches .ok true
      && (startCmd d s).hasLeft d.seq

/-- Whether an older command of the same engine could start (R239). -/
def State.olderFirst (s : State) (d : DockEntry) : Bool :=
  s.quay.dock.any fun e => decide (e.seq < d.seq) && e.engine == d.engine && s.startable e

/-- COMMAND_START: a waiting command starts, the oldest of its engine first. A source that is abandoned or disagrees is a
fault of it (R233, R242), and so are a publisher's tidemark at DONE (R232) and one that has become a follower (R245). -/
def execCommandStart (seq : Nat) (s : State) : Out :=
  match s.cmd? seq with
  | none => .next s
  | some d =>
    if d.acts || !s.mayStart d || s.olderFirst d then .next s
    else match s.startCovered d with
      | .error f => .next (s.cmdFault seq f d.index)
      | .ok false => .next s
      | .ok true => match (if d.writes then s.canTake d else .ok true) with
        | .error f => .next (s.cmdFault seq f d.index)
        | .ok false => .next s
        | .ok true => .next (startCmd d s)

/-! ### Progress -/

/-- Whether a command runs, and is of an operation. -/
def State.runs (s : State) (seq : Nat) (p : Nat → Bool) : Option DockEntry :=
  match s.cmd? seq with
  | some d => if d.phase == .running && p d.opc then some d else none
  | none => none

/-- CRANE_BEAT_COMMIT (R235): one beat of a running crane command, or of PFXH's writes (R365). -/
def execCraneBeatCommit (seq : Nat) (s : State) : Out :=
  match s.runs seq fun c => decide (1 ≤ c ∧ c ≤ 8) || c == 0x40 with
  | none => .next s
  | some d => .next (if d.opc = 0x40 then pfxhBeat d s else craneBeatStep d s)

/-- MMA_GROUP_START (R269). -/
def execMmaGroupStart (seq : Nat) (s : State) : Out :=
  match s.runs seq fun c => c == 0x20 || c == 0x21 with
  | none => .next s
  | some d => .next (mmaGroup d s)

/-- MMA_KTILE_RETIRE (R284). -/
def execMmaKtileRetire (seq : Nat) (s : State) : Out :=
  match s.runs seq fun c => c == 0x20 || c == 0x21 with
  | none => .next s
  | some d => .next (mmaRetire d s)

/-- EPI_BEAT_COMMIT (R279). -/
def execEpiBeatCommit (seq : Nat) (s : State) : Out :=
  match s.runs seq fun c => c == 0x23 with
  | none => .next s
  | some d => .next (epiBeat d s)

/-! ### Completion (R240) -/

/-- The last step of a running command. -/
def finishCmd (d : DockEntry) (s : State) : State :=
  match d.op with
  | .mma _ | .mmas _ => if d.ktile ≥ d.nk then s.complete d else s
  | .epi _ => epiFinish d s
  | .pjld _ => pjldFinish d s
  | .tbld _ => tbldFinish d s
  | .tlk _ => tlkRun d s
  | .sbind _ => if s.streamHost d == .gone then sbindOrphan d s else s
  | _ => s

/-- COMMAND_COMPLETE: a running command's last step, or the effect of one without elements when its turn has come. -/
def execCommandComplete (seq : Nat) (s : State) : Out :=
  match s.cmd? seq with
  | none => .next s
  | some d =>
    if d.phase == .running then .next (finishCmd d s)
    else if !d.acts || !s.mayStart d || s.olderFirst d then .next s
    else match actCmd d s with
      | .ok s => .next s
      | .error f => .next (s.cmdFault seq f noIndex)

/-! ### Commands that perform at their issue (R284, R308) -/

def execRteset (o : EOp) (s : State) : Out := issueNow (.rteset o) o rtesetAct s
def execRtesetClr (o : EOp) (s : State) : Out := issueNow (.rtesetClr o) o rtesetClrAct s
def execBthset (o : EOp) (s : State) : Out := issueNow (.bthset o) o bthsetNow s
def execBthsetRel (o : EOp) (s : State) : Out := issueNow (.bthsetRel o) o bthsetRelAct s
def execBthpop (o : EOp) (s : State) : Out := issueNow (.bthpop o) o bthpopNow s
def execTstat (o : EOp) (s : State) : Out := issueNow (.tstat o) o tstatAct s

/-! ### Chase cycles (R241) -/

/-- The command that writes a tidemark of a quay, with its quay: a follower's is that of its publisher; a collective's
tidemark is written by the CLGO of its slot; a berth's tail by the writer of the tile it has reached. -/
def State.writerOf (s : State) (q t : Nat) : Option (Nat × DockEntry) :=
  let m := vget {} (s.quayAt q).tms t
  let g := sparseGet {} s.gtms m.gidx
  if m.fol && (m.fdev ≠ s.devId || !g.bound) then none
  else
    let (q, t) := if m.fol then (g.pubQuay, g.pubTm) else (q, t)
    let x := s.quayAt q
    let coll := (List.range 64).findSome? fun n =>
      let c := s.slot n
      if c.quay = q && (vget {} (s.quayAt q).tms t).writer == some (.collective n c.gen) then (s.collCmd c).map fun d => (c.goQuay, d) else none
    let here := x.dock.find? fun d => d.o.tm.val == t && (d.taken && (vget {} x.tms t).writer == some (.command d.seq) && d.opc != 0x51 || match d.berth with
      | some b =>
        let y := vget {} x.berths b
        y.placed && y.tail == t && d.tailBase == (vget {} x.tms t).value / Nat.max 1 y.tile * y.tile
      | none => false)
    match here with
    | some d => some (q, d)
    | none => coll

/-- The tidemark that a command waits on for coverage, with its quay. -/
def State.waitsFor (s : State) (q : Nat) (d : DockEntry) : Option (Nat × Nat) :=
  let t : State := { s with here := q }
  if !d.entered then none
  else match d.op with
    | .clgo _ =>
      if d.phase == .waiting then
        let x := s.slot (d.fn % 64)
        (({ s with here := x.quay } : State).waitsOn (s.clgoFirst d)).map fun n => (x.quay, n)
      else (List.range 64).findSome? fun n =>
        let x := s.slot n
        if x.goQuay ≠ q || x.seq ≠ d.seq || x.db.tm = 0xFF || !s.collLive x then none
        else
          let off := (x.srcBox (x.meshRank s.devId)).map Prod.fst
          let need := fun (b : ForkBlock) => (x.elems s.devId (x.meshRank b.recv) b.id x.db.perm x.db.dir).map fun g =>
            (x.db, 0, List.zipWith (fun (a b : Nat) => a - b) g off)
          let us : State := { s with here := x.quay }
          (us.waitsOn ((x.localLeft.take 1 ++ x.fork.take 1).flatMap need)).map fun t => (x.quay, t)
    | _ => match d.phase with
      | .running => (t.waitsOn (t.runNeed d)).map fun n => (q, n)
      | .waiting => (t.waitsOn (t.startNeed d)).map fun n => (q, n)
      | _ => none

/-- How a walk of a wait-for chain ends: it returns, it ends without returning, or it has come back to its command. -/
inductive WalkEnd where
  | returned
  | ended
  | cycle (met : List (Nat × DockEntry))
  deriving DecidableEq, Repr

/-- The walk of R241, of up to `n` hops; `met` are the commands met so far. -/
def State.cycleWalk (s : State) (q0 seq0 : Nat) : Nat → List (Nat × DockEntry) → Nat × DockEntry → WalkEnd
  | 0, _, _ => .ended
  | n + 1, met, c =>
    match s.waitsFor c.1 c.2 with
    | none => .returned
    | some (q, t) =>
      if (vget {} (s.quayAt q).tms t).st != .run then .returned
      else match s.writerOf q t with
        | none => .returned
        | some w =>
          if (s.waitsFor w.1 w.2).isNone then .returned
          else if w.1 = q0 && w.2.seq = seq0 then .cycle met
          else s.cycleWalk q0 seq0 n (w :: met) w

/-- Whether a command was issued after another: by the reference count, then the quay, then the sequence number. -/
def issuedAfter (a b : Nat × DockEntry) : Bool :=
  if a.2.issuedAt ≠ b.2.issuedAt then decide (a.2.issuedAt > b.2.issuedAt)
  else if a.1 ≠ b.1 then decide (a.1 > b.1)
  else decide (a.2.seq > b.2.seq)

/-- The youngest of commands. -/
def youngest : List (Nat × DockEntry) → Option (Nat × DockEntry)
  | [] => none
  | c :: t => match youngest t with
    | none => some c
    | some d => if issuedAfter c d then some c else some d

/-- CHASE_CYCLE_WALK (R241): a command that has waited long enough for a covered element walks its wait-for chain; the
youngest command of a cycle faults. -/
def execChaseCycleWalk (seq : Nat) (s : State) : Out :=
  match s.cmd? seq with
  | none => .next s
  | some d =>
    match d.walkAt with
    | none => .next s
    | some w =>
      if (s.waitsFor s.here d).isNone || s.quay.cycle.toNat < d.waited + w then .next s
      else match s.cycleWalk s.here seq 8 [(s.here, d)] (s.here, d) with
        | .returned => .next (s.updCmd seq fun e => { e with walkAt := none })
        | .ended => .next (s.updCmd seq fun e => { e with walkAt := some (w + 4096) })
        | .cycle met =>
          let s := s.updCmd seq fun e => { e with walkAt := none }
          match youngest met with
          | some y => .next (s.atQuay y.1 fun s => s.cmdFault y.2.seq .chaseCycle y.2.index)
          | none => .next s

/-! ### Halted and abandoned frontiers (R242, R243, R255) -/

/-- HALT_WAIT_RELEASE (R242): a running chaser that has waited on a halted tidemark for more than 4,096 cycles frees its
unit and waits again as one that has not started. -/
def execHaltWaitRelease (seq : Nat) (s : State) : Out :=
  match s.cmd? seq with
  | none => .next s
  | some d =>
    if d.phase != .running then .next s
    else match s.waitsFor s.here d with
      | none => .next s
      | some (q, t) =>
        if (vget {} (s.quayAt q).tms t).st == .halt && d.opc != 0x51 && decide (d.waited + 4096 < s.quay.cycle.toNat) then
          .next ((s.updCmd seq fun e =>
            { e with phase := .waiting, group := if d.opc = 0x31 && e.group == 1 then 2 else e.group }).progress seq)
        else .next s

/-- The tidemark in HALT behind which a command of the acting quay's dock is held: the one that its next element, or its start,
waits on (R168, R242). -/
def State.heldBehind (s : State) (d : DockEntry) : Option (Nat × Nat) :=
  match s.waitsFor s.here d with
  | some (q, t) => if (vget {} (s.quayAt q).tms t).st == .halt then some (q, t) else none
  | none => none

/-- The tidemark that a header wait of 4,096 cycles waits behind: every command that names the bollard is held behind a
tidemark in HALT (R168). -/
def State.waitsOnHalt (s : State) (c : Context) : Option (Nat × Nat) :=
  match s.waitAt s.here c with
  | some (b, _) =>
    let ds := s.quay.dock.filter fun d => match d.op.form with
      | .e _ o => o.bol == b
      | _ => false
    if c.waitCycles ≠ 0 && decide (c.waitCycles + 4096 ≤ s.quay.cycle.toNat + 1) && !ds.isEmpty
        && ds.all (fun d => (s.heldBehind d).isSome) then
      ds.head?.bind s.heldBehind
    else none
  | none => none

/-- The context of the acting quay whose header wait has timed out. -/
def State.timedOut (s : State) : Option (Fin 8 × Nat × Nat) :=
  (List.finRange 8).findSome? fun n =>
    let c := s.quay.ctx n
    if c.st == .active || c.st == .waiting then (s.waitsOnHalt c).map fun t => (n, t) else none

/-- HEADER_WAIT_HALT_TIMEOUT (R168). -/
def execHeaderWaitHaltTimeout (s : State) : Out :=
  match s.timedOut with
  | none => .next s
  | some (n, q, t) => .next (s.asCtx n fun s => s.park (.tidemark q t)).pickActive

/-- TMSET.ABANDON: from the system context the tidemark's writer leaves the dock and the tidemark is abandoned (R243); from a
strand it is a command that dock entry refuses (R255). -/
def execTmsetAbandon (o : EOp) (s : State) : Out :=
  if s.system then
    let t := o.tm.val
    if (s.tm t).fol then .next (s.report .permission s.here s.quay.cctx.val none 0)
    else
      let s := match s.writerOf s.here t with
        | some (q, d) => s.atQuay q fun s => s.abandonCmd d false
        | none => s
      .next (s.abandonTm t false)
  else issueE (.tmsetAbandon o) o s

/-! ### Acknowledgements (R253, R282, R397, R402, R414, R416) -/

/-- ACKNOWLEDGEMENT_ARRIVE. -/
def execAcknowledgementArrive (a : Ack) (s : State) : Out :=
  match a with
  | .beat q n upto =>
    if State.ackEarly { s with here := q } n upto then .next (s.send (.acknowledgementArrive a))
    else .next (s.atQuay q fun s =>
      match s.cmd? n with
      | some d => if d.opc = 0x23 then s.epiAck n upto else s.craneAck n upto 0
      | none => s)
  | .block slot gen receiver id => .next (s.blockAck slot gen receiver id)
  | .holdings slot receiver => .next (s.peerAck 0x54 slot receiver)
  | .cancel slot _ receiver => .next (s.peerAck 0x56 slot receiver)
  | .reduction q n f =>
    if s.redAckEarly q n then .next (s.send (.acknowledgementArrive a)) else .next (s.reductionAck q n f)

end Sys2Proof.Machine
end

