-- ==== Sys2Proof/Machine/Host.lean ====
section
/-! DEFINITION. The host's side of the device (R428 to R437): the register window BAR0, bring-up, power and heat, the
attestation mailbox, doorbells and fault answers, and the host's accesses to HBM. -/

namespace Sys2Proof.Machine

open Sys2Proof

/-! ### Reading BAR0 (R429, R430) -/

/-- A word of 64 flags. -/
def flagWord (f : Nat → Bool) : Word := BitVec.ofNat 64 ((List.range 64).foldl (fun n i => if f i then n + 2 ^ i else n) 0)

/-- STATUS (R430). A port of which no lane trained is a function that failed training (DEDUCED, log 118). -/
def State.status (s : State) : Word :=
  let h := s.host
  let ports := (List.range 18).foldl (fun n p => if (vget {} s.ports p).ready then n + 2 ^ p else n) 0
  let anyFail : Bool := h.hbmFail != 0 || (s.quays.any fun q => q.2.failed) || s.ports.toList.any Port.failed
  BitVec.ofNat 64 (h.rom.toNat + 2 * h.fwok.toNat + 4 * h.ucie.toNat + 8 * anyFail.toNat + h.hbmFail.toNat * 2 ^ 22
    + h.hbmReady.toNat * 2 ^ 30 + ports * 2 ^ 38 + h.fwerr * 2 ^ 56)

/-- Word `w` of a slice descriptor (R319). -/
def SliceDesc.word (d : SliceDesc) (w : Nat) : Word :=
  match w with
  | 0 => d.jetties.setWidth 64
  | 1 => (d.jetties >>> 64).setWidth 64
  | 2 => d.hbmBase
  | 3 => d.hbmSize
  | 4 => BitVec.ofNat 64 (d.ebud.toNat + d.gtmFirst.toNat * 2 ^ 32 + d.gtmCount.toNat * 2 ^ 48)
  | 5 => d.save
  | 6 => d.saveSize
  | _ => d.hmap

/-- A slice descriptor with word `w` written. -/
def SliceDesc.put (d : SliceDesc) (w : Nat) (v : Word) : SliceDesc :=
  let low : BitVec 128 := 0xFFFFFFFFFFFFFFFF
  match w with
  | 0 => { d with jetties := (d.jetties &&& ~~~low) ||| v.setWidth 128 }
  | 1 => { d with jetties := (d.jetties &&& low) ||| ((v &&& 0xFFFF).setWidth 128 <<< 64) }
  | 2 => { d with hbmBase := v }
  | 3 => { d with hbmSize := v }
  | 4 => { d with
           ebud := v.setWidth 32, gtmFirst := BitVec.ofNat 16 (field v.toNat 32 16), gtmCount := BitVec.ofNat 16 (field v.toNat 48 16) }
  | 5 => { d with save := v }
  | 6 => { d with saveSize := v }
  | _ => { d with hmap := v }

/-- Word `w` of a queue entry (R320). -/
def Queue.word (x : Queue) (w : Nat) : Word :=
  match w with
  | 0 => x.ring
  | 1 => BitVec.ofNat 64 (x.size.toNat + x.doorbell % 4096 * 2 ^ 32 + x.slice % 16 * 2 ^ 48 + x.weight % 256 * 2 ^ 56)
  | 2 => x.head.setWidth 64
  | _ => x.errlog

/-- A queue entry with word `w` written; HEAD is read-only. -/
def Queue.put (x : Queue) (w : Nat) (v : Word) : Queue :=
  match w with
  | 0 => { x with ring := v }
  | 1 => { x with
           size := v.setWidth 32, doorbell := field v.toNat 32 12, slice := field v.toNat 48 4, weight := field v.toNat 56 8 }
  | 2 => x
  | _ => { x with errlog := v }

/-- Word `w` of a pool descriptor (R353). -/
def Pool.word (x : Pool) (w : Nat) : Word :=
  match w with
  | 0 => x.data
  | 1 => x.hdr
  | 2 => BitVec.ofNat 64 (x.npages % 2 ^ 32 + x.tokb % 2 ^ 16 * 2 ^ 32 + (x.home % 2 + 128 * x.enabled.toNat) * 2 ^ 48)
  | 3 => BitVec.ofNat 64 (x.freehead.toNat + x.freecnt.toNat * 2 ^ 32)
  | _ => 0

/-- Writes word `w` of a pool descriptor: FREEHEAD and FREECNT are read-only while EN stands, and setting EN opens the pool. -/
def State.putPoolWord (s : State) (p w : Nat) (v : Word) : State :=
  let x := s.pool p
  match w with
  | 0 => s.putPool p { x with data := v }
  | 1 => s.putPool p { x with hdr := v }
  | 2 =>
    let y := { x with npages := field v.toNat 0 32, tokb := field v.toNat 32 16, home := field v.toNat 48 1 }
    if v.getLsbD 55 then (if x.enabled then s.putPool p y else (s.putPool p y).enablePool p)
    else s.putPool p { y with en := false, threading := false }
  | 3 => if x.enabled then s else s.putPool p { x with freehead := v.setWidth 32, freecnt := BitVec.ofNat 32 (field v.toNat 32 32) }
  | _ => s

/-- The 8-byte word at an aligned offset of BAR0; an offset that is not listed reads as zero. -/
def State.bar0 (s : State) (off : Nat) : Word :=
  let h := s.host
  let p := s.pager
  let quays := fun (base : Nat) (f : Quay → Bool) => flagWord fun i => f (s.quayAt ((off - base) * 8 + i))
  if off = 0 then s.status
  else if off = 0x3F00 then h.fwaddr
  else if off = 0x3F08 then h.fwlen
  else if !h.fwok then 0
  else if 0x40 ≤ off ∧ off < 0x68 then quays 0x40 Quay.ready
  else if 0x80 ≤ off ∧ off < 0xA8 then quays 0x80 Quay.failed
  else if 0x1000 ≤ off ∧ off < 0x1400 then (vget {} s.slices ((off - 0x1000) / 64)).word (off % 64 / 8)
  else if 0x1400 ≤ off ∧ off < 0x1C00 then (s.queueAt ((off - 0x1400) / 32)).word (off % 32 / 8)
  else if 0x2000 ≤ off ∧ off < 0x3000 then (s.pool ((off - 0x2000) / 64)).word (off % 64 / 8)
  else match off with
    | 0x3000 => h.ownIdReg
    | 0x3008 => h.memberReg
    | 0x3100 => h.imgBase
    | 0x3108 => h.imgCount
    | 0x3200 => p.logBase
    | 0x3208 => p.logSize
    | 0x3210 => p.pidx
    | 0x3218 => p.cidx
    | 0x3300 => p.answerTicket
    | 0x3400 => BitVec.ofNat 64 h.clamp
    | 0x3408 => BitVec.ofNat 64 (h.amber + 256 * h.red)
    | 0x3410 => BitVec.ofNat 64 (h.band0 + 4 * h.band1)
    | 0x3418 => BitVec.ofNat 64 (h.temp0 % 256 + 256 * (h.temp1 % 256))
    | 0x3420 => h.stretch.setWidth 64
    | 0x3800 => h.nonce.get 0
    | 0x3808 => h.nonce.get 1
    | 0x3810 => h.nonce.get 2
    | 0x3818 => h.nonce.get 3
    | 0x3820 => h.repAddr
    | 0x3830 => BitVec.ofNat 64 (h.busy.toNat + 2 * h.done.toNat + 4 * h.exhausted.toNat + 8 * h.overrun.toNat)
    | _ => 0

/-- What a read of BAR0 gives: all ones where it is not 4 or 8 bytes and naturally aligned (R429). -/
def State.bar0Read (s : State) (off size : Nat) : Word :=
  if !(size = 4 ∨ size = 8) || off % size ≠ 0 then BitVec.allOnes 64
  else
    let v := s.bar0 (off / 8 * 8) >>> (8 * (off % 8))
    if size = 8 then v else v &&& 0xFFFFFFFF

/-! ### Writes with behaviour of their own -/

/-- A doorbell write (R429): only on a global tidemark that an enabled queue names, and only to raise its value. -/
def State.doorbell (s : State) (g : Nat) (v : Word) : State :=
  let m := sparseGet ({} : GlobalMark) s.gtms g
  let n := field v.toNat 0 32
  let named : Bool := s.queues.toList.any fun q => q.weight != 0 && q.doorbell == g
  if named && decide (m.value < n) then
    { s with gtms := sparsePut s.gtms g { m with value := n, st := if m.st == .idle then .run else m.st } }
  else s

/-- The member mask commits the haven, and the ports whose neighbour is a member train (R429, R431); once. -/
def State.setHaven (s : State) (v : Word) : State :=
  if s.host.havenSet then s
  else
    let id := field s.host.ownIdReg.toNat 0 6
    let s := { s with devId := id, members := v, host := { s.host with memberReg := v, havenSet := true } }
    { s with ports := Vector.ofFn fun i => if s.portUsed i.val then { s.ports.get i with st := .training } else s.ports.get i }

/-- The write to FWLEN starts the fetch, until FWOK; after an error Plidon has stopped (R431). -/
def State.setFwlen (s : State) (v : Word) : State :=
  if s.host.fwok then s
  else { s with host := { s.host with fwlen := v &&& 0xFFFFFFFF, fetching := s.host.fwerr == 0 } }

def State.setClamp (s : State) (v : Word) : State :=
  { s with host := { s.host with clamp := Nat.min 3600 (field v.toNat 0 12) } }

/-- Thresholds that R433 does not allow are ignored. -/
def State.setBands (s : State) (v : Word) : State :=
  let amber := field v.toNat 0 8
  let red := field v.toNat 8 8
  if red > amber + 5 && red < 115 then { s with host := { s.host with amber := amber, red := red } } else s

/-- REQ (R437): a request while BUSY is ignored and sets OVERRUN; with the counter at its end it sets EXHAUSTED; else the
counter rises before anything is signed. -/
def State.attestReq (s : State) (v : Word) : State :=
  let h := s.host
  if !v.getLsbD 0 then s
  else if h.busy then { s with host := { h with overrun := true } }
  else if h.signIndex ≥ 2 ^ 20 then { s with host := { h with exhausted := true } }
  else { s with host := { h with busy := true, signIndex := h.signIndex + 1 } }

/-- Ones written to STAT clear DONE and OVERRUN. -/
def State.clearStat (s : State) (v : Word) : State :=
  let h := s.host
  { s with host := { h with done := h.done && !v.getLsbD 1, overrun := h.overrun && !v.getLsbD 3 } }

/-- The write to 0x3308 answers the ticket in 0x3300 (R178, R432); the mappings are what system software has set up for the
range before it. Other values answer nothing. -/
def State.faultAnswer (s : State) (v : Word) (maps : List Mapping) : State :=
  let t := field s.pager.answerTicket.toNat 0 32
  if v = 0 then ({ s with pages := maps ++ s.pages }).answer t false
  else if v = 1 then s.answer t true
  else s

/-- A write of the 8-byte word at an aligned offset; offsets that are not listed, and read-only ones, ignore it. -/
def State.bar0Put (s : State) (off : Nat) (v : Word) (maps : List Mapping) : State :=
  let h := s.host
  let p := s.pager
  if off = 0x3F00 then (if h.fwok then s else { s with host := { h with fwaddr := v } })
  else if off = 0x3F08 then s.setFwlen v
  else if !h.fwok then s
  else if 0x1000 ≤ off ∧ off < 0x1400 then
    let i := (off - 0x1000) / 64
    { s with slices := vput s.slices i ((vget {} s.slices i).put (off % 64 / 8) v) }
  else if 0x1400 ≤ off ∧ off < 0x1C00 then s.updQueue ((off - 0x1400) / 32) fun x => x.put (off % 32 / 8) v
  else if 0x2000 ≤ off ∧ off < 0x3000 then s.putPoolWord ((off - 0x2000) / 64) (off % 64 / 8) v
  else if 0x10000 ≤ off ∧ off < 0x18000 then s.doorbell ((off - 0x10000) / 8) v
  else match off with
    | 0x3000 => if h.havenSet then s else { s with host := { h with ownIdReg := v &&& 0x3F } }
    | 0x3008 => s.setHaven v
    | 0x3100 => { s with host := { h with imgBase := v } }
    | 0x3108 => { s with host := { h with imgCount := v } }
    | 0x3200 => { s with pager := { p with logBase := v } }
    | 0x3208 => { s with pager := { p with logSize := v } }
    | 0x3218 => { s with pager := { p with cidx := v } }
    | 0x3300 => { s with pager := { p with answerTicket := v } }
    | 0x3308 => s.faultAnswer v maps
    | 0x3400 => s.setClamp v
    | 0x3408 => s.setBands v
    | 0x3420 => { s with host := { h with stretch := h.stretch &&& ~~~(v.setWidth 32) } }
    | 0x3800 => { s with host := { h with nonce := h.nonce.set 0 v } }
    | 0x3808 => { s with host := { h with nonce := h.nonce.set 1 v } }
    | 0x3810 => { s with host := { h with nonce := h.nonce.set 2 v } }
    | 0x3818 => { s with host := { h with nonce := h.nonce.set 3 v } }
    | 0x3820 => { s with host := { h with repAddr := v } }
    | 0x3828 => s.attestReq v
    | 0x3830 => s.clearStat v
    | _ => s

/-- What the other half of a 4-byte write keeps: nothing where a one clears and in the registers that only act. -/
def State.bar0Keep (s : State) (off : Nat) : Word := if off = 0x3420 ∨ off = 0x3830 then 0 else s.bar0 off

/-- A write to BAR0 (R429): 4 or 8 bytes, naturally aligned, else dropped; held back while a report is made, but for REQ
(R437). -/
def State.bar0Write (s : State) (off size : Nat) (v : Word) (maps : List Mapping) : State :=
  if !s.host.ucie || !(size = 4 ∨ size = 8) || off % size ≠ 0 then s
  else if s.host.busy && off / 8 ≠ 0x3828 / 8 then
    { s with host := { s.host with held := s.host.held ++ [(off, size, v, maps)] } }
  else
    let base := off / 8 * 8
    let sh := 8 * (off % 8)
    let m : Word := if size = 8 then BitVec.allOnes 64 else 0xFFFFFFFF#64 <<< sh
    s.bar0Put base ((s.bar0Keep base &&& ~~~m) ||| ((v <<< sh) &&& m)) maps

/-! ### The events of BAR0 -/

/-- BAR0_REGISTER_WRITE (R429). -/
def execBar0RegisterWrite (off size : Nat) (v : Word) (s : State) : Out := .next (s.bar0Write off size v [])

/-- DOORBELL_WRITE (R429). -/
def execDoorbellWrite (g : Fin 4096) (v : Word) (s : State) : Out := .next (s.bar0Write (0x10000 + 8 * g.val) 8 v [])

/-- HAVEN_MASK_WRITE (R429, R431). -/
def execHavenMaskWrite (v : Word) (s : State) : Out := .next (s.bar0Write 0x3008 8 v [])

/-- FWLEN_WRITE (R431). -/
def execFwlenWrite (v : Word) (s : State) : Out := .next (s.bar0Write 0x3F08 8 v [])

/-- CLAMP_WRITE (R433). -/
def execClampWrite (v : Word) (s : State) : Out := .next (s.bar0Write 0x3400 8 v [])

/-- BAND_THRESHOLD_WRITE (R433). -/
def execBandThresholdWrite (v : Word) (s : State) : Out := .next (s.bar0Write 0x3408 8 v [])

/-- ATTEST_REQ_WRITE (R437). -/
def execAttestReqWrite (v : Word) (s : State) : Out := .next (s.bar0Write 0x3828 8 v [])

/-- FAULT_ANSWER_WRITE (R432). -/
def execFaultAnswerWrite (v : Word) (maps : List Mapping) (s : State) : Out := .next (s.bar0Write 0x3308 8 v maps)

/-! ### What system software does to its own tables (R133, R387) -/

/-- Whether a mapping or a handle's page holds a 64 KiB page. -/
def holdsPage (va size page : Nat) : Bool := decide (va ≤ page * 2 ^ 16) && decide (page * 2 ^ 16 < va + pageBytes size)

/-- A handle whose page is shot down loses its valid bit and keeps its virtual page (R133). -/
def Handle.shot (page : Nat) (h : Handle) : Handle :=
  if h.valid && holdsPage h.vpage h.size page then { h with valid := false } else h

/-- The handles of a register set after a shoot-down. -/
def Shadowed.shot (page : Nat) (r : Shadowed) : Shadowed := { r with h := r.h.map (·.shot page) }

/-- A context of the slice after a shoot-down. -/
def Context.shot (slice page : Nat) (c : Context) : Context :=
  if c.slice = slice then
    { c with regs := c.regs.shot page, shadow := c.shadow.shot page, entry := c.entry.shot page }
  else c

/-- Clears the valid bit of every handle of a slice on a page, wherever its strand is kept. -/
def State.shoot (s : State) (slice page : Nat) : State :=
  let kept : SavedQuay → SavedQuay := fun q => { q with ctxs := q.ctxs.map fun (n, c) => (n, c.shot slice page) }
  { s with
    quays := s.quays.map fun (n, q) => (n, { q with ctxs := q.ctxs.map (·.shot slice page) })
    images := s.images.map fun i => { i with ctx := i.ctx.shot slice page }
    crews := s.crews.map fun k => { k with saved := k.saved.map kept } }

/-- Another agent writes its own memory (R39): a peer's or the host's, and no byte of the device's HBM. -/
def State.agentWrite (s : State) (pa : Nat) (bytes : List Byte) : State :=
  if (List.range bytes.length).all fun i => decide (0xC000000000 ≤ s.normPhys (pa + i)) then s.writeBytes pa bytes else s

/-- The management firmware lowers the current limit; it never raises it (R433). -/
def State.lowerClamp (s : State) (amps : Nat) : State :=
  if s.host.fwok then { s with host := { s.host with clamp := Nat.min s.host.clamp amps } } else s

/-- The address filter of the management firmware: its own 256 MiB window of HBM (R435). -/
def plidonWindow (pa : Nat) : Bool :=
  decide (Config.plidonBase ≤ pa) && decide (pa < Config.plidonBase + 2 ^ 28) && decide (pa < 0xC000000000)

/-- The management firmware writes HBM: only what lies in its window passes the filter (R435). -/
def State.firmwareWrite (s : State) (pa : Nat) (bytes : List Byte) : State :=
  if s.host.fwok && !s.hbmFailed && !s.hbmWaits && (List.range bytes.length).all fun i => plidonWindow (pa + i) then
    s.writeBytes pa bytes
  else s

/-- A deed of system software, of the management firmware, or of another agent. -/
def Deed.act (d : Deed) (s : State) : State :=
  match d with
  | .map m => { s with pages := m :: s.pages }
  | .unmap slice page => { s with pages := s.pages.filter fun m => !(m.slice == slice && holdsPage m.va m.size page) }
  | .shoot slice page => s.shoot slice page
  | .assign slot slice => s.updSlot slot fun _ => { assigned := slice.isSome, slice := slice.getD 0 }
  | .agentWrite pa bytes => s.agentWrite pa bytes
  | .l2Invalidate line => { s with l2 := s.l2.filter fun x => x.1 != line }
  | .flitsTaken port n => s.flitsTaken port n
  | .flitRetry port => s.flitRetry port
  | .confirmed stack dev quay =>
    if dev = s.devId then s
    else { s with filter := s.filter.filter fun e => !(e.stack == stack && e.dev == dev && e.quay == quay) }
  | .firmwareClamp amps => s.lowerClamp amps
  | .firmwareWrite pa bytes => s.firmwareWrite pa bytes

/-! ### Bring-up (R428, R431) -/

/-- POWER_WAKE (R431): a device that is off wakes, Plidon starts in ROM and trains the host port. -/
def execPowerWake (s : State) : Out :=
  if s.host.power then .next s
  else .next { s with host := { s.host with power := true, rom := true, ucie := s.host.modules.any id } }

/-- The code of the check of a fetched firmware image (R430, R431): 1 where its key is not the fused one or its signature does
not hold under it, 2 where its version is below the fused floor, 0 where it passes. -/
def firmwareCode (image : List Byte) : Nat :=
  let key := Config.imageKey image
  if Config.shake256 (leBytes 68 key.toNat) ≠ Config.fusedKeyDigest || !Config.xmssVerify key image (Config.imageSignature image) then 1
  else if Config.imageVersion image < Config.firmwareFloor then 2
  else 0

/-- FIRMWARE_CHECK (R431, R437): a fetched image is checked, and runs and is measured, or the device stops with FWERR; 3 where the
fetch itself failed. -/
def execFirmwareCheck (fetched : Bool) (s : State) : Out :=
  let h := s.host
  let image := s.readBytes (hostPhys h.fwaddr.toNat) h.fwlen.toNat
  if !h.fetching then .next s
  else match if fetched then firmwareCode image else 3 with
    | 0 => .next { s with host := { h with fetching := false, fwok := true, fwDigest := Config.shake256 image } }
    | n + 1 => .next { s with host := { h with fetching := false, fwerr := n + 1 } }

/-- FUNCTION_READY (R431): a function finishes its training. -/
def execFunctionReady (f : DevFunction) (ok : Bool) (s : State) : Out :=
  let h := s.host
  if !h.fwok then .next s
  else match f with
    | .quay n =>
      let q := s.quayAt n
      if n ≥ 320 || q.ready || q.failed then .next s
      else if ok then .next (s.putQuay n { q with ready := true })
      else .next (s.putQuay n { q with failed := true }).recheckWindows
    | .stack n =>
      let b : BitVec 8 := BitVec.twoPow 8 n
      if n ≥ 8 || (h.hbmReady ||| h.hbmFail) &&& b != 0 then .next s
      else if ok then .next { s with host := { h with hbmReady := h.hbmReady ||| b } }
      else .next { s with host := { h with hbmFail := h.hbmFail ||| b } }
    | .port n lanes =>
      let p := vget {} s.ports n
      if n ≥ 18 || !h.havenSet || !s.portUsed n || p.ready || p.failed then .next s
      else
        let k := if ok then Nat.min 4 lanes else 0
        let st : PortState := if k = 0 then .down else if k = 4 then .up else .degraded
        .next { s with ports := vput s.ports n { p with st := st, lanes := k, ready := k != 0, failed := k == 0 } }

/-- UCIE_MODULE_FAIL (R428): the port runs on the modules that are left. -/
def execUcieModuleFail (m : Fin 4) (s : State) : Out :=
  let l := s.host.modules.set m.val false
  .next { s with host := { s.host with modules := l, ucie := s.host.ucie && l.any id } }

/-! ### Power and heat (R431, R433, R434) -/

/-- A cell of memory that does not belong to the device's own HBM. -/
def outsideHbm (c : Host.Cell) : Bool := decide (0xC000000000 ≤ c.1)

/-- The device powers off: it keeps its fuses, which are constants, and the attestation counter (R431). What is not its own
stays: the inputs to come, the memory of peers and of the host, what it has sent. -/
def State.powerOff (s : State) : State :=
  { agenda := s.agenda, here := s.here, fresh := s.fresh, refTime := s.refTime, mem := s.mem.filter outsideHbm
    outbox := s.outbox, host := { signIndex := s.host.signIndex } }

/-- The next band of a die (R433): one step at a sample. -/
def nextBand (amber red band t : Nat) : Nat :=
  match band with
  | 0 => if t ≥ amber then 1 else 0
  | 1 => if t ≥ red then 2 else if t + 5 < amber then 0 else 1
  | b => if t + 5 < red then 1 else b

/-- THERMAL_SAMPLE (R433): a change acts in the harbourmaster from the next sample on; 115 °C powers the device off. -/
def execThermalSample (t0 t1 : Nat) (s : State) : Out :=
  let h := s.host
  if t0 ≥ 115 || t1 ≥ 115 then .next s.powerOff
  else
    let b0 := nextBand h.amber h.red h.band0 t0
    let b1 := nextBand h.amber h.red h.band1 t1
    let s := { s with host :=
      { h with temp0 := t0, temp1 := t1, actBand0 := h.band0, actBand1 := h.band1, band0 := b0, band1 := b1 } }
    .next (if b0 != h.band0 || b1 != h.band1 then s.emit (.msix 2) else s)

/-- CLOCK_STRETCH (R433): one more period in which the clamp stretched the quay clocks. -/
def execClockStretch (s : State) : Out := .next { s with host := { s.host with stretch := s.host.stretch + 1 } }

/-- RAIL_UNDERVOLTAGE (R434): every function is reset and no longer READY. Plidon's registers, the descriptors of slices and
queues and the pager's log registers stay (DESIGN CHOICE, log 63). -/
def execRailUndervoltage (s : State) : Out :=
  let p := s.pager
  let keep := fun (x : Queue) =>
    ({ ring := x.ring, size := x.size, doorbell := x.doorbell, slice := x.slice, weight := x.weight, head := x.head
       errlog := x.errlog } : Queue)
  .next
    { agenda := s.agenda, here := s.here, system := s.system, fresh := s.fresh, refTime := s.refTime
      mem := s.mem.filter outsideHbm, pages := s.pages, outbox := s.outbox, devId := s.devId, members := s.members
      slices := s.slices.map fun d => { d with turn := 64, quantumStart := 0 }
      queues := s.queues.map keep
      pools := s.pools.map fun x => { x with en := false, threading := false }
      pager := { logBase := p.logBase, logSize := p.logSize, pidx := p.pidx, cidx := p.cidx, nextTicket := p.nextTicket
                 answerTicket := p.answerTicket }
      host := { s.host with hbmReady := 0, hbmFail := 0 } }

/-! ### Attestation (R436, R437) -/

/-- The bytes of a report before its signature. -/
def State.reportHead (s : State) (index : Nat) : List Byte :=
  let h := s.host
  let conf := (List.range 1536).flatMap fun i => leBytes 8 (s.bar0 (0x1000 + 8 * i)).toNat
  leBytes 2 1 ++ leBytes 2 Config.stepping.toNat ++ leBytes 4 index
    ++ leBytes 32 (Config.shake256 (leBytes 68 Config.deviceKey.toNat)).toNat ++ leBytes 32 h.fwDigest.toNat
    ++ leBytes 32 (Config.shake256 conf).toNat ++ h.nonce.toList.flatMap (fun w => leBytes 8 w.toNat)
    ++ leBytes 68 Config.deviceKey.toNat ++ leBytes 4 0

/-- ATTEST_REPORT_DONE (R437): the report is written to the host address, and the writes that were held back are made. -/
def execAttestReportDone (s : State) : Out :=
  let h := s.host
  if !h.busy then .next s
  else
    let index := h.signIndex - 1
    let head := s.reportHead index
    let s := s.writeBytes (hostPhys h.repAddr.toNat) (head ++ leBytes 2820 (Config.xmssSign Config.deviceSecret index head).toNat)
    let s := { s with host := { s.host with busy := false, done := true, held := [] } }.emit (.msix 1)
    .next (h.held.foldl (fun s w => s.bar0Write w.1 w.2.1 w.2.2.1 w.2.2.2) s)

/-! ### The host's accesses to HBM (R50, R428, R431) -/

/-- CXL_MEM_ACCESS: a write stores its bytes, a read answers as many; none while HBM is not READY. -/
def execCxlMemAccess (write : Bool) (addr : Nat) (data : List Byte) (s : State) : Out :=
  if !s.host.ucie || s.hbmFailed || s.hbmWaits || addr + data.length > 0xC000000000 then .next s
  else if write then .next (s.writeBytes addr data)
  else .next (s.emit (.readData addr (s.readBytes addr data.length)))

end Sys2Proof.Machine
end

