-- ==== Sys2Proof/Machine/Dispatch.lean ====
section
/-! DEFINITION. The meaning of every instruction: one arm per constructor, each one call of its meaning. -/

namespace Sys2Proof.Machine

def exec (i : Instr) (s : State) : Host.Outcome State Fault Refusal :=
  match i with
  | .bundleDispatch => Sys2Proof.Machine.execBundleDispatch s
  | .codeFetch line => Sys2Proof.Machine.execCodeFetch line s
  | .headerWait bol n => Sys2Proof.Machine.execHeaderWait bol n s
  | .headerPost bol n => Sys2Proof.Machine.execHeaderPost bol n s
  | .yieldLeg => Sys2Proof.Machine.execYieldLeg s
  | .decouple => Sys2Proof.Machine.execDecouple s
  | .rejoin => Sys2Proof.Machine.execRejoin s
  | .storePerform k => Sys2Proof.Machine.execStorePerform k s
  | .loadDataLand ctx k => Sys2Proof.Machine.execLoadDataLand ctx k s
  | .xlateResult ctx k => Sys2Proof.Machine.execXlateResult ctx k s
  | .pagerWaiterImageWrite ctx => Sys2Proof.Machine.execPagerWaiterImageWrite ctx s
  | .asyncFaultTaken => Sys2Proof.Machine.execAsyncFaultTaken s
  | .watchdog => Sys2Proof.Machine.execWatchdog s
  | .headerWaitHaltTimeout => Sys2Proof.Machine.execHeaderWaitHaltTimeout s
  | .add o => Sys2Proof.Machine.execAdd o s
  | .sub o => Sys2Proof.Machine.execSub o s
  | .addi o => Sys2Proof.Machine.execAddi o s
  | .mul o => Sys2Proof.Machine.execMul o s
  | .mulh o => Sys2Proof.Machine.execMulh o s
  | .mulhu o => Sys2Proof.Machine.execMulhu o s
  | .div o => Sys2Proof.Machine.execDiv o s
  | .divu o => Sys2Proof.Machine.execDivu o s
  | .rem o => Sys2Proof.Machine.execRem o s
  | .remu o => Sys2Proof.Machine.execRemu o s
  | .and o => Sys2Proof.Machine.execAnd o s
  | .or o => Sys2Proof.Machine.execOr o s
  | .xor o => Sys2Proof.Machine.execXor o s
  | .andi o => Sys2Proof.Machine.execAndi o s
  | .ori o => Sys2Proof.Machine.execOri o s
  | .xori o => Sys2Proof.Machine.execXori o s
  | .shl o => Sys2Proof.Machine.execShl o s
  | .shr o => Sys2Proof.Machine.execShr o s
  | .sha o => Sys2Proof.Machine.execSha o s
  | .shli o => Sys2Proof.Machine.execShli o s
  | .shri o => Sys2Proof.Machine.execShri o s
  | .shai o => Sys2Proof.Machine.execShai o s
  | .min o => Sys2Proof.Machine.execMin o s
  | .max o => Sys2Proof.Machine.execMax o s
  | .minu o => Sys2Proof.Machine.execMinu o s
  | .maxu o => Sys2Proof.Machine.execMaxu o s
  | .sel o => Sys2Proof.Machine.execSel o s
  | .clz o => Sys2Proof.Machine.execClz o s
  | .ctz o => Sys2Proof.Machine.execCtz o s
  | .popc o => Sys2Proof.Machine.execPopc o s
  | .bext o => Sys2Proof.Machine.execBext o s
  | .bins o => Sys2Proof.Machine.execBins o s
  | .clmul o => Sys2Proof.Machine.execClmul o s
  | .clmulh o => Sys2Proof.Machine.execClmulh o s
  | .li o => Sys2Proof.Machine.execLi o s
  | .lih o => Sys2Proof.Machine.execLih o s
  | .lix o => Sys2Proof.Machine.execLix o s
  | .cmp o => Sys2Proof.Machine.execCmp o s
  | .cmpi o => Sys2Proof.Machine.execCmpi o s
  | .copy o => Sys2Proof.Machine.execCopy o s
  | .stat o => Sys2Proof.Machine.execStat o s
  | .statw o => Sys2Proof.Machine.execStatw o s
  | .ldB o => Sys2Proof.Machine.execLdB o s
  | .ldBu o => Sys2Proof.Machine.execLdBu o s
  | .ldH o => Sys2Proof.Machine.execLdH o s
  | .ldHu o => Sys2Proof.Machine.execLdHu o s
  | .ldW o => Sys2Proof.Machine.execLdW o s
  | .ldWu o => Sys2Proof.Machine.execLdWu o s
  | .ldD o => Sys2Proof.Machine.execLdD o s
  | .stB o => Sys2Proof.Machine.execStB o s
  | .stH o => Sys2Proof.Machine.execStH o s
  | .stW o => Sys2Proof.Machine.execStW o s
  | .stD o => Sys2Proof.Machine.execStD o s
  | .vld o => Sys2Proof.Machine.execVld o s
  | .vst o => Sys2Proof.Machine.execVst o s
  | .vlds o => Sys2Proof.Machine.execVlds o s
  | .vsts o => Sys2Proof.Machine.execVsts o s
  | .vldb o => Sys2Proof.Machine.execVldb o s
  | .xlate o => Sys2Proof.Machine.execXlate o s
  | .hrel o => Sys2Proof.Machine.execHrel o s
  | .hstat o => Sys2Proof.Machine.execHstat o s
  | .amo o => Sys2Proof.Machine.execAmo o s
  | .cas o => Sys2Proof.Machine.execCas o s
  | .red o => Sys2Proof.Machine.execRed o s
  | .vred o => Sys2Proof.Machine.execVred o s
  | .fence o => Sys2Proof.Machine.execFence o s
  | .rinv o => Sys2Proof.Machine.execRinv o s
  | .lrfence o => Sys2Proof.Machine.execLrfence o s
  | .dictld o => Sys2Proof.Machine.execDictld o s
  | .bmwait o => Sys2Proof.Machine.execBmwait o s
  | .bmset o => Sys2Proof.Machine.execBmset o s
  | .bldset o => Sys2Proof.Machine.execBldset o s
  | .bldrd o => Sys2Proof.Machine.execBldrd o s
  | .bpost o => Sys2Proof.Machine.execBpost o s
  | .tmw o => Sys2Proof.Machine.execTmw o s
  | .sendh o => Sys2Proof.Machine.execSendh o s
  | .prep o => Sys2Proof.Machine.execPrep o s
  | .prepi o => Sys2Proof.Machine.execPrepi o s
  | .go o => Sys2Proof.Machine.execGo o s
  | .call o => Sys2Proof.Machine.execCall o s
  | .ret o => Sys2Proof.Machine.execRet o s
  | .loop o => Sys2Proof.Machine.execLoop o s
  | .lpset o => Sys2Proof.Machine.execLpset o s
  | .lpsetReg o => Sys2Proof.Machine.execLpsetReg o s
  | .trap o => Sys2Proof.Machine.execTrap o s
  | .halt o => Sys2Proof.Machine.execHalt o s
  | .susp o => Sys2Proof.Machine.execSusp o s
  | .tcqgo o => Sys2Proof.Machine.execTcqgo o s
  | .rrb o => Sys2Proof.Machine.execRrb o s
  | .faultret o => Sys2Proof.Machine.execFaultret o s
  | .vadd o => Sys2Proof.Machine.execVadd o s
  | .vsub o => Sys2Proof.Machine.execVsub o s
  | .vmul o => Sys2Proof.Machine.execVmul o s
  | .vmulh o => Sys2Proof.Machine.execVmulh o s
  | .vmac o => Sys2Proof.Machine.execVmac o s
  | .vmacw o => Sys2Proof.Machine.execVmacw o s
  | .vabs o => Sys2Proof.Machine.execVabs o s
  | .vneg o => Sys2Proof.Machine.execVneg o s
  | .vmin o => Sys2Proof.Machine.execVmin o s
  | .vmax o => Sys2Proof.Machine.execVmax o s
  | .vadds o => Sys2Proof.Machine.execVadds o s
  | .vsubs o => Sys2Proof.Machine.execVsubs o s
  | .vavg o => Sys2Proof.Machine.execVavg o s
  | .vand o => Sys2Proof.Machine.execVand o s
  | .vor o => Sys2Proof.Machine.execVor o s
  | .vxor o => Sys2Proof.Machine.execVxor o s
  | .vnot o => Sys2Proof.Machine.execVnot o s
  | .vshl o => Sys2Proof.Machine.execVshl o s
  | .vshr o => Sys2Proof.Machine.execVshr o s
  | .vsha o => Sys2Proof.Machine.execVsha o s
  | .vshli o => Sys2Proof.Machine.execVshli o s
  | .vclmul o => Sys2Proof.Machine.execVclmul o s
  | .vclmulh o => Sys2Proof.Machine.execVclmulh o s
  | .vpopc o => Sys2Proof.Machine.execVpopc o s
  | .vclz o => Sys2Proof.Machine.execVclz o s
  | .vfadd o => Sys2Proof.Machine.execVfadd o s
  | .vfsub o => Sys2Proof.Machine.execVfsub o s
  | .vfmul o => Sys2Proof.Machine.execVfmul o s
  | .vfma o => Sys2Proof.Machine.execVfma o s
  | .vfmin o => Sys2Proof.Machine.execVfmin o s
  | .vfmax o => Sys2Proof.Machine.execVfmax o s
  | .vfabs o => Sys2Proof.Machine.execVfabs o s
  | .vfneg o => Sys2Proof.Machine.execVfneg o s
  | .vexp2 o => Sys2Proof.Machine.execVexp2 o s
  | .vrcp o => Sys2Proof.Machine.execVrcp o s
  | .vrsq o => Sys2Proof.Machine.execVrsq o s
  | .vfcmp o => Sys2Proof.Machine.execVfcmp o s
  | .vicmp o => Sys2Proof.Machine.execVicmp o s
  | .vcvt o => Sys2Proof.Machine.execVcvt o s
  | .vpackp o => Sys2Proof.Machine.execVpackp o s
  | .vunpkp o => Sys2Proof.Machine.execVunpkp o s
  | .vscale o => Sys2Proof.Machine.execVscale o s
  | .vamax o => Sys2Proof.Machine.execVamax o s
  | .vrsum o => Sys2Proof.Machine.execVrsum o s
  | .vrmax o => Sys2Proof.Machine.execVrmax o s
  | .vperm o => Sys2Proof.Machine.execVperm o s
  | .vshuf o => Sys2Proof.Machine.execVshuf o s
  | .vbcast o => Sys2Proof.Machine.execVbcast o s
  | .vslide o => Sys2Proof.Machine.execVslide o s
  | .vscan o => Sys2Proof.Machine.execVscan o s
  | .vcomp o => Sys2Proof.Machine.execVcomp o s
  | .vsel o => Sys2Proof.Machine.execVsel o s
  | .mand o => Sys2Proof.Machine.execMand o s
  | .mpopc o => Sys2Proof.Machine.execMpopc o s
  | .many o => Sys2Proof.Machine.execMany o s
  | .acrd o => Sys2Proof.Machine.execAcrd o s
  | .acwr o => Sys2Proof.Machine.execAcwr o s
  | .acrdc o => Sys2Proof.Machine.execAcrdc o s
  | .tcqw o => Sys2Proof.Machine.execTcqw o s
  | .vmov o => Sys2Proof.Machine.execVmov o s
  | .vli o => Sys2Proof.Machine.execVli o s
  | .vcopyx o => Sys2Proof.Machine.execVcopyx o s
  | .vidx o => Sys2Proof.Machine.execVidx o s
  | .streamReadElement ctx k => Sys2Proof.Machine.execStreamReadElement ctx k s
  | .streamWriteElement ctx k => Sys2Proof.Machine.execStreamWriteElement ctx k s
  | .commandDockEntry seq => Sys2Proof.Machine.execCommandDockEntry seq s
  | .commandStart seq => Sys2Proof.Machine.execCommandStart seq s
  | .commandComplete seq => Sys2Proof.Machine.execCommandComplete seq s
  | .craneBeatCommit seq => Sys2Proof.Machine.execCraneBeatCommit seq s
  | .chaseCycleWalk seq => Sys2Proof.Machine.execChaseCycleWalk seq s
  | .haltWaitRelease seq => Sys2Proof.Machine.execHaltWaitRelease seq s
  | .globalFollowerUpdate tm remote => Sys2Proof.Machine.execGlobalFollowerUpdate tm remote s
  | .cp o => Sys2Proof.Machine.execCp o s
  | .cpmm o => Sys2Proof.Machine.execCpmm o s
  | .cpg o => Sys2Proof.Machine.execCpg o s
  | .cps o => Sys2Proof.Machine.execCps o s
  | .cpf o => Sys2Proof.Machine.execCpf o s
  | .cph o => Sys2Proof.Machine.execCph o s
  | .cpr o => Sys2Proof.Machine.execCpr o s
  | .cpt o => Sys2Proof.Machine.execCpt o s
  | .tmsetAdv o => Sys2Proof.Machine.execTmsetAdv o s
  | .tmsetAbandon o => Sys2Proof.Machine.execTmsetAbandon o s
  | .tmrst o => Sys2Proof.Machine.execTmrst o s
  | .tmglbPub o => Sys2Proof.Machine.execTmglbPub o s
  | .tmglbFol o => Sys2Proof.Machine.execTmglbFol o s
  | .tmglbUnb o => Sys2Proof.Machine.execTmglbUnb o s
  | .tmq o => Sys2Proof.Machine.execTmq o s
  | .tmqGlb o => Sys2Proof.Machine.execTmqGlb o s
  | .sbind o => Sys2Proof.Machine.execSbind o s
  | .sunb o => Sys2Proof.Machine.execSunb o s
  | .sidx o => Sys2Proof.Machine.execSidx o s
  | .mma o => Sys2Proof.Machine.execMma o s
  | .mmas o => Sys2Proof.Machine.execMmas o s
  | .mmaGroupStart seq => Sys2Proof.Machine.execMmaGroupStart seq s
  | .mmaKtileRetire seq => Sys2Proof.Machine.execMmaKtileRetire seq s
  | .acz o => Sys2Proof.Machine.execAcz o s
  | .epi o => Sys2Proof.Machine.execEpi o s
  | .epiBeatCommit seq => Sys2Proof.Machine.execEpiBeatCommit seq s
  | .pjld o => Sys2Proof.Machine.execPjld o s
  | .rteset o => Sys2Proof.Machine.execRteset o s
  | .rtesetClr o => Sys2Proof.Machine.execRtesetClr o s
  | .bthset o => Sys2Proof.Machine.execBthset o s
  | .bthsetRel o => Sys2Proof.Machine.execBthsetRel o s
  | .bthpop o => Sys2Proof.Machine.execBthpop o s
  | .tbld o => Sys2Proof.Machine.execTbld o s
  | .tlk o => Sys2Proof.Machine.execTlk o s
  | .tspl o => Sys2Proof.Machine.execTspl o s
  | .tfil o => Sys2Proof.Machine.execTfil o s
  | .tinv o => Sys2Proof.Machine.execTinv o s
  | .tstat o => Sys2Proof.Machine.execTstat o s
  | .pfxh o => Sys2Proof.Machine.execPfxh o s
  | .pfxm o => Sys2Proof.Machine.execPfxm o s
  | .pfxi o => Sys2Proof.Machine.execPfxi o s
  | .pgpin o => Sys2Proof.Machine.execPgpin o s
  | .pgunp o => Sys2Proof.Machine.execPgunp o s
  | .pgfork o => Sys2Proof.Machine.execPgfork o s
  | .pgmaskClr o => Sys2Proof.Machine.execPgmaskClr o s
  | .pgmaskSet o => Sys2Proof.Machine.execPgmaskSet o s
  | .pgmaskExport o => Sys2Proof.Machine.execPgmaskExport o s
  | .pgcmp o => Sys2Proof.Machine.execPgcmp o s
  | .pgalloc o => Sys2Proof.Machine.execPgalloc o s
  | .pgfree o => Sys2Proof.Machine.execPgfree o s
  | .pgfreeReclaim o => Sys2Proof.Machine.execPgfreeReclaim o s
  | .kvHomeStep quay seq => Sys2Proof.Machine.execKvHomeStep quay seq s
  | .cldef o => Sys2Proof.Machine.execCldef o s
  | .clgo o => Sys2Proof.Machine.execClgo o s
  | .clarm o => Sys2Proof.Machine.execClarm o s
  | .cldis o => Sys2Proof.Machine.execCldis o s
  | .mfpub o => Sys2Proof.Machine.execMfpub o s
  | .clstat o => Sys2Proof.Machine.execClstat o s
  | .clstatLink o => Sys2Proof.Machine.execClstatLink o s
  | .clcan o => Sys2Proof.Machine.execClcan o s
  | .clarmFiring bol => Sys2Proof.Machine.execClarmFiring bol s
  | .coderPacket slot => Sys2Proof.Machine.execCoderPacket slot s
  | .collectivePacketArrive p => Sys2Proof.Machine.execCollectivePacketArrive p s
  | .lighterDecode k => Sys2Proof.Machine.execLighterDecode k s
  | .nackArrive slot receiver id => Sys2Proof.Machine.execNackArrive slot receiver id s
  | .holdingsArrive slot src first count triples => Sys2Proof.Machine.execHoldingsArrive slot src first count triples s
  | .digestArrive slot src gen digest => Sys2Proof.Machine.execDigestArrive slot src gen digest s
  | .completionReportArrive slot src gen => Sys2Proof.Machine.execCompletionReportArrive slot src gen s
  | .cancelArrive slot src gen => Sys2Proof.Machine.execCancelArrive slot src gen s
  | .collectiveRefusal slot src gen => Sys2Proof.Machine.execCollectiveRefusal slot src gen s
  | .credit port => Sys2Proof.Machine.execCredit port s
  | .flitReceive port header payload => Sys2Proof.Machine.execFlitReceive port header payload s
  | .portStateChange port st lanes => Sys2Proof.Machine.execPortStateChange port st lanes s
  | .linkDown u => Sys2Proof.Machine.execLinkDown u s
  | .endToEndReplay k => Sys2Proof.Machine.execEndToEndReplay k s
  | .memoryReductionApply r => Sys2Proof.Machine.execMemoryReductionApply r s
  | .arrivalLanding l => Sys2Proof.Machine.execArrivalLanding l s
  | .arrivalHandlerStart k => Sys2Proof.Machine.execArrivalHandlerStart k s
  | .arrivalRefusalReturn r => Sys2Proof.Machine.execArrivalRefusalReturn r s
  | .spawn o => Sys2Proof.Machine.execSpawn o s
  | .depset o => Sys2Proof.Machine.execDepset o s
  | .depdec o => Sys2Proof.Machine.execDepdec o s
  | .depCounterApply k => Sys2Proof.Machine.execDepCounterApply k s
  | .futw o => Sys2Proof.Machine.execFutw o s
  | .futr o => Sys2Proof.Machine.execFutr o s
  | .futureOpApply k => Sys2Proof.Machine.execFutureOpApply k s
  | .launch o => Sys2Proof.Machine.execLaunch o s
  | .pilot o => Sys2Proof.Machine.execPilot o s
  | .pnext o => Sys2Proof.Machine.execPnext o s
  | .dqpush o => Sys2Proof.Machine.execDqpush o s
  | .queueTakeRecord q => Sys2Proof.Machine.execQueueTakeRecord q s
  | .crewPlace q ship crew => Sys2Proof.Machine.execCrewPlace q ship crew s
  | .crewRetire id => Sys2Proof.Machine.execCrewRetire id s
  | .crewEnd id => Sys2Proof.Machine.execCrewEnd id s
  | .crewPreempt id => Sys2Proof.Machine.execCrewPreempt id s
  | .crewRestore id => Sys2Proof.Machine.execCrewRestore id s
  | .recordPickup => Sys2Proof.Machine.execRecordPickup s
  | .quantumExpiry slice => Sys2Proof.Machine.execQuantumExpiry slice s
  | .energyWindow spent => Sys2Proof.Machine.execEnergyWindow spent s
  | .systemEndStrand ctx => Sys2Proof.Machine.execSystemEndStrand ctx s
  | .systemResumeStrand ctx => Sys2Proof.Machine.execSystemResumeStrand ctx s
  | .systemResumeCommand seq => Sys2Proof.Machine.execSystemResumeCommand seq s
  | .pagerBatchClose => Sys2Proof.Machine.execPagerBatchClose s
  | .pagerLogDeliver => Sys2Proof.Machine.execPagerLogDeliver s
  | .faultAnswerWrite v maps => Sys2Proof.Machine.execFaultAnswerWrite v maps s
  | .doorbellWrite g v => Sys2Proof.Machine.execDoorbellWrite g v s
  | .havenMaskWrite v => Sys2Proof.Machine.execHavenMaskWrite v s
  | .fwlenWrite v => Sys2Proof.Machine.execFwlenWrite v s
  | .firmwareCheck fetched => Sys2Proof.Machine.execFirmwareCheck fetched s
  | .functionReady f ok => Sys2Proof.Machine.execFunctionReady f ok s
  | .powerWake => Sys2Proof.Machine.execPowerWake s
  | .clampWrite v => Sys2Proof.Machine.execClampWrite v s
  | .bandThresholdWrite v => Sys2Proof.Machine.execBandThresholdWrite v s
  | .thermalSample t0 t1 => Sys2Proof.Machine.execThermalSample t0 t1 s
  | .clockStretch => Sys2Proof.Machine.execClockStretch s
  | .railUndervoltage => Sys2Proof.Machine.execRailUndervoltage s
  | .ucieModuleFail m => Sys2Proof.Machine.execUcieModuleFail m s
  | .attestReqWrite v => Sys2Proof.Machine.execAttestReqWrite v s
  | .attestReportDone => Sys2Proof.Machine.execAttestReportDone s
  | .bar0RegisterWrite off size v => Sys2Proof.Machine.execBar0RegisterWrite off size v s
  | .acknowledgementArrive a => Sys2Proof.Machine.execAcknowledgementArrive a s
  | .forkBlockSend slot => Sys2Proof.Machine.execForkBlockSend slot s
  | .localCopyWrite slot => Sys2Proof.Machine.execLocalCopyWrite slot s
  | .cxlMemAccess write addr data => Sys2Proof.Machine.execCxlMemAccess write addr data s
  | .poolEnable slice pool => Sys2Proof.Machine.execPoolEnable slice pool s
  | .recordCacheRefill d w => Sys2Proof.Machine.execRecordCacheRefill d w s

end Sys2Proof.Machine
end

