-- ==== Sys2Proof/Machine/Hazard.lean ====
section
/-! DEFINITION. When the operation at the head of a slot's queue may begin (R159 to R163): what it has to wait for in the other
slots' queues. The skew of the slots shows in no result: visibility is by bundle index (R116). -/

namespace Sys2Proof.Machine

open Sys2Proof

/-! ### Registers that operations read and write -/

/-- The condition register of a guard. -/
def guardRegs : Guard → List RegId
  | .always => []
  | .on _ n => [.q n]

/-- The registers that a source field may name. -/
def srcRegs (f : Fin 32 → RegId) : Src → List RegId
  | .reg r => [f r]
  | _ => []

/-- A context as an entry of its queues sees its register names. -/
def Context.atEntry (c : Context) (e : QEntry) : Context := { c with curBases := e.bases, bidx := e.idx }

/-- The registers that other slots may have written and an operation may read. -/
def Context.opReads (c : Context) (i : Instr) : List RegId :=
  match i.form with
  | .s _ o =>
    let f := c.sReg o.second
    let qs := match i with
      | .sel _ => (List.finRange 8).map RegId.q
      | _ => []
    guardRegs o.g ++ srcRegs f o.a ++ srcRegs f o.b ++ [f o.d] ++ qs
  | .m _ o =>
    guardRegs o.g ++ (List.range 4).map (fun n => .a (Fin.ofNat 16 (o.idx.val + n))) ++ [c.mReg o.cls o.reg, c.mReg o.cls (o.reg + 1)]
  | .v _ o =>
    let f := c.vName o.second
    guardRegs o.g ++ srcRegs f o.a ++ srcRegs f o.b ++ srcRegs f o.c ++ [f o.d, f (o.d + 1), c.vName (!o.second) o.d]
      ++ (List.finRange 8).map (maskReg o.second)
  | .b _ o =>
    guardRegs o.g ++ (List.finRange 8).map RegId.k ++ (List.finRange 8).map RegId.g
      ++ [c.xReg (Fin.ofNat 32 (field o.imm.toNat 0 5))]
  | .e _ _ | .event => []

/-- The registers that an operation may write. -/
def Context.opWrites (c : Context) (i : Instr) : List RegId :=
  match i.form with
  | .s _ o =>
    match i with
    | .copy _ => [c.copyDst o.sub o.d]
    | .cmp _ | .cmpi _ => [.q (Fin.ofNat 8 o.d.val)]
    | _ => [c.sReg o.second o.d]
  | .m _ o => [c.mReg o.cls o.reg]
  | .v _ o => match i with
    | .vcopyx _ => [c.vName (!o.second) o.d]
    | .many _ => [.q (Fin.ofNat 8 o.d.val)]
    | .vfcmp _ | .vicmp _ | .mand _ => [maskReg o.second (Fin.ofNat 8 o.d.val)]
    | _ => [c.vName o.second o.d, c.vName o.second (o.d + 1)]
  | _ => []

/-- What both V slots use in bundle order: an accumulator bank, a scale ring, the tile condition queue, a stream. -/
inductive Shared where
  | bank (b : Nat)
  | ring (r : Nat)
  | tcq
  | stream (k : Fin 8)
  deriving DecidableEq, Repr

/-- The streams that the register names of a V operation may denote. -/
def vStreams (i : Instr) (o : VOp) : List Shared :=
  let of := fun (second : Bool) (x : Src) => match x with
    | .reg r => (streamOf second r).toList
    | _ => []
  (of o.second o.a ++ of o.second o.b ++ of o.second o.c ++ (streamOf (dstSecond i o) o.d).toList).map Shared.stream

/-- What a V operation shares with the other V slot. -/
def vShares (i : Instr) : List Shared :=
  match i.form with
  | .v _ o => vStreams i o ++ match i with
    | .acrd _ | .acwr _ | .acrdc _ => [.bank o.func.val]
    | .vscale _ | .vamax _ => [.ring (o.imm.toNat % 64)]
    | .tcqw _ => [.tcq]
    | _ => []
  | _ => []

/-! ### Waiting for other slots -/

/-- Whether an instruction reads or writes a status register. -/
def isStatus : Instr → Bool
  | .stat _ | .statw _ => true
  | _ => false

def isB (i : Instr) : Bool :=
  match i.form with
  | .b _ _ => true
  | _ => false

def isWait : Instr → Bool
  | .headerWait _ _ => true
  | _ => false

def isBldrd : Instr → Bool
  | .bldrd _ => true
  | _ => false

/-- The instruction of a queue entry. -/
def QEntry.instr (e : QEntry) : Option Instr :=
  match e.what with
  | .event i => some i
  | .slot k w => slotInstr k w

/-- Whether the operation of an entry waits for that of another slot's entry: it reads what an earlier bundle's writes; a status
register is read and written when every earlier bundle has retired; B follows the status operations of its bundle; the V slots
take what they share in bundle and slot order; a header wait reads SEEN behind an earlier BLDRD. -/
def Context.dependsOn (c : Context) (e f : QEntry) : Bool :=
  match e.instr, f.instr with
  | some i, some j =>
    let earlier : Bool := decide (f.idx < e.idx)
    (earlier && (isStatus i || (isWait i && isBldrd j)
        || ((c.atEntry f).opWrites j).any ((c.atEntry e).opReads i).contains))
      || (isB i && isStatus j && decide (f.idx ≤ e.idx))
      || (f.ahead e && (vShares i).any (vShares j).contains)
  | _, _ => false

/-- Whether an entry's bundle is released into the queues: its header wait and REJOIN are done, in lock-step those of every
member (R89, R185). -/
def State.released (s : State) (e : QEntry) : Bool :=
  decide (e.idx < s.ctx.lastIdx) || (!s.ctx.queue.any QEntry.isFront && s.together.all fun q =>
    q == s.here || !(s.fusedCtx q).queue.any QEntry.isFront)

/-- Whether the realignment points ahead of an entry let its slot go on (R160): every slot named has retired every bundle before
the point. -/
def Context.realigned (c : Context) (e : QEntry) : Bool :=
  c.realigns.all fun r => decide (e.idx < r.1) || !r.2.getLsbD e.lane
    || !c.queue.any fun f => r.2.getLsbD f.lane && decide (f.idx < r.1)

/-- Whether an entry may begin in this cycle: it is the first of its slot, which has begun nothing yet in this cycle; its bundle is
released and stands less than 16 ahead (R159); a committing operation, a post and what follows them wait for everything earlier
(R163, R89); M operations wait for an outstanding TMW (R143). How far slots slip within these bounds is the model's (DEDUCED,
log 115). -/
def State.mayBegin (s : State) (e : QEntry) : Bool :=
  let c := s.ctx
  !c.ran.contains e.lane && (c.queue.find? fun f => f.lane == e.lane) == some e
    && (e.isFront || s.released e) && decide (e.idx < c.oldest + 16) && c.realigned e
    && (e.pos < 9 || !c.queue.any fun f => f.ahead e)
    && !(e.lane == slotNum .m && c.loads.any fun l => !l.lands)
    && !c.queue.any fun f => c.dependsOn e f

/-- The entry that begins next: the first in program order that may. -/
def State.candidate (s : State) : Option QEntry := s.ctx.queue.find? s.mayBegin

end Sys2Proof.Machine
end

