-- ==== Sys2Proof/Machine/Sched.lean ====
section
/-! DEFINITION. Which party moves: the move of a control core, the events that the parties of a quay can make, and the
order in which they move when the agenda lists no turn (log 4). -/

namespace Sys2Proof.Machine

open Sys2Proof

/-- An entry of the acting context's slot queues begins: it leaves its queue, its slot begins nothing more in this cycle, and its
instruction runs at the entry's bundle. -/
def runEntry (e : QEntry) (s : State) : Out :=
  let s := s.updCtx fun c =>
    { c with
      queue := c.queue.erase e, ran := e.lane :: c.ran
      bidx := e.idx, curPos := e.pos, curPc := e.pc, curLit := e.lit, curBases := e.bases }
  match e.instr with
  | some i => exec i s
  | none => .refused .undecodable

/-- Whether the acting context's crew is being restored: its contexts wait for the last act of the restore (R342). -/
def State.comingBack (s : State) : Bool := (s.ctx.crew.bind s.crew).any (·.restoring)

/-- The next bundle is fetched or dispatched; a cycle passes when that has to wait. -/
def frontStep (s : State) : Out :=
  let c := s.ctx
  if s.frontHeld then .next s.tick
  else match (if c.seqEnd then none else c.missingLine) with
    | some l => match exec (.codeFetch l) s with
      | .next t => if t.ctx.st == .active && t.ctx.pc == c.pc && t.ctx.missingLine == some l then .next t.tick else .next t
      | o => o
    | none =>
      if s.together.all fun q => State.bundleReady { s with here := q } then exec .bundleDispatch s else .next s.tick

/-- The move of the acting quay's control core: the watchdog, an asynchronous fault, the next operation of the slot queues that
may begin, or the fetch and dispatch of the next bundle; without an ACTIVE context the next READY one is made so. -/
def coreStep (s : State) : Out :=
  if s.ctx.st != .active then .next s.pickActive.tick
  else if s.comingBack then .next s.tick
  else
    let s := s.judgeNext
    if s.ctx.st != .active then .next s else
    let s := s.settleOldest
    let c := s.ctx
    if c.wdMax ≤ c.wdCount then exec .watchdog s
    else if !s.deciding && c.takesAsync then exec .asyncFaultTaken s
    else match s.candidate with
      | some e => runEntry e s
      | none => frontStep s

/-- Whether an instruction can be made as a turn: an event or an input, or a command the system context gives itself. -/
def turnInstr (system : Bool) (i : Instr) : Bool :=
  match i with
  | .tmsetAbandon _ | .pgfreeReclaim _ => system
  | _ => match i.form with
    | .event => true
    | _ => false

/-- Whether a message that the device itself has sent is on its fabric; what others send is an input. -/
def State.arrives (s : State) (i : Instr) : Bool :=
  match i with
  | .arrivalLanding l => l.srcDev != s.devId || s.wire.contains i
  | .memoryReductionApply r => r.dev != s.devId || s.wire.contains i
  | _ => true

/-- A message leaves the fabric as it arrives. -/
def State.takeWire (s : State) (i : Instr) : State := { s with wire := s.wire.erase i }

/-- A move that a party could make. -/
abbrev Move := State → Out

/-- Events of the contexts of the acting quay. -/
def ctxMoves (q : Quay) : List Move :=
  (List.finRange 8).flatMap fun c =>
    let x := q.ctx c
    (List.range x.loads.length).map (execLoadDataLand c) ++ (List.range x.xlates.length).map (execXlateResult c)
      ++ ((List.finRange 8).filter fun k => (x.streams.get k).bound).flatMap (fun k =>
        [execStreamWriteElement c k, execStreamReadElement c k])
      ++ (if x.st == .parked then [execPagerWaiterImageWrite c] else [])

/-- Events of the commands in the dock of the acting quay. -/
def dockMoves (here : Nat) (q : Quay) : List Move :=
  q.dock.flatMap fun d =>
    match d.phase with
    | .issued => [execCommandDockEntry d.seq]
    | .waiting => [execCommandStart d.seq, execCommandComplete d.seq, execChaseCycleWalk d.seq]
    | .running =>
      [execCraneBeatCommit d.seq, execMmaGroupStart d.seq, execMmaKtileRetire d.seq, execEpiBeatCommit d.seq
      , execKvHomeStep here d.seq, execCommandComplete d.seq, execChaseCycleWalk d.seq, execHaltWaitRelease d.seq]
    | _ => []

/-- The other events of the acting quay. -/
def quayMoves (q : Quay) : List Move :=
  let loads := (q.ctxs.toList.map fun c => c.loads.length).sum
  (List.range q.drained.length).map execStorePerform ++ (List.range q.arrivals.length).map execArrivalHandlerStart
    ++ ((List.finRange 64).filter fun t => (q.tms.get t).fol).map (fun t => execGlobalFollowerUpdate t none)
    ++ ((List.finRange 64).filter fun b => !(q.bols.get b).armed.isEmpty).map execClarmFiring
    ++ (List.range (q.unacked.length + loads)).map execEndToEndReplay ++ [execHeaderWaitHaltTimeout, execRecordPickup]

/-- Events of the collective engine. -/
def collMoves (s : State) : List Move :=
  ((List.finRange 64).filter fun n => (s.slots.get n).st == .active).flatMap (fun n =>
      [execLocalCopyWrite n, execForkBlockSend n, execCoderPacket n])
    ++ ((List.finRange 18).filter fun p => !(s.ports.get p).withheld.isEmpty).map execCredit
    ++ (List.range s.lighters.length).map execLighterDecode

/-- Events of the harbourmaster and the pager. -/
def serviceMoves (s : State) : List Move :=
  (List.range s.depOps.length).map execDepCounterApply ++ (List.range s.futOps.length).map execFutureOpApply
    ++ [execPagerBatchClose, execPagerLogDeliver, execEnergyWindow []]
    ++ ((List.finRange 64).filter fun q => (s.queues.get q).weight != 0).flatMap (fun q =>
        execQueueTakeRecord q :: ((s.queues.get q).shipments.filter Shipment.inWindow).flatMap fun x =>
          (List.range x.lr.ncrew).map (execCrewPlace q x.key))
    ++ s.crews.flatMap (fun c => [execCrewRetire c.id, execCrewPreempt c.id, execCrewRestore c.id])
    ++ (List.finRange 16).map execQuantumExpiry
    ++ (List.finRange 16).flatMap fun t =>
        ((List.finRange 4).filter fun p => (s.pool (poolNo t.val p.val)).threading).map (execPoolEnable t)

/-- The events that the parties could make now. -/
def State.moves (s : State) : List Move :=
  ctxMoves s.quay ++ dockMoves s.here s.quay ++ quayMoves s.quay ++ collMoves s ++ serviceMoves s

/-- The first move that changes the machine. -/
def firstEnabled (s : State) : List Move → Option Out
  | [] => none
  | f :: t =>
    match f s with
    | .next s' => if s' = s then firstEnabled s t else some (.next s')
    | o => some o

/-- The quay after the acting one among those in use. -/
def State.nextQuay (s : State) : Nat :=
  match s.quays.find? fun e => decide (s.here < e.1) with
  | some e => e.1
  | none => match s.quays with
    | e :: _ => e.1
    | [] => s.here

/-- What the acting quay does in the default order: the first event that changes anything, else its core moves; then the
next quay is the acting one. -/
def quayTurn (s : State) : Out :=
  let o := match firstEnabled s s.moves with
    | some o => o
    | none => coreStep s
  match o with
  | .next s => .next { s with here := s.nextQuay }
  | o => o

/-- The default order: at every other step the oldest message of the fabric arrives, else the acting quay has its turn. -/
def defaultStep (s : State) : Out :=
  match s.wire with
  | [] => quayTurn s
  | i :: rest => if s.refTime % 2 = 0 then exec i { s with wire := rest } else quayTurn s

end Sys2Proof.Machine
end

