-- ==== Sys2Proof/Machine/Step.lean ====
section
/-! DEFINITION. One step of the device: the first turn of the agenda, or without one the default order; and the placing of
an instruction where the next step runs it. -/

namespace Sys2Proof.Machine

open Sys2Proof

/-- Whether an input is the power request. -/
def isWake : Instr → Bool
  | .powerWake => true
  | _ => false

/-- A turn of the agenda. A device that is off makes none but the power request. -/
def turnStep (t : Turn) (s : State) : Out :=
  match t.deed, t.event with
  | some d, _ => if s.host.power then .next (d.act s) else .fault .deviceOff
  | none, none => if s.host.power then coreStep s else .fault .deviceOff
  | none, some i =>
    if !s.host.power && !isWake i then .fault .deviceOff
    else if turnInstr t.system i && s.arrives i then exec i (s.takeWire i)
    else .next s

/-- One step. A device that is off and has no turn stays as it is. -/
def step (s : State) : Host.Outcome State Fault Refusal :=
  let s := { s with refTime := s.refTime + 1, system := false }
  match s.agenda with
  | [] => if s.host.power then defaultStep s else .next s
  | t :: rest => turnStep t { s with agenda := rest, here := t.quay, system := t.system }

/-- A queue entry that holds a slot word as the only operation of the bundle at hand. -/
def Context.entryOf (c : Context) (k : Slot) (w : Nat) : QEntry :=
  { what := .slot k w, idx := c.bidx, pos := c.curPos, pc := c.curPc, lit := c.curLit, bases := c.curBases }

/-- The state with a slot word alone in the slot queues of the current context, which is ACTIVE and held back by nothing, and the
next turn that of its core. -/
def State.withFetchWord (s : State) (nbits w : Nat) : State :=
  let k := (slotOfWidth nbits w).getD .b
  let s := s.updCtx fun c =>
    { c with
      st := .active, wdCount := 0, asyncs := [], queue := [c.entryOf k w], lastIdx := c.bidx + 1, ran := []
      realigns := [], loads := c.loads.filter OLoad.lands }
  { s with
    agenda := [{ quay := s.here }], host := { s.host with power := true }
    crews := s.crews.map fun k => { k with restoring := false } }

end Sys2Proof.Machine
end

