-- ==== Sys2Proof/Safety.lean ====
section
/-! DEFINITION. What counts as a sound state: the invariant that every step keeps; and the words in which the statements
are made. -/

namespace Sys2Proof.Machine

/-- Memory and every scratchpad are in their canonical form. -/
def State.sound (s : State) : Bool :=
  Memory.wf s.mem && s.quays.all fun e => sparseWf memDefault e.2.sp

end Sys2Proof.Machine

namespace Sys2Proof.Claims

open Sys2Proof Sys2Proof.Machine

/-! ### S slots -/

/-- An S operation whose guard holds and whose source SA has a value. -/
def SReads1 (s : State) (o : SOp) (a : Word) : Prop := s.ctx.guardHolds (SOp.slot o) o.g = true ∧ s.ctx.sSrc o o.a = .ok a

/-- An S operation whose guard holds and whose two sources have values. -/
def SReads (s : State) (o : SOp) (a b : Word) : Prop := SReads1 s o a ∧ s.ctx.sSrc o o.b = .ok b

/-- Each instruction of a table ends with its value as the operation's result at its latency. -/
def SResults (s : State) (o : SOp) (t : List (Instr × Nat × Word)) : Prop :=
  ∀ r ∈ t, exec r.1 s = .next (s.setCtx (s.ctx.sResult o r.2.1 r.2.2))

/-- The carry-less product: the exclusive or of `a` shifted by every one bit of `b`. -/
def carryless (a b : Word) : Nat :=
  (List.range 64).foldl (fun n i => n ^^^ (if b.getLsbD i then a.toNat * 2 ^ i else 0)) 0

/-- How many of the top bits of a word are zero before its first one bit. -/
def IsLeadingZeros (a : Word) (n : Nat) : Prop :=
  n ≤ 64 ∧ (∀ i, i < n → a.getLsbD (63 - i) = false) ∧ (n < 64 → a.getLsbD (63 - n) = true)

/-- How many of the low bits of a word are zero before its first one bit. -/
def IsTrailingZeros (a : Word) (n : Nat) : Prop :=
  n ≤ 64 ∧ (∀ i, i < n → a.getLsbD i = false) ∧ (n < 64 → a.getLsbD n = true)

/-- The number of one bits of a word. -/
def oneBits (a : Word) : Nat := ((List.range 64).filter fun i => a.getLsbD i).length

/-- The conditions of R107 on two words, by their integers. -/
def Cond (n : Nat) (a b : Word) : Bool :=
  match n with
  | 0 => decide (a = b)
  | 1 => decide (a ≠ b)
  | 2 => decide (a.toInt < b.toInt)
  | 3 => decide (b.toInt ≤ a.toInt)
  | 4 => decide (a.toNat < b.toNat)
  | _ => decide (b.toNat ≤ a.toNat)

/-! ### M slot -/

/-- Whether an M operation's guard holds. -/
def MRuns (s : State) (o : MOp) : Prop := s.ctx.guardHolds .m o.g = true

/-- One access: its instruction, its bytes, its alignment, and the register's value from the bytes read as a number. -/
structure MForm where
  instr : Instr
  size : Nat
  align : Nat
  val : Nat → VWord

/-- A 64-bit value in each of the 32 lanes of 64 bits. -/
def IsLanes (a : Word) (v : VWord) : Prop := ∀ i, i < 32 → v.extractLsb' (64 * i) 64 = a

/-- The loads of R135, sign-extended and zero-extended, and the whole-vector load of R136. -/
def loadForms (o : MOp) : List MForm :=
  [⟨.ldB o, 1, 1, fun n => (BitVec.ofInt 64 (signedField 8 n)).setWidth 2048⟩, ⟨.ldBu o, 1, 1, fun n => BitVec.ofNat 2048 n⟩
  , ⟨.ldH o, 2, 2, fun n => (BitVec.ofInt 64 (signedField 16 n)).setWidth 2048⟩, ⟨.ldHu o, 2, 2, fun n => BitVec.ofNat 2048 n⟩
  , ⟨.ldW o, 4, 4, fun n => (BitVec.ofInt 64 (signedField 32 n)).setWidth 2048⟩, ⟨.ldWu o, 4, 4, fun n => BitVec.ofNat 2048 n⟩
  , ⟨.ldD o, 8, 8, fun n => BitVec.ofNat 2048 n⟩, ⟨.vld o, 256, 64, fun n => BitVec.ofNat 2048 n⟩
  , ⟨.vldb o, 8, 8, fun n => BitVec.ofNat 2048 ((List.range 32).map fun i => n * 2 ^ (64 * i)).sum⟩]

/-- The stores of R135 and R136: instruction, bytes, alignment. -/
def storeForms (o : MOp) : List (Instr × Nat × Nat) :=
  [(.stB o, 1, 1), (.stH o, 2, 2), (.stW o, 4, 4), (.stD o, 8, 8), (.vst o, 256, 64)]

/-- The register an M operation names. -/
def mDest (s : State) (o : MOp) : RegId := s.ctx.mReg o.cls o.reg

/-- What the M slot reads at some locations now: the bytes and the state with the lines it fetched. -/
def mSees (s : State) (ls : List Loc) : List Byte × State := s.nextAge.2.readOwn s.quay.cctx s.ages ls

/-- Two states hold the same byte at every address and every scratchpad offset of every quay. -/
def SameBytes (s t : State) : Prop :=
  (∀ a, t.readByte a = s.readByte a) ∧ ∀ n off, (t.quayAt n).spByte off = (s.quayAt n).spByte off

/-- A step changed the acting context only in what is listed: results under way, latches, loads, effects and collisions. -/
def OnlyResults (c c' : Context) : Prop :=
  c' = { c with pend := c'.pend, latches := c'.latches, loads := c'.loads, effects := c'.effects, cwcol := c'.cwcol }

/-- Every register but some reads the same in every slot at every bundle index. -/
def SameRegs (c c' : Context) (d : List RegId) : Prop :=
  ∀ k j r, r ∉ d → c'.readReg k j r = c.readReg k j r

/-- A packet of this device can leave for a device: it is another one, and the own trunk of the route is usable. -/
def Reaches (s : State) (dst : Nat) : Prop := (torusDir s.devId dst).isSome = true ∧ s.linkOk dst = true

/-- A message leaves for a device on the port of its route. -/
def Leaves (s t : State) (dst : Nat) (m : NetMsg) : Prop :=
  ∃ port seq, s.portOf s.devId dst seq = some port ∧ .packet port (netPacket m s.devId dst seq) ∈ t.outbox

/-- A message leaves as the device's next packet, and no other. -/
def LeavesNext (s t : State) (dst : Nat) (m : NetMsg) : Prop :=
  ∃ port, s.portOf s.devId dst s.packetSeq = some port
    ∧ t.outbox = s.outbox ++ [.packet port (netPacket m s.devId dst s.packetSeq)]

/-- The bytes that a list of cells leaves at a location: those of its last cell there, else the old byte. -/
def lastAt (cells : List (Loc × Byte)) (p : Loc → Bool) (old : Byte) : Byte :=
  match cells.reverse.find? fun c => p c.1 with
  | some c => c.2
  | none => old

/-- Whether a location is physical address `a` (R26). -/
def IsPhys (s : State) (a : Nat) : Loc → Bool
  | .phys p => s.normPhys p == s.normPhys a
  | .sp _ => false

/-- Whether a location is scratchpad offset `off`. -/
def IsSp (off : Nat) : Loc → Bool
  | .sp o => o == off
  | .phys _ => false

/-! ### V slots -/

/-- A V operation begins: its guard holds, its tag is set, and its operands are read. -/
def VReads (s : State) (i : Instr) (o : VOp) (keeps : Bool) (x : VIn) (dst : Option (Fin 8)) : Prop :=
  s.ctx.guardHolds (vSlot o) o.g = true ∧ s.tagReady o.tag = true ∧ s.vRead i o keeps = .ok (x, dst)

/-- Element `e` of `w` bits of a register. -/
def elem (w : Nat) (v : VWord) (e : Nat) : Nat := v.toNat / 2 ^ (w * e) % 2 ^ w

/-- The operation ends with a vector result at its latency, whose elements of `w` bits are those of `f`. -/
def VWrites (s : State) (i : Instr) (o : VOp) (dst : Option (Fin 8)) (lat w : Nat) (bytes : MaskWord) (fl : FpFlags)
    (f : Nat → Nat) : Prop :=
  ∃ r, exec i s = .next ((s.vResult o dst lat r bytes fl).vBegin i o) ∧ ∀ e, e < 2048 / w → elem w r e = f e % 2 ^ w

/-- The merge of R197: the result of an active element, else 0 under MZ, else the old element. -/
def merged (o : VOp) (x : VIn) (w e v : Nat) : Nat :=
  if x.m.getLsbD e then v else if o.mz then 0 else elem w x.old e

/-- The bytes an element-wise result writes to a stream (R200). -/
def activeBytes (o : VOp) (x : VIn) (w : Nat) (bytes : MaskWord) : Prop :=
  ∀ b, b < 256 → bytes.getLsbD b = (o.mz || x.m.getLsbD (b / (w / 8)))

/-- The flags of the active elements, together. -/
def activeFlags (x : VIn) (n : Nat) (f : Nat → FpFlags) : FpFlags :=
  (List.range n).foldl (fun g e => if x.m.getLsbD e then g ||| f e else g) 0

/-- The width of an operation's elements. -/
def vw (o : VOp) : Nat := 8 * o.ety.width

/-- Each element-wise integer operation of a table ends with the wrapped results of its function, at latency 2, no flag. -/
def VIntResults (s : State) (o : VOp) (t : List (Instr × (Nat → Nat → Nat → Int))) : Prop :=
  ∀ r ∈ t, ∀ x dst, VReads s r.1 o false x dst → ∃ bytes, activeBytes o x (vw o) bytes ∧
    VWrites s r.1 o dst 2 (vw o) bytes 0 fun e =>
      merged o x (vw o) e (r.2 (elem (vw o) x.a e) (elem (vw o) x.b e) (elem (vw o) x.c e) % 2 ^ vw o).toNat

/-- Each element-wise operation of a table ends with the results and flags of its function, at its latency. -/
def VElemResults (s : State) (o : VOp) (lat : Nat) (t : List (Instr × (VIn → Nat → Nat → Nat → Nat × FpFlags))) : Prop :=
  ∀ r ∈ t, ∀ x dst, VReads s r.1 o false x dst → ∃ bytes, activeBytes o x (vw o) bytes ∧
    VWrites s r.1 o dst lat (vw o) bytes
      (activeFlags x (2048 / vw o) fun e => (r.2 x (elem (vw o) x.a e) (elem (vw o) x.b e) (elem (vw o) x.c e)).2)
      fun e => merged o x (vw o) e (r.2 x (elem (vw o) x.a e) (elem (vw o) x.b e) (elem (vw o) x.c e)).1

/-- The signed value of `w` bits. -/
def sgn (w a : Nat) : Int := if a < 2 ^ (w - 1) then (a : Int) else (a : Int) - 2 ^ w

/-- An element's value, unsigned when FUNC is 1. -/
def valOf (o : VOp) (a : Nat) : Int := if o.func.val = 1 then (a : Int) else sgn (vw o) a

/-- Sat (R55) of an integer into the elements' range, with SAT when it changes. -/
def satOf (o : VOp) (i : Int) : Nat × FpFlags :=
  let lo : Int := if o.func.val = 1 then 0 else -2 ^ (vw o - 1)
  let hi : Int := if o.func.val = 1 then 2 ^ vw o - 1 else 2 ^ (vw o - 1) - 1
  let r := max lo (min hi i)
  ((r % 2 ^ vw o).toNat, if r = i then 0 else flSAT)

/-- How many bits of a `w`-bit number are one, and how many lead it before the first one. -/
def onesOf (w a : Nat) : Nat := ((List.range w).filter fun i => a.testBit i).length
def leadOf (w a : Nat) : Nat := ((List.range w).takeWhile fun i => !a.testBit (w - 1 - i)).length

/-- The carry-less product of two `w`-bit numbers. -/
def carrylessNat (w a b : Nat) : Nat := (List.range w).foldl (fun n i => n ^^^ (if b.testBit i then a * 2 ^ i else 0)) 0

/-- The elements of a list of `n`, by index. -/
def activeList (x : VIn) (w : Nat) : List Nat :=
  ((List.range (2048 / w)).filter fun e => x.m.getLsbD e).map fun e => elem w x.a e

/-- Rounds an exact value into the operation's format, with IV when the operation formed the NaN (R66). -/
def fpResult (o : VOp) (rm : RMode) (seed : BitVec 32) (r : Val) (ops : List Val) : Nat × FpFlags :=
  (((etyFmt o.ety).round rm seed none r).1, ((etyFmt o.ety).round rm seed none r).2 |||
    (if r.isNan && !ops.any Val.isNan then flIV else 0))

/-- The bit of a mask that an element of `L` has: masks repeat their first `L` bits (R196). -/
def IsMask (L : Nat) (m : MaskWord) (f : Nat → Bool) : Prop := ∀ b, b < 256 → m.getLsbD b = f (b % L)

/-! ### What an operation leaves alone -/

/-- The registers an S operation writes. -/
def sDests (c : Context) (i : Instr) (o : SOp) : List RegId :=
  match i with
  | .cmp _ | .cmpi _ => [.q (Fin.ofNat 8 o.d.val)]
  | .copy _ => [c.copyDst o.sub o.d]
  | .statw _ => []
  | _ => if o.nd then [] else [c.sReg o.second o.d]

/-- The registers an M operation that does not commit writes. -/
def mDests (c : Context) (i : Instr) (o : MOp) : List RegId :=
  match i with
  | .ldB _ | .ldBu _ | .ldH _ | .ldHu _ | .ldW _ | .ldWu _ | .ldD _ | .vld _ | .vlds _ | .vldb _ | .hstat _ | .bldrd _
  | .tmw _ => [c.mReg o.cls o.reg]
  | _ => []

/-- The registers a V operation writes. -/
def vDests (c : Context) (i : Instr) (o : VOp) : List RegId :=
  match i with
  | .vmacw _ => [c.vName o.second o.d, c.vName o.second (o.d + 1)]
  | .vfcmp _ | .vicmp _ | .mand _ => [maskReg o.second (Fin.ofNat 8 o.d.val)]
  | .many _ => [.q (Fin.ofNat 8 o.d.val)]
  | .vcopyx _ => [c.vName (!o.second) o.d]
  | .acwr _ | .vamax _ | .tcqw _ => []
  | _ => if o.nd then [] else [c.vName o.second o.d]

/-- Nothing outside the acting context differs but what is written in `t`: other contexts of the quay, its dock, its
engines' tables, other quays, jetties, the pager and what leaves the device are as before. -/
def SameElsewhere (s t : State) : Prop :=
  t.here = s.here ∧ t.quay.cctx = s.quay.cctx ∧ (∀ n, n ≠ s.quay.cctx → t.quay.ctx n = s.quay.ctx n)
  ∧ (∀ n, n ≠ s.here → (t.quayAt n).ctxs = (s.quayAt n).ctxs)
  ∧ t.quay.dock = s.quay.dock ∧ t.quay.tms = s.quay.tms ∧ t.quay.bols = s.quay.bols ∧ t.quay.banks = s.quay.banks
  ∧ t.quay.rings = s.quay.rings ∧ t.quay.dict = s.quay.dict ∧ t.quay.dictwin = s.quay.dictwin
  ∧ t.jetties = s.jetties ∧ t.pager = s.pager ∧ t.outbox = s.outbox ∧ t.wire = s.wire ∧ t.crews = s.crews

/-- The special registers of a context that only their own rules change. -/
def SameSpecials (c d : Context) : Prop :=
  d.fault = c.fault ∧ d.faultPc = c.faultPc ∧ d.faultVa = c.faultVa ∧ d.vecEn = c.vecEn ∧ d.vecPc = c.vecPc
  ∧ d.handler = c.handler ∧ d.wdlimit = c.wdlimit ∧ d.tcqskew = c.tcqskew ∧ d.fpflags = c.fpflags ∧ d.st = c.st

/-! ### E slot -/

/-- The commands that wait in the dock after their issue, with whether their encoding uses PA and PB (R106). -/
def queuedForms : List ((EOp → Instr) × Bool × Bool) :=
  [(.cp, false, false), (.cpg, true, false), (.cps, true, false), (.cpf, true, false), (.cph, true, true)
  , (.cpr, false, false), (.cpt, false, false), (.tmsetAdv, true, false), (.tmrst, false, false), (.tmglbPub, true, false)
  , (.tmglbFol, true, false), (.tmglbUnb, false, false), (.tmq, true, false), (.tmqGlb, true, true), (.sbind, false, false)
  , (.sunb, false, false), (.sidx, true, false), (.mma, true, false), (.mmas, true, true), (.acz, false, false)
  , (.epi, true, true), (.pjld, false, false), (.tbld, true, false), (.tlk, true, false), (.tspl, true, false)
  , (.tfil, true, false), (.tinv, false, false), (.pfxh, true, false), (.pfxm, true, false), (.pfxi, true, true)
  , (.pgpin, true, true), (.pgunp, true, true), (.pgfork, true, false), (.pgmaskClr, true, true)
  , (.pgmaskSet, true, true), (.pgmaskExport, true, true), (.pgcmp, true, false), (.pgalloc, true, true)
  , (.pgfree, true, true), (.cldef, true, false), (.clgo, false, false), (.mfpub, true, true), (.clstat, true, false)
  , (.clstatLink, true, false), (.clcan, false, false), (.spawn, true, true), (.depset, true, false)
  , (.depdec, true, false), (.futr, true, true), (.launch, true, false), (.pilot, true, false), (.pnext, true, false)
  , (.dqpush, true, true)]

/-- What an e field gives a command: its register's value where the command uses the field, else 0. -/
def EReads (s : State) (used : Bool) (n : Fin 16) (a : Word) : Prop :=
  if used then s.ctx.getWord .e (.e n) = .ok a else a = 0

/-- An E operation whose guard holds and whose operands are `a` and `b`. -/
def EOperands (s : State) (o : EOp) (pa pb : Bool) (a b : Word) : Prop :=
  s.ctx.guardHolds .e o.g = true ∧ EReads s pa o.pa a ∧ EReads s pb o.pb b

/-- Such an operation for which the dock has `room` free places and whose strand's stores can all perform (R402). -/
def EIssues (s : State) (o : EOp) (pa pb : Bool) (a b : Word) (room : Nat) : Prop :=
  EOperands s o pa pb a b ∧ s.quay.dockUsed + room ≤ 32 ∧ s.flushes = true

/-- A command as it stands in the dock after its issue (R22, R238). -/
def IsIssued (s : State) (i : Instr) (a b : Word) (d : DockEntry) : Prop :=
  d.seq = s.quay.nextSeq ∧ d.op = i ∧ d.owner = s.ctx.born ∧ d.ctx = s.quay.cctx ∧ d.pc = s.ctx.curPc ∧ d.pa = a
  ∧ d.pb = b ∧ d.seed = s.ctx.regs.srseed ∧ d.crew = s.ctx.crew ∧ d.slice = s.ctx.slice ∧ d.phase = .issued
  ∧ d.entered = false ∧ d.taken = false ∧ d.count = 0

/-- The number of the next command is no older one's. -/
def NewSeq (s : State) : Prop := ∀ d ∈ s.quay.dock, d.seq ≠ s.quay.nextSeq

/-- A committing operation's other effects: the acting context's stores have drained, and its next bundle is its mark. -/
def Committed (s t : State) : Prop :=
  t.ctx.gated = [] ∧ t.ctx.mark = s.ctx.pc ∧ t.ctx.pc = s.ctx.pc ∧ t.ctx.regs = s.ctx.regs ∧ t.ctx.queue = s.ctx.queue

/-- A command of the dock that stands first with its number. -/
def InDock (s : State) (n : Nat) (d : DockEntry) : Prop := s.cmd? n = some d ∧ d.seq = n

/-- A command that runs, of the operation with a number. -/
def Runs (s : State) (n : Nat) (d : DockEntry) : Prop := InDock s n d ∧ d.phase = .running

/-- A waiting command whose turn has come: entered, its records read, at the head of its claims, a unit and its place
free, none older of its engine before it. -/
def MayGo (s : State) (n : Nat) (d : DockEntry) : Prop := InDock s n d ∧ s.mayStart d = true ∧ s.olderFirst d = false

/-- The acting quay's dock without a command. -/
def LeftDock (s t : State) (n : Nat) : Prop := t.quay.dock = s.quay.dock.filter fun d => d.seq != n

/-- What the completion of a command at its issue leaves in its strand: its tag is set (R67). -/
def CompletedNow (s t : State) (o : EOp) : Prop :=
  t.quay.dock = s.quay.dock ∧ t.ctx.gated = [] ∧ t.ctx.mark = s.ctx.pc ∧ t.ctx.pc = s.ctx.pc
  ∧ t.ctx.regs = { s.ctx.regs with tags := if o.tag = 0 then s.ctx.regs.tags else s.ctx.regs.tags ||| BitVec.twoPow 16 o.tag.val }

/-- A command that its checks have halted at its issue, with a fault of its own (R237). -/
def HaltedNow (s t : State) (c : FaultCode) : Prop :=
  ∃ d, InDock t s.quay.nextSeq d ∧ d.phase = .halted ∧ d.fcode = c.code
    ∧ ∃ a, t.ctx.asyncs = s.ctx.asyncs ++ [a] ∧ a.code = c ∧ a.index.toNat = 0xFFFFFFFF ∧ a.pc = s.ctx.curPc

/-- The bytes of a record that the record cache holds for the acting strand's crew (R223, R228). -/
def Cached (s : State) (n : Nat) (r : Layout) : Prop :=
  ∃ e ∈ s.quay.rcache, (s.quay.rcache.find? fun x => x.1 == s.recordOff (s.newEntry .watchdog 0 0 0) n) = some e
    ∧ Layout.ofBits e.2 = r ∧ r.check = none

/-- The commands that CLARM attaches (R412), with whether they use PA and PB. -/
def armForms : List ((EOp → Instr) × Bool × Bool) :=
  [(.clgo, false, false), (.cp, false, false), (.cpt, false, false), (.cph, true, true), (.cpr, false, false), (.mfpub, true, true)]

/-- A command of a quay's dock. -/
def CmdAt (s : State) (q n : Nat) (d : DockEntry) : Prop := ({ s with here := q } : State).cmd? n = some d

/-- The integers of a row of an operand as the array multiplies them. -/
def rowOf (xs : List Int) : FedRow :=
  (xs.map fun x => Val.fin (decide (x < 0)) x.natAbs 0, xs.map fun x => Val.fin (decide (x < 0)) x.natAbs 0, 0)

/-- Sat32 of R55. -/
def clamp32 (x : Int) : Int := max (-(2 ^ 31)) (min (2 ^ 31 - 1) x)

/-- A device whose host port runs, whose firmware is accepted, and that is making no report. -/
def HostRuns (s : State) : Prop := s.host.ucie = true ∧ s.host.fwok = true ∧ s.host.busy = false

end Sys2Proof.Claims
end

