-- ==== Sys2Proof/WellFormed.lean ====
section
/-! DEFINITION. Which instructions are well formed: a slot operation that the decode checks of R101 let through, with
the constructor its OPC and FUNC name; an event whose unit numbers exist. -/

namespace Sys2Proof

/-- The unit numbers of an event or input: quays (R12), ports (R384), stacks, lanes and modules (R431). -/
def eventWf : Instr → Bool
  | .kvHomeStep q _ => q < 320
  | .portStateChange p _ lanes => p < 18 && lanes ≤ 4
  | .flitReceive p _ _ => p < 18
  | .functionReady (.quay n) _ => n < 320
  | .functionReady (.stack n) _ => n < 8
  | .functionReady (.port n lanes) _ => n < 18 && lanes ≤ 4
  | _ => true

/-- Whether an instruction is well formed. -/
def Instr.wf (i : Instr) : Bool :=
  match i.form with
  | .s opc o => match sRow opc with
    | some (shape, _) => !sIllegal shape o && !sReserved shape o && !sBank shape o
    | none => false
  | .m opc o => match mRow opc with
    | some (u, _) => !mIllegal u opc o && !mReserved u opc o
    | none => false
  | .v opc o => match vRow opc with
    | some (u, _) => !vIllegal u opc o && !vReserved u opc o && !vBank u o
    | none => false
  | .e opc o => match eRow opc o.func.toNat with
    | some (u, c) => c o == i && !eIllegal opc o && !eReserved u opc o
    | none => false
  | .b opc o => match bRow opc o.imm.toNat with
    | some (u, c) => c o == i && !bIllegal opc o && !bReserved u o
    | none => false
  | .event => eventWf i

end Sys2Proof
end

