-- ==== Sys2Proof/Certificates/Slice0/Obligations.lean ====
section
/-! DEFINITION. The statements about the model, one `def Obligations.<Name> : Prop` each. A title or docstring names the
rule of spec/ a statement formalises, or the log entry of the choice it rests on. -/

open Sys2Proof Sys2Proof.Machine Sys2Proof.Claims

/-! ### S slots -/

/-- R120, R117: the register-register operations, each by its effect on integers, at its latency. R120, R117: division
by a nonzero divisor: the quotient truncated toward zero, and the remainder it leaves. R122: the register-immediate
forms, IMM16 being `o.imm` below 2^16. R124 to R126: SEL by the q register it names, BEXT and BINS by their field, LI,
LIH and LIX by the bits they write. -/
def Obligations.ScalarResults : Prop :=
  (
    ∀ (s : State) (o : SOp) (a b : Word), SReads s o a b →
      SResults s o
        [(.add o, 1, BitVec.ofNat 64 (a.toNat + b.toNat))
        , (.sub o, 1, BitVec.ofInt 64 (a.toInt - b.toInt))
        , (.mul o, 3, BitVec.ofNat 64 (a.toNat * b.toNat))
        , (.mulh o, 3, BitVec.ofInt 64 (a.toInt * b.toInt / 2 ^ 64))
        , (.mulhu o, 3, BitVec.ofNat 64 (a.toNat * b.toNat / 2 ^ 64))
        , (.and o, 1, a &&& b), (.or o, 1, a ||| b), (.xor o, 1, a ^^^ b)
        , (.shl o, 1, BitVec.ofNat 64 (a.toNat * 2 ^ (b.toNat % 64)))
        , (.shr o, 1, BitVec.ofNat 64 (a.toNat / 2 ^ (b.toNat % 64)))
        , (.sha o, 1, BitVec.ofInt 64 (a.toInt / 2 ^ (b.toNat % 64)))
        , (.min o, 1, if a.toInt ≤ b.toInt then a else b), (.max o, 1, if a.toInt ≤ b.toInt then b else a)
        , (.minu o, 1, if a.toNat ≤ b.toNat then a else b), (.maxu o, 1, if a.toNat ≤ b.toNat then b else a)
        , (.clmul o, 2, BitVec.ofNat 64 (carryless a b)), (.clmulh o, 2, BitVec.ofNat 64 (carryless a b / 2 ^ 64))])
  ∧ (
    ∀ (s : State) (o : SOp) (a b : Word), SReads s o a b → b ≠ 0 →
      SResults s o
        [(.div o, 18, BitVec.ofInt 64 (a.toInt.tdiv b.toInt))
        , (.divu o, 18, BitVec.ofNat 64 (a.toNat / b.toNat))
        , (.rem o, 18, BitVec.ofInt 64 (a.toInt - b.toInt * a.toInt.tdiv b.toInt))
        , (.remu o, 18, BitVec.ofNat 64 (a.toNat - b.toNat * (a.toNat / b.toNat)))])
  ∧ (
    ∀ (s : State) (o : SOp) (a : Word), SReads1 s o a → o.imm.toNat < 2 ^ 16 →
      SResults s o
        [(.addi o, 1, BitVec.ofInt 64 (a.toInt + signedField 16 o.imm.toNat))
        , (.andi o, 1, a &&& BitVec.ofInt 64 (signedField 16 o.imm.toNat))
        , (.ori o, 1, a ||| BitVec.ofInt 64 (signedField 16 o.imm.toNat))
        , (.xori o, 1, a ^^^ BitVec.ofInt 64 (signedField 16 o.imm.toNat))
        , (.shli o, 1, BitVec.ofNat 64 (a.toNat * 2 ^ (o.imm.toNat % 64)))
        , (.shri o, 1, BitVec.ofNat 64 (a.toNat / 2 ^ (o.imm.toNat % 64)))
        , (.shai o, 1, BitVec.ofInt 64 (a.toInt / 2 ^ (o.imm.toNat % 64)))])
  ∧ (
    ∀ (s : State) (o : SOp) (a b d : Word), s.ctx.guardHolds (SOp.slot o) o.g = true →
      (SReads s o a b →
        SResults s o [(.sel o, 1, if (s.ctx.qBit (SOp.slot o) (Fin.ofNat 8 o.imm.toNat) ^^ o.imm.getLsbD 3) then a else b)])
      ∧ (SReads1 s o a → ∃ v, SResults s o [(.bext o, 1, v)] ∧
          ∀ i, i < 64 → v.getLsbD i = if i ≤ field o.imm.toNat 6 6 then a.getLsbD (field o.imm.toNat 0 6 + i)
            else o.imm.getLsbD 12 && a.getLsbD (field o.imm.toNat 0 6 + field o.imm.toNat 6 6))
      ∧ (SReads s o a b → ∃ v, SResults s o [(.bins o, 1, v)] ∧
          ∀ i, i < 64 → v.getLsbD i =
            if field o.imm.toNat 0 6 ≤ i ∧ i ≤ field o.imm.toNat 0 6 + field o.imm.toNat 6 6 then
              b.getLsbD (i - field o.imm.toNat 0 6) else a.getLsbD i)
      ∧ SResults s o [(.li o, 1, BitVec.ofInt 64 (o.imm.toInt))]
      ∧ (s.ctx.getWord (SOp.slot o) (s.ctx.sReg o.second o.d) = .ok d →
          (∃ v, SResults s o [(.lih o, 1, v)] ∧
            ∀ i, i < 64 → v.getLsbD i = if 22 ≤ i ∧ i < 44 then o.imm.getLsbD (i - 22) else d.getLsbD i)
          ∧ (∃ v, SResults s o [(.lix o, 1, v)] ∧
            ∀ i, i < 64 → v.getLsbD i = if 44 ≤ i then o.imm.getLsbD (i - 44) else d.getLsbD i)))

/-- R121: a division by zero and the one signed overflow have results, take no fault and raise no flag: the next state
is that of a result alone. -/
def Obligations.ScalarDivisionCorners : Prop :=
  ∀ (s : State) (o : SOp) (a : Word),
    (SReads s o a 0 →
      SResults s o [(.div o, 18, 0xFFFFFFFFFFFFFFFF), (.divu o, 18, 0xFFFFFFFFFFFFFFFF), (.rem o, 18, a), (.remu o, 18, a)])
    ∧ (SReads s o (BitVec.ofInt 64 (-2 ^ 63)) (BitVec.ofInt 64 (-1)) →
        SResults s o [(.div o, 18, BitVec.ofInt 64 (-2 ^ 63)), (.rem o, 18, 0)])
    ∧ (s.ctx.sResult o 18 a).fpflags = s.ctx.fpflags ∧ (s.ctx.sResult o 18 a).fault = s.ctx.fault
    ∧ (s.ctx.sResult o 18 a).st = s.ctx.st

/-- R123: CLZ, CTZ and POPC, whose SB and IMM16 are zero, count leading zeros, trailing zeros and ones; of zero the
first two give 64. -/
def Obligations.ScalarBitCounts : Prop :=
  ∀ (s : State) (o : SOp) (a : Word),
    ((Instr.clz o).form = .s 0x25 o ∧ (Instr.ctz o).form = .s 0x26 o ∧ (Instr.popc o).form = .s 0x27 o)
    ∧ ((Instr.clz o).wf = true ∨ (Instr.ctz o).wf = true ∨ (Instr.popc o).wf = true →
        o.b = .reg 0 ∧ o.imm = 0 ∧ o.sub = 0)
    ∧ (SReads1 s o a →
      (∀ n, IsLeadingZeros a n → SResults s o [(.clz o, 1, BitVec.ofNat 64 n)])
      ∧ (∀ n, IsTrailingZeros a n → SResults s o [(.ctz o, 1, BitVec.ofNat 64 n)])
      ∧ SResults s o [(.popc o, 1, BitVec.ofNat 64 (oneBits a))]
      ∧ (a = 0 → SResults s o [(.clz o, 1, 64), (.ctz o, 1, 64)])
      ∧ (∃ n, IsLeadingZeros a n) ∧ (∃ n, IsTrailingZeros a n))

/-- R127: CMP and CMPI put the condition into q[n] at latency 1 and fill no latch. R128: COPY writes the file its code
names, in every 64-bit lane of a vector register, and fills the latch only in the slot's own file. R129 to R131, R81,
R82, R160, R191: STAT reads a register at its execution, each read-only register from the state it names (who and
where the quay is, its cycle, the bases, the fault registers, the constants of the device); STATW writes one two
bundles later, ST_DICTWIN and ST_DICTSEL one later; RW fields take the value, W1C fields lose the bits written as one,
RO fields ignore it. -/
def Obligations.ScalarComparesCopiesStatus : Prop :=
  (
    ∀ (s : State) (o : SOp) (a b : Word),
      (SReads s o a b → o.sub.val ≤ 5 →
        exec (.cmp o) s = .next (s.setCtx (s.ctx.put (SOp.slot o) (.q (Fin.ofNat 8 o.d.val)) 1
          (if Cond o.sub.val a b then 1 else 0))))
      ∧ (SReads1 s o a → o.sub.val ≤ 5 →
          exec (.cmpi o) s = .next (s.setCtx (s.ctx.put (SOp.slot o) (.q (Fin.ofNat 8 o.d.val)) 1
            (if Cond o.sub.val a (BitVec.ofInt 64 (signedField 16 o.imm.toNat)) then 1 else 0))))
      ∧ (s.ctx.put (SOp.slot o) (.q (Fin.ofNat 8 o.d.val)) 1 0).latches = s.ctx.latches)
  ∧ (
    ∀ (s : State) (o : SOp) (a : Word), SReads1 s o a → o.sub.val ≤ 5 →
      ∃ (r : RegId) (v : VWord),
        r = (match o.sub.val with
          | 0 => s.ctx.xReg o.d
          | 1 => s.ctx.yReg o.d
          | 2 => .a (Fin.ofNat 16 o.d.val)
          | 3 => .e (Fin.ofNat 16 o.d.val)
          | 4 => s.ctx.vReg o.d
          | _ => s.ctx.wReg o.d)
        ∧ (o.sub.val < 4 → v = a.setWidth 2048)
        ∧ (4 ≤ o.sub.val → ∀ i, i < 32 → v.extractLsb' (64 * i) 64 = a)
        ∧ exec (.copy o) s = .next (s.setCtx (
            if (o.sub.val = 0 ∧ o.second = false) ∨ (o.sub.val = 1 ∧ o.second = true) then
              (s.ctx.put (SOp.slot o) r 1 v).fillLatch (SOp.slot o) 1 v
            else s.ctx.put (SOp.slot o) r 1 v)))
  ∧ (
    ∀ (s : State) (o : SOp) (a : Word),
      (s.ctx.guardHolds (SOp.slot o) o.g = true →
        SResults s o [(.stat o, 1, s.statRead (field o.imm.toNat 0 12))])
      ∧ (SReads1 s o a → exec (.statw o) s = .next (s.setCtx (s.ctx.later
          (if field o.imm.toNat 0 12 = 0x060 ∨ field o.imm.toNat 0 12 = 0x061 then s.ctx.bidx + 1 else s.ctx.bidx + 2)
          (.statw (field o.imm.toNat 0 12) a))))
      ∧ ((statWrite 0x010 a s).statRead 0x010 = (a.setWidth 32).setWidth 64)
      ∧ ((statWrite 0x012 a s).statRead 0x012 = (a.setWidth 4).setWidth 64)
      ∧ ((statWrite 0x020 a s).statRead 0x020 = (a.setWidth 32).setWidth 64)
      ∧ ((statWrite 0x021 a s).statRead 0x021 = s.statRead 0x021 &&& ~~~((a.setWidth 5).setWidth 64))
      ∧ ((statWrite 0x033 a s).statRead 0x033 = (a.setWidth 33).setWidth 64)
      ∧ ((statWrite 0x041 a s).statRead 0x041 = s.statRead 0x041 &&& ~~~((a.setWidth 7).setWidth 64))
      ∧ ((statWrite 0x060 a s).statRead 0x060 = a)
      ∧ ((statWrite 0x061 a s).statRead 0x061 = (a.setWidth 2).setWidth 64)
      ∧ (s.here < 320 → ∀ w, w = s.statRead 0x001 →
          (w.extractLsb' 0 9).toNat = s.here ∧ (w.extractLsb' 15 1).toNat = s.here / 160
          ∧ (w.extractLsb' 16 6).toNat = s.here % 160 / 4 ∧ (w.extractLsb' 22 2).toNat = s.here % 4
          ∧ (w.extractLsb' 24 6).toNat = s.devId % 64 ∧ w.extractLsb' 9 6 = 0 ∧ w.extractLsb' 30 34 = 0)
      ∧ (∀ w, w = s.statRead 0x002 →
          (w.extractLsb' 0 3).toNat = s.quay.cctx.val ∧ w.getLsbD 3 = s.ctx.handler ∧ w.extractLsb' 4 60 = 0)
      ∧ s.statRead 0x003 = s.quay.cycle
      ∧ (∀ w, w = s.statRead 0x011 →
          w.extractLsb' 0 4 = s.ctx.regs.bases.x ∧ w.extractLsb' 4 4 = s.ctx.regs.bases.y
          ∧ w.extractLsb' 8 4 = s.ctx.regs.bases.v ∧ w.extractLsb' 12 4 = s.ctx.regs.bases.w ∧ w.extractLsb' 16 48 = 0)
      ∧ s.statRead 0x030 = s.ctx.fault.setWidth 64 ∧ s.statRead 0x031 = s.ctx.faultPc.setWidth 64
      ∧ s.statRead 0x032 = s.ctx.faultVa ∧ s.statRead 0x040 = s.ctx.wdlimit.setWidth 64
      ∧ (∀ w, w = s.statRead 0x050 →
          w.getLsbD 0 = s.ctx.det ∧ (w.getLsbD 1 = true ↔ ∃ k ∈ s.crews, some k.id = s.ctx.crew ∧ k.late = true)
          ∧ w.extractLsb' 2 10 = 0 ∧ w.extractLsb' 12 12 = 1120 ∧ w.extractLsb' 24 12 = 2400 ∧ w.extractLsb' 36 12 = 1800
          ∧ w.extractLsb' 48 16 = 0)
      ∧ (∀ w, w = s.statRead 0x070 →
          w.extractLsb' 0 8 = 1 ∧ w.extractLsb' 8 8 = 0 ∧ w.extractLsb' 16 16 = 339 ∧ w.extractLsb' 32 16 = 65
          ∧ w.extractLsb' 48 16 = 292)
      ∧ (∀ n ∈ [0x001, 0x002, 0x003, 0x011, 0x030, 0x031, 0x032, 0x040, 0x050, 0x070], statWrite n a s = s))

/-! ### M slot -/

/-- R132, R135, R136, R117: a load through scratchpad reads its bytes, the context's own earlier stores included
(R30), and its value lands four bundles later. R135, R136, R162: a load through a handle becomes outstanding, with its
bytes and its bundle, when fewer than 16 are and none reads one of its lines; with 16 outstanding it waits. It reads
its bytes when it lands (log 8). -/
def Obligations.LoadsRead : Prop :=
  (
    ∀ (s : State) (o : MOp) (off : Int) (ls : List Loc), MRuns s o → o.sp = true →
      s.ctx.mOff o (BitVec.ofInt 64 (signedField 16 o.imm.toNat)) = .ok off →
      ∀ f ∈ loadForms o, s.mLocs o off f.size f.align true false = .ok ls →
        exec f.instr s = .next ((mSees s ls).2.updCtx fun c => c.put .m (mDest s o) 4 (f.val (ofLeBytes (mSees s ls).1))))
  ∧ (
    ∀ (s : State) (o : MOp) (off : Int) (ls : List Loc), MRuns s o → o.sp = false →
      s.ctx.mOff o (BitVec.ofInt 64 (signedField 16 o.imm.toNat)) = .ok off →
      ∀ f ∈ loadForms o, s.mLocs o off f.size f.align true false = .ok ls →
        ((s.ctx.loads.filter fun l => l.counted).length < 16 → s.ctx.lineBusy ls = false →
          ∃ t l, exec f.instr s = .next t ∧ t.ctx.loads = s.ctx.loads ++ [l]
            ∧ l.reg = mDest s o ∧ l.locs = ls ∧ l.bidx = s.ctx.bidx ∧ l.counted = true
            ∧ (∀ bs, bs.length = f.size → l.form.read bs = f.val (ofLeBytes bs))
            ∧ t.ctx.regs = s.ctx.regs ∧ t.ctx.pend = s.ctx.pend ∧ SameBytes s t)
        ∧ (16 ≤ (s.ctx.loads.filter fun l => l.counted).length → exec f.instr s = stall f.instr s))

/-- R136, R162: VLDS and VSTS check their elements in order; VLDS reads element e of its register at off + e × stride,
at once through scratchpad and as an outstanding load through a handle, VSTS keeps the bytes of element e for that
place, in either. R135, R162, R338: an outstanding load lands with the value its form gives to the bytes it reads in
that step (log 8), visible to every slot from the oldest bundle not retired on, at the earliest the one after its own;
one whose register a native write of its bundle took lands without a value (R14); in a rolled-back context it lands at
once (R167); before its floor in deterministic mode it does not land. -/
def Obligations.StridedAccessesAndLandings : Prop :=
  (
    ∀ (s : State) (o : MOp) (off : Int) (ls : List Loc) (v : VWord) (n : Nat), MRuns s o →
      s.ctx.mOff o 0 = .ok off → n = 2 ^ field o.imm.toNat 14 2 →
      (s.mElems o n true false ((List.range (256 / n)).map fun (e : Nat) => off + (e : Int) * signedField 14 (o.imm.toNat % 2 ^ 14))
          = .ok ls →
        (o.sp = true → exec (.vlds o) s = .next ((mSees s ls).2.updCtx fun c =>
          c.put .m (mDest s o) 4 (BitVec.ofNat 2048 (ofLeBytes (mSees s ls).1))))
        ∧ (o.sp = false → (s.ctx.loads.filter fun l => l.counted).length < 16 → s.ctx.lineBusy ls = false →
            ∃ t l, exec (.vlds o) s = .next t ∧ t.ctx.loads = s.ctx.loads ++ [l]
              ∧ l.reg = mDest s o ∧ l.locs = ls ∧ l.bidx = s.ctx.bidx ∧ l.counted = true
              ∧ (∀ bs, l.form.read bs = BitVec.ofNat 2048 (ofLeBytes bs))
              ∧ t.ctx.regs = s.ctx.regs ∧ t.ctx.pend = s.ctx.pend ∧ SameBytes s t))
      ∧ (s.mVal o = .ok v → s.ctx.loads = [] → s.ctx.gated.length < 64 →
          s.mElems o n false true ((List.range (256 / n)).map fun (e : Nat) => off + (e : Int) * signedField 14 (o.imm.toNat % 2 ^ 14))
            = .ok ls →
          ∃ t g, exec (.vsts o) s = .next t ∧ t.ctx.gated = s.ctx.gated ++ [g]
            ∧ g.kind = .bytes (ls.zip (leBytes 256 v.toNat)) ∧ SameBytes s t))
  ∧ (
    ∀ (s : State) (n : Fin 8) (k : Nat) (l : OLoad) (c : Context), c = s.quay.ctx n → c.loads[k]? = some l →
      (∀ q t i, l.form ≠ .tm q t i) →
      (s.early c.crew l.floor l.sentAt = true → exec (.loadDataLand n k) s = .next s)
      ∧ (s.early c.crew l.floor l.sentAt = false → ∃ t v, exec (.loadDataLand n k) s = .next t
          ∧ v = l.form.read (match l.form with
              | .value _ => []
              | _ => (s.readOwn n l.age l.locs).1)
          ∧ (t.quay.ctx n).loads = listErase c.loads k
          ∧ (l.discard = true → (t.quay.ctx n).pend = c.pend)
          ∧ (l.discard = false → c.st = .parked ∨ c.st = .faulted →
              (t.quay.ctx n).regs = (c.writeReg l.reg v).regs ∧ (t.quay.ctx n).pend = c.pend)
          ∧ (l.discard = false → c.st ≠ .parked → c.st ≠ .faulted → (∀ w ∈ c.pend, w.reg ≠ l.reg) →
              ∀ slot j, c.oldest ≤ j → l.bidx < j → (t.quay.ctx n).readReg slot j l.reg = v)
          ∧ (∀ r, r ≠ l.reg → ∀ slot j, (t.quay.ctx n).readReg slot j r = c.readReg slot j r)
          ∧ SameBytes s t))

/-- R32, R135, R136, R164: a store is gated with the bytes of its register; it waits behind the strand's outstanding
loads (log 8), and nothing in memory or scratchpad changes yet. The 65th drains the 64 before it and makes its own
bundle the mark. R138: RED and VRED are gated with their operation, the type of their elements and their values; they
change nothing yet. R145, R16, R17: SENDH is gated as a landing at its receiver: 256 bytes at the offset, the handler
and x3 to x5. -/
def Obligations.StoresAreGated : Prop :=
  (
    ∀ (s : State) (o : MOp) (off : Int) (v : VWord) (ls : List Loc), MRuns s o →
      s.ctx.mOff o (BitVec.ofInt 64 (signedField 16 o.imm.toNat)) = .ok off → s.mVal o = .ok v →
      ∀ f ∈ storeForms o, s.mLocs o off f.2.1 f.2.2 false true = .ok ls →
        (s.ctx.loads ≠ [] → exec f.1 s = stall f.1 s)
        ∧ (s.ctx.loads = [] → s.ctx.gated.length < 64 →
            ∃ t g, exec f.1 s = .next t ∧ t.ctx.gated = s.ctx.gated ++ [g]
              ∧ g.kind = .bytes (ls.zip (leBytes f.2.1 v.toNat)) ∧ g.bidx = s.ctx.bidx ∧ g.ctx = s.quay.cctx
              ∧ t.ctx.regs = s.ctx.regs ∧ t.ctx.pend = s.ctx.pend ∧ t.quay.drained = s.quay.drained ∧ SameBytes s t)
        ∧ (s.ctx.loads = [] → 64 ≤ s.ctx.gated.length →
            ∃ t g, exec f.1 s = .next t ∧ t.ctx.gated = [g]
              ∧ g.kind = .bytes (ls.zip (leBytes f.2.1 v.toNat)) ∧ g.bidx = s.ctx.bidx
              ∧ t.quay.drained = s.quay.drained ++ s.ctx.gated ∧ t.ctx.mark = s.ctx.curPc ∧ t.ctx.markIdx = s.ctx.bidx
              ∧ t.ctx.shadow = s.ctx.entry ∧ t.ctx.regs = s.ctx.regs ∧ SameBytes s t))
  ∧ (
    ∀ (s : State) (o : MOp) (off : Int) (v : VWord) (l : Loc) (ls : List Loc) (op : RedOp), MRuns s o →
      s.ctx.mOff o (BitVec.ofNat 64 (o.imm.toNat % 4096)) = .ok off → s.mVal o = .ok v → s.ctx.loads = [] →
      s.ctx.gated.length < 64 → op = redOp (field o.imm.toNat 12 4) →
      (s.mLocs o off (if op = .fadd then 4 else 8) (if op = .fadd then 4 else 8) false true = .ok (l :: ls) →
        ∃ t g, exec (.red o) s = .next t ∧ t.ctx.gated = s.ctx.gated ++ [g] ∧ SameBytes s t
          ∧ g.kind = .reduce op (if op = .fadd then .f32 else .u64)
              [(l, BitVec.ofNat 64 (v.toNat % 2 ^ (if op = .fadd then 32 else 64)))])
      ∧ (s.mLocs o off 256 64 false true = .ok ls →
        ∃ t g es, exec (.vred o) s = .next t ∧ t.ctx.gated = s.ctx.gated ++ [g] ∧ SameBytes s t
          ∧ g.kind = .reduce op (if op = .fadd then .f32 else .sat32) es
          ∧ ∀ e, e < 64 → ∀ l, ls[4 * e]? = some l → es[e]? = some (l, BitVec.ofNat 64 (field v.toNat (32 * e) 32))))
  ∧ (
    ∀ (s : State) (o : MOp) (w pc x3 x4 : Word) (v : VWord), MRuns s o →
      s.ctx.getWord .m (.a o.idx) = .ok w → s.ctx.getWord .m (.a (o.idx + 1)) = .ok pc →
      s.ctx.getWord .m (.a (o.idx + 2)) = .ok x3 → s.ctx.getWord .m (.a (o.idx + 3)) = .ok x4 → s.mVal o = .ok v →
      s.landingCheck s.ctx.slice w 256 = none → s.linkOk (field w.toNat 0 6) = true → s.ctx.loads = [] →
      s.ctx.gated.length < 64 →
      ∃ t g l, exec (.sendh o) s = .next t ∧ t.ctx.gated = s.ctx.gated ++ [g] ∧ SameBytes s t
        ∧ g.kind = .sendh l (field w.toNat 0 6) ∧ l.quay = field w.toNat 6 9 ∧ l.addr = field w.toNat 16 22
        ∧ l.bytes = 256 ∧ l.handler = some (field pc.toNat 0 32) ∧ l.x3 = x3 ∧ l.x4 = x4
        ∧ l.x5 = BitVec.ofNat 64 o.imm.toNat
        ∧ ∀ i : Nat, i < 256 → l.cells[i]? = some ((i : Int), BitVec.ofNat 8 (v.toNat / 2 ^ (8 * i))))

/-- R31, R33: a drained store that may perform writes its bytes at its home, the last one standing at a place written
twice, and changes no other byte of memory and none of scratchpad but its own; one whose route is unusable writes none
(R385). -/
def Obligations.StorePerformsItsBytes : Prop :=
  ∀ (s : State) (k : Nat) (g : GStore) (cells : List (Loc × Byte)), s.quay.drained[k]? = some g → g.kind = .bytes cells →
    s.mayPerform g = true → s.sound = true →
    ((s.storePeers g).all s.linkOk = true → ∃ t, exec (.storePerform k) s = .next t
      ∧ t.quay.drained = listErase s.quay.drained k
      ∧ (∀ a, t.readByte a = lastAt cells (IsPhys s a) (s.readByte a))
      ∧ (∀ off, t.quay.spByte off = lastAt cells (IsSp off) (s.quay.spByte off))
      ∧ (∀ n, n ≠ s.here → ∀ off, (t.quayAt n).spByte off = (s.quayAt n).spByte off)
      ∧ t.quay.ctxs = s.quay.ctxs ∧ t.jetties = s.jetties ∧ t.wire = s.wire
      ∧ (s.storePeers g = [] → t.outbox = s.outbox))
    ∧ ((s.storePeers g).all s.linkOk = false → ∃ t, exec (.storePerform k) s = .next t ∧ SameBytes s t)

/-- R132: the checks of an access through a handle, first failure first, and the address when all pass. R132, R438:
the checks of a scratchpad access against the context's range, and a fault of a check taken at the bundle's pc with
nothing else done. R133, R134: XLATE records its translation; after 32 cycles its result makes the handle valid with
its mapping, pending with a ticket, the pager's next number (log 28), or neither; HREL clears it and HSTAT reads its
word four bundles later. -/
def Obligations.AccessChecksAndHandles : Prop :=
  (
    ∀ (s : State) (hd : Fin 16) (h : Handle) (off : Int) (size align : Nat) (rd wr : Bool) (va : Word),
      h = s.ctx.regs.h.get hd → va = BitVec.ofInt 64 (h.vpage + off) →
      let bad := s.handleAddr hd off size align rd wr
      let fits : Prop := 0 ≤ off ∧ off + size ≤ pageBytes h.size
      let allowed : Prop := (rd = true → h.r = true) ∧ (wr = true → h.w = true)
      (h.valid = false → h.pend = false → h.page = false → bad = .error (.fault .handleInvalid (some h.lastVa)))
      ∧ (h.valid = false → h.pend = false → h.page = true →
          bad = .error (.handle .handleInvalid va (if wr then 2 else 1) (pageOf h.vpage) (some hd)))
      ∧ (h.pend = true → bad = .error (.handle .handlePending va (if wr then 2 else 1) (pageOf h.vpage) (some hd)))
      ∧ (h.valid = true → h.pend = false → ¬ fits → bad = .error (.fault .handleRange (some va)))
      ∧ (h.valid = true → h.pend = false → fits → ¬ allowed → bad = .error (.fault .permission (some va)))
      ∧ (h.valid = true → h.pend = false → fits → allowed → off.toNat % align ≠ 0 → bad = .error (.fault .misaligned (some va)))
      ∧ (h.valid = true → h.pend = false → fits → allowed → off.toNat % align = 0 →
          ∀ e, s.memType (h.pbase + off.toNat) = .error e → bad = .error (.fault e (some va)))
      ∧ (h.valid = true → h.pend = false → fits → allowed → off.toNat % align = 0 →
          s.memType (h.pbase + off.toNat) = .ok .peer ∨ s.memType (h.pbase + off.toNat) = .ok .host
            ∨ (s.memType (h.pbase + off.toNat) = .ok .hbm ∧ s.host.hbmFail = 0 ∧ s.host.hbmReady = 0xFF) →
          bad = .ok (s.normPhys (h.pbase + off.toNat))))
  ∧ (
    ∀ (s : State) (o : MOp) (off : Int), MRuns s o → o.sp = true →
      s.ctx.mOff o (BitVec.ofInt 64 (signedField 16 o.imm.toNat)) = .ok off →
      ∀ f ∈ loadForms o,
        ((off < 0 ∨ (min s.ctx.spSize 0x300000 : Nat) < off + f.size) →
          exec f.instr s = .next (s.slotFault .m .scratchRange (some (BitVec.ofInt 64 off))))
        ∧ (0 ≤ off → off + f.size ≤ (min s.ctx.spSize 0x300000 : Nat) → off.toNat % f.align ≠ 0 →
            exec f.instr s = .next (s.slotFault .m .misaligned (some (BitVec.ofInt 64 off))))
        ∧ (0 ≤ off → off + f.size ≤ (min s.ctx.spSize 0x300000 : Nat) → off.toNat % f.align = 0 →
            ∃ ls, s.mLocs o off f.size f.align true false = .ok ls ∧ ls.length = f.size
              ∧ ∀ i, i < f.size → ls[i]? = some (.sp (spStore s.ctx.spBase (o.base.val == 1) (off.toNat + i)))))
  ∧ (
    ∀ (s : State) (o : MOp), MRuns s o →
      (∀ a, s.ctx.getWord .m (.a o.idx) = .ok a →
        exec (.xlate o) s = .next (s.setCtx { s.ctx with
          xlates := s.ctx.xlates ++ [⟨Fin.ofNat 16 o.reg.val, a + BitVec.ofInt 64 (signedField 16 o.imm.toNat), s.ctx.bidx,
            s.quay.cycle.toNat⟩] }))
      ∧ (∀ (n : Fin 8) (k : Nat) (x : PendXlate), (s.quay.ctx n).xlates[k]? = some x → x.cycle + 32 ≤ s.quay.cycle.toNat →
          ∃ t h, exec (.xlateResult n k) s = .next t ∧ (t.quay.ctx n).regs.h.get x.h = h ∧ h.lastVa = x.va
            ∧ (x.va.toNat / 2 ^ 56 ≠ 0 → h.valid = false ∧ h.pend = false ∧ h.page = false)
            ∧ (∀ m, x.va.toNat / 2 ^ 56 = 0 → s.translate (s.quay.ctx n).slice x.va.toNat = some m →
                h.valid = true ∧ h.pend = false ∧ h.page = true ∧ h.pbase = m.pa ∧ h.vpage = m.va ∧ h.size = m.size
                  ∧ h.r = m.r ∧ h.w = m.w ∧ h.x = m.x)
            ∧ (x.va.toNat / 2 ^ 56 = 0 → s.translate (s.quay.ctx n).slice x.va.toNat = none →
                h.valid = false ∧ h.pend = true ∧ h.page = true ∧ h.ticket = s.pager.nextTicket
                  ∧ t.pager.nextTicket = s.pager.nextTicket + 1))
      ∧ (∃ t, exec (.hrel o) s = .next t ∧ SameBytes s t
          ∧ ∀ h, h = t.ctx.regs.h.get (Fin.ofNat 16 o.reg.val) → h.valid = false ∧ h.pend = false ∧ h.page = false)
      ∧ (∃ w, exec (.hstat o) s = .next (s.setCtx (s.ctx.put .m (mDest s o) 4 (BitVec.ofNat 2048 w)))
          ∧ ∀ h, h = s.ctx.regs.h.get o.base →
            field w 0 1 = h.valid.toNat ∧ field w 1 1 = h.pend.toNat ∧ field w 2 2 = h.size % 4 ∧ field w 4 1 = h.r.toNat
              ∧ field w 5 1 = h.w.toNat ∧ field w 6 1 = h.x.toNat ∧ field w 7 1 = h.page.toNat ∧ field w 8 8 = 0
              ∧ field w 16 36 = 0 ∧ field w 52 12 = if h.pend then h.ticket % 4096 else 0))

/-- R137, R38, R163: AMO and CAS commit: the gated stores drain and the strand's stores perform in that step (log 12),
the 8 bytes are read and written in one step, the old value is the result, the mark is the next bundle, and no other
byte of memory changes; they wait while a reduction of the strand has no room (R402). R144, R46: BMWAIT passes when
its bit is 1 at the home, the strand's own stores included, and its earlier loads have landed; it acquires at the
scope of the bitmap's memory, as log 117 reads an acquire; it waits otherwise. BMSET waits for the strand's loads and
for room for its reductions (R402), then sets the bit and no other; stores perform in its step (log 12). -/
def Obligations.AtomicsAndBitmaps : Prop :=
  (
    ∀ (s : State) (o : MOp) (off : Int) (d n : VWord) (ls : List Loc), MRuns s o → s.ctx.loads = [] → s.mVal o = .ok d →
      (s.ctx.mOff o (BitVec.ofNat 64 (o.imm.toNat % 4096)) = .ok off → s.mLocs o off 8 8 true true = .ok ls →
        exec (.amo o) s = if s.flushes then .next (commit s (atomic (mDest s o) o.sp ls (s.ctx.access (.amo o) o off)
          (.amo (field o.imm.toNat 12 4) (d.setWidth 64)))) else stall (.amo o) s)
      ∧ (s.ctx.mOff o (BitVec.ofInt 64 (signedField 16 o.imm.toNat)) = .ok off → s.mLocs o off 8 8 true true = .ok ls →
          s.mVal { o with reg := o.reg + 1 } = .ok n →
          exec (.cas o) s = if s.flushes then .next (commit s (atomic (mDest s o) o.sp ls (s.ctx.access (.cas o) o off)
            (.cas (d.setWidth 64) (n.setWidth 64)))) else stall (.cas o) s)
      ∧ (∀ (k : Nat) (v old : Word), atomicNew (.amo k v) old = some (match k with
            | 0 => old + v | 1 => old &&& v | 2 => old ||| v | 3 => old ^^^ v
            | 4 => if v.toInt < old.toInt then v else old
            | 5 => if old.toInt < v.toInt then v else old
            | 6 => if v.toNat < old.toNat then v else old
            | 7 => if old.toNat < v.toNat then v else old
            | _ => v))
      ∧ (∀ x v old : Word, atomicNew (.cas x v) old = if old = x then some v else none)
      ∧ (∀ (r : RegId) (x : Access) (op : AtomicOp) (u : State),
          (u.atHome ls op).1 = BitVec.ofNat 64 (ofLeBytes (ls.map u.readLoc))
          ∧ (∀ v, atomicNew op (u.atHome ls op).1 = some v → (u.atHome ls op).2
              = (u.writeLocs (ls.zip (leBytes 8 v.toNat))).dropLines (ls.zip (leBytes 8 v.toNat)))
          ∧ (atomicNew op (u.atHome ls op).1 = none → SameBytes u (u.atHome ls op).2)
          ∧ atomic r true ls x op u
              = (u.atHome ls op).2.updCtx fun c => c.put .m r 4 ((u.atHome ls op).1.setWidth 2048))
      ∧ (∀ (r : RegId) (sp : Bool) (x : Access) (op : AtomicOp) (u : State) (a : Nat), Memory.wf u.mem = true →
          (∀ l ∈ ls, IsPhys u a l = false) → (atomic r sp ls x op u).readByte a = u.readByte a))
  ∧ (
    ∀ (s : State) (o : MOp) (ls : List Loc) (j : Nat), MRuns s o →
      (s.bitLocs o true false = .ok (ls, j) →
        exec (.bmwait o) s =
          if s.unbound = false ∧ (ofLeBytes (s.readHome s.quay.cctx s.ages ls)).testBit j = true then
            .next ((s.readAtHome (physAddrs ls)).acquire (s.memScope ls))
          else stall (.bmwait o) s)
      ∧ (s.ownStores s.quay.cctx s.ages = [] → s.readHome s.quay.cctx s.ages ls = ls.map s.readLoc)
      ∧ (∀ p t, s.memScope (.phys p :: t) = match s.memType p with
          | .ok .peer => 3
          | .ok .host => 4
          | _ => 2)
      ∧ (∀ n, SameBytes s ((s.readAtHome (physAddrs ls)).acquire n))
      ∧ (s.bitLocs o false true = .ok (ls, j) → s.ctx.loads = [] →
          exec (.bmset o) s = if s.flushes then .next (commit s fun u =>
              let v := (u.atHome ls (.bits (BitVec.ofNat 64 (2 ^ j)))).2
              v.nextAge.2.sendAtomic (.strand v.ctx.born) v.quay.cctx.val v.ages (.bits (BitVec.ofNat 64 (2 ^ j))) (physAddrs ls))
            else stall (.bmset o) s)
      ∧ (∀ u : State, ls.length = 8 → j < 64 → (u.atHome ls (.bits (BitVec.ofNat 64 (2 ^ j)))).2
          = (u.writeLocs (ls.zip (leBytes 8 (ofLeBytes (ls.map u.readLoc) ||| 2 ^ j)))).dropLines
              (ls.zip (leBytes 8 (ofLeBytes (ls.map u.readLoc) ||| 2 ^ j))))
      ∧ (s.bitLocs o false true = .ok (ls, j) → s.ctx.loads ≠ [] → exec (.bmset o) s = stall (.bmset o) s))

/-- R35 to R37, R139, R228: a fence with nothing to wait for drains and performs the strand's stores in its step (log
12) and marks the next bundle, whatever CUM says (log 104), an acquire alone only passes: from device scope on the
quay's L1 is empty then (log 117), at haven and system scope the device's L2 copies of peer lines are gone too; it
waits while loads are outstanding, with ENG while commands are, and while drained stores are not performed, its own
bundle then being the mark (R32); LRFENCE empties the record cache; RINV drops lines of the L1 and nothing else. R140,
R85, R30: DICTLD copies its entries, 48 bytes each, to the dictionary store from entry E on, once its checks pass; the
strand keeps no older copy of the lines that it has read at their homes. -/
def Obligations.FencesAndDictionaryLoads : Prop :=
  (
    ∀ (s : State) (o : MOp), MRuns s o →
      (∀ u, u = (if field o.imm.toNat 3 2 ≠ 1 then s.acquire (field o.imm.toNat 0 3) else s) →
        (field o.imm.toNat 3 2 ≠ 1 → s.ctx.loads = []) → (field o.imm.toNat 6 1 = 1 → s.commandsOf = false) →
        (field o.imm.toNat 3 2 = 0 → exec (.fence o) s = .next u)
        ∧ (field o.imm.toNat 3 2 ≠ 0 → u.flush.storesOf = false → exec (.fence o) s = .next (commit u.flush id))
        ∧ (field o.imm.toNat 3 2 ≠ 0 → u.flush.storesOf = true → exec (.fence o) s = stall (.fence o) u.flush.markHere))
      ∧ (∀ n, SameBytes s (s.acquire n) ∧ (n < 2 → s.acquire n = s) ∧ (n = 2 → (s.acquire n).l2 = s.l2)
          ∧ (2 ≤ n → ∀ q ∈ s.l1Quays, ((s.acquire n).quayAt q).l1 = []) ∧ (3 ≤ n → (s.acquire n).l2 = []))
      ∧ (s.ctx.loads ≠ [] → field o.imm.toNat 3 2 ≠ 1 → exec (.fence o) s = stall (.fence o) s)
      ∧ (field o.imm.toNat 6 1 = 1 → s.commandsOf = true → exec (.fence o) s = stall (.fence o) s)
      ∧ (exec (.lrfence o) s =
          if s.flushes then .next (commit s fun u => u.setQuay { u.quay with rcache := [] }) else stall (.lrfence o) s)
      ∧ (∀ off, s.ctx.mOff o 0 = .ok off → ∃ t, exec (.rinv o) s = .next t ∧ SameBytes s t
          ∧ (∀ n x, x ∈ (t.quayAt n).l1 → x ∈ (s.quayAt n).l1)
          ∧ ((s.ctx.regs.h.get o.base).valid = false → t = s)))
  ∧ (
    ∀ (s : State) (o : MOp) (v : VWord) (off : Int) (ls : List Loc) (e n : Nat), MRuns s o → s.mVal o = .ok v →
      s.ctx.mOff o 0 = .ok off → e = field v.toNat 0 12 → n = field o.imm.toNat 0 12 + 1 →
      (4096 < e + n → exec (.dictld o) s = .next (s.slotFault .m .dictRange))
      ∧ (e + n ≤ 4096 → s.mLocs o off (48 * n) 16 true false = .ok ls →
          (exec (.dictld o) s = if s.flushes then
              .next (commit s fun u => (dictWrite e (dictEntries n (ls.map u.readLoc)) u).readAtHome (physAddrs ls))
            else stall (.dictld o) s)
          ∧ ∀ (u : State) k, k < n → (dictEntries n (ls.map u.readLoc))[k]? =
              some (BitVec.ofNat 384 (ofLeBytes (((ls.map u.readLoc).drop (48 * k)).take 48))))
      ∧ ∀ as, SameBytes s (s.readAtHome as)
          ∧ ∀ a ∈ as, (∀ q ∈ s.l1Quays, ∀ x ∈ ((s.readAtHome as).quayAt q).l1, x.1 ≠ a / 64)
            ∧ ∀ x ∈ (s.readAtHome as).l2, x.1 ≠ a / 128)

/-- R141, R142, R46: a post adds its count and steps the generation at each threshold; BPOST posts once the strand's
loads have landed; BLDSET sets the threshold, clears the count and lets every context of the quay see the generation;
BLDRD returns the bollard and sees it. What commits waits while a reduction of the strand has no room (R402). R143,
R164: TMW returns the snapshot word when the value is above the index or the tidemark is DONE; at IDLE and RUN it is
outstanding, and lands when that has come; at HALT the strand becomes a waiter; an abandoned tidemark faults. -/
def Obligations.BollardsAndTidemarkWaits : Prop :=
  (
    ∀ (s : State) (o : MOp), MRuns s o →
      (s.ctx.loads = [] →
        exec (.bpost o) s = if s.flushes then
            .next (commit s fun u => u.post u.here (field o.imm.toNat 0 6) (field o.imm.toNat 6 4 + 1))
          else stall (.bpost o) s)
      ∧ (s.ctx.loads ≠ [] → exec (.bpost o) s = stall (.bpost o) s)
      ∧ (∀ (u : State) (b n : Nat), b < 64 → (vget {} u.quay.bols b).crew = none → 1 ≤ (vget {} u.quay.bols b).thr →
          let x := vget {} u.quay.bols b
          let y := vget {} (u.post u.here b n).quay.bols b
          y.cnt = (x.cnt + n) % x.thr ∧ y.gen = x.gen + BitVec.ofNat 16 ((x.cnt + n) / x.thr) ∧ y.thr = x.thr)
      ∧ (∀ v, s.mVal o = .ok v → o.imm.getLsbD 6 = false →
          exec (.bldset o) s = if s.flushes then
              .next (commit s (bollardSet (field o.imm.toNat 0 6) (field v.toNat 0 16) none))
            else stall (.bldset o) s)
      ∧ (∀ v, s.mVal o = .ok v → o.imm.getLsbD 6 = true →
          exec (.bldset o) s = if s.flushes then
              .next (commit s (bollardSet (field o.imm.toNat 0 6) (field v.toNat 0 16)
                (s.ctx.crew.map fun id => (id, field o.imm.toNat 7 8))))
            else stall (.bldset o) s)
      ∧ (∀ (u : State) (b thr : Nat), b < 64 → thr < 65536 →
          let y := vget {} (bollardSet b thr none u).quay.bols b
          y.thr = (if thr = 0 then 65536 else thr) ∧ y.cnt = 0 ∧ y.crew = none ∧ y.gen = (vget {} u.quay.bols b).gen
            ∧ ∀ c, vget 0 ((bollardSet b thr none u).quay.ctx c).regs.seen b = y.gen)
      ∧ (∃ w x, x = s.bollard s.here (field o.imm.toNat 0 6)
          ∧ exec (.bldrd o) s = .next (s.setCtx { s.ctx.put .m (mDest s o) 4 (BitVec.ofNat 2048 w) with
              regs := { s.ctx.regs with seen := vput s.ctx.regs.seen (field o.imm.toNat 0 6) x.gen } })
          ∧ field w 0 16 = x.cnt % 2 ^ 16 ∧ field w 16 16 = x.gen.toNat ∧ field w 32 16 = x.thr % 2 ^ 16
          ∧ field w 48 1 = x.crew.isSome.toNat ∧ field w 49 8 = (x.crew.elim 0 Prod.snd) % 256))
  ∧ (
    ∀ (s : State) (o : MOp) (a : Word) (m : Tidemark), MRuns s o → s.ctx.getWord .m (.a o.idx) = .ok a →
      m = vget {} s.quay.tms (field o.imm.toNat 0 6) →
      let k := a.toNat % 2 ^ 32
      let IsWord := fun (w : Nat) (m : Tidemark) => field w 0 32 = m.value % 2 ^ 32 ∧ field w 32 3 = m.st.code ∧ w < 2 ^ 35
      (s.ctx.st = .active → (k < m.value ∧ m.st ≠ .abandon) ∨ m.st = .done →
        ∃ t w, exec (.tmw o) s = .next t ∧ IsWord w m
          ∧ SameBytes s t ∧ t.ctx.regs = s.ctx.regs ∧ t.ctx.loads = s.ctx.loads
          ∧ ((∀ p ∈ s.ctx.pend, p.reg ≠ mDest s o) → ∀ slot j, s.ctx.oldest ≤ j → s.ctx.bidx < j →
              t.ctx.readReg slot j (mDest s o) = BitVec.ofNat 2048 w))
      ∧ (m.value ≤ k → m.st = .idle ∨ m.st = .run → ∃ t l, exec (.tmw o) s = .next t ∧ t.ctx.loads = s.ctx.loads ++ [l]
          ∧ l.reg = mDest s o ∧ l.form = .tm s.here (field o.imm.toNat 0 6) k ∧ l.bidx = s.ctx.bidx ∧ l.counted = false
          ∧ t.ctx.regs = s.ctx.regs ∧ t.ctx.pend = s.ctx.pend ∧ SameBytes s t)
      ∧ (m.value ≤ k → m.st = .halt → exec (.tmw o) s = .next (s.park (.tidemark s.here (field o.imm.toNat 0 6))))
      ∧ (m.st = .abandon → exec (.tmw o) s = .next (s.slotFault .m (if m.broken then .hawserBroken else .frontierAbandoned)))
      ∧ (∀ (n : Fin 8) (i : Nat) (l : OLoad) (c : Context) (q tm idx : Nat), c = s.quay.ctx n → c.loads[i]? = some l →
          l.form = .tm q tm idx → c.st ≠ .parked → c.st ≠ .faulted →
          ∀ m, m = vget {} (s.quayAt q).tms tm → (idx < m.value ∧ m.st ≠ .abandon) ∨ m.st = .done →
            ∃ t w, exec (.loadDataLand n i) s = .next t ∧ IsWord w m ∧ SameBytes s t
              ∧ (t.quay.ctx n).loads = listErase c.loads i
              ∧ (l.discard = false → (∀ p ∈ c.pend, p.reg ≠ l.reg) → ∀ slot j, c.oldest ≤ j → l.bidx < j →
                  (t.quay.ctx n).readReg slot j l.reg = BitVec.ofNat 2048 w)))

/-! ### B slot -/

/-- R148: PREP and PREPI fill a target buffer with an address, the low word of a register, or the bundle's pc plus
IMM17, and with the first two bundles there, as far as a fetch of them would not fault (R79). R147 to R149: GO, CALL
and RET outside lock-step: the next bundle is the target's, and the buffer supplies the bundles it holds; CALL pushes
the sequential address and RET pops; an empty target, a full stack and an empty one fault, CALL finding the full stack
first and an empty target after its push. R150, R151: LOOP: at a count of 0 nothing; else the count falls by 1, the
bases rotate, and the target is taken while the count is not 0. LPSET and RRB write the count and the bases. R152:
TCQGO counts down its skew, then pops the queue's head and transfers when it is 1. On an empty queue it waits; the
bits of the operations that have begun, R219, reach it then, in their order (log 115). -/
def Obligations.TransfersAndLoops : Prop :=
  (
    ∀ (s : State) (o : BOp), s.bGuard o = .ok true →
      let fill (a : BitVec 32) : State := s.setCtx { s.ctx with
        regs := { s.ctx.regs with targets := s.ctx.regs.targets.set o.t.val ⟨true, a, s.fillFrom s.here s.ctx a⟩ } }
      (∀ v, s.ctx.getWord .b (s.ctx.xReg (Fin.ofNat 32 (field o.imm.toNat 0 5))) = .ok v →
        exec (.prep o) s = .next (fill (BitVec.ofNat 32 v.toNat)))
      ∧ exec (.prepi o) s = .next (fill (s.ctx.curPc + BitVec.ofInt 32 (signedField 17 o.imm.toNat)))
      ∧ (∀ (a : BitVec 32), (s.fillFrom s.here s.ctx a).length ≤ 2
          ∧ ∀ d w, s.readCode s.ctx.slice (s.ctx.codeVa a.toNat / 64) = .ok d →
            w = d.toNat / 2 ^ (8 * (s.ctx.codeVa a.toNat % 64)) % 2 ^ 16 → w ≠ 0xFFFE → w < 0xFFF0 →
            w < 16 * winSize s.ctx.win s.ctx.regs.dictsel.toNat →
            16 * winBase s.ctx.win s.ctx.regs.dictsel.toNat + w < 4096 →
            (s.fillFrom s.here s.ctx a).head? =
              some ⟨sparseGet 0 s.quay.dict (16 * winBase s.ctx.win s.ctx.regs.dictsel.toNat + w), false⟩))
  ∧ (
    ∀ (s : State) (o : BOp) (t : Target), s.bGuard o = .ok true → s.lockedCtx = none → t = s.ctx.regs.targets.get o.t →
      let pushed : Shadowed :=
        { s.ctx.regs with ret := (s.ctx.curPc + (if s.ctx.curLit then 25 else 1)) :: s.ctx.regs.ret }
      (t.filled = true → exec (.go o) s = .next (s.setCtx { s.ctx with pc := t.addr, held := t.at, seqEnd := false }))
      ∧ (t.filled = false → exec (.go o) s = .next (s.slotFault .b .targetEmpty))
      ∧ (t.filled = true → s.ctx.regs.ret.length < 8 →
          exec (.call o) s = .next (s.setCtx { s.ctx with pc := t.addr, held := t.at, seqEnd := false, regs := pushed }))
      ∧ (t.filled = false → s.ctx.regs.ret.length < 8 →
          exec (.call o) s = .next ((s.setCtx { s.ctx with regs := pushed }).slotFault .b .targetEmpty))
      ∧ (8 ≤ s.ctx.regs.ret.length → exec (.call o) s = .next (s.slotFault .b .retstack))
      ∧ (∀ a r, s.ctx.regs.ret = a :: r →
          exec (.ret o) s = .next (s.setCtx { s.ctx with
            pc := a, held := [], seqEnd := false, regs := { s.ctx.regs with ret := r } }))
      ∧ (s.ctx.regs.ret = [] → exec (.ret o) s = .next (s.slotFault .b .retstack)))
  ∧ (
    ∀ (s : State) (o : BOp) (t : Target) (bs : Bases), s.bGuard o = .ok true → s.lockedCtx = none →
      t = s.ctx.regs.targets.get o.t →
      bs = ⟨s.ctx.regs.bases.x - 1, s.ctx.regs.bases.y - 1, s.ctx.regs.bases.v - 1, s.ctx.regs.bases.w - 1⟩ →
      let r : Shadowed := { s.ctx.regs with lc := s.ctx.regs.lc - 1, bases := bs }
      (s.ctx.regs.lc = 0 → exec (.loop o) s = .next s)
      ∧ (s.ctx.regs.lc = 1 → exec (.loop o) s = .next (s.setCtx { s.ctx with regs := r }))
      ∧ (1 < s.ctx.regs.lc → t.filled = true →
          exec (.loop o) s = .next (s.setCtx { s.ctx with regs := r, pc := t.addr, held := t.at, seqEnd := false }))
      ∧ exec (.lpset o) s = .next (s.setCtx { s.ctx with
          regs := { s.ctx.regs with lc := BitVec.ofNat 32 (o.imm.toNat % 2 ^ 16) } })
      ∧ (∀ v, s.ctx.getWord .b (s.ctx.xReg (Fin.ofNat 32 (field o.imm.toNat 0 5))) = .ok v →
          exec (.lpsetReg o) s = .next (s.setCtx { s.ctx with regs := { s.ctx.regs with lc := BitVec.ofNat 32 v.toNat } }))
      ∧ (∀ k, k = BitVec.ofNat 4 o.imm.toNat →
          exec (.rrb o) s = .next (s.setCtx { s.ctx with regs := { s.ctx.regs with bases := ⟨k, k, k, k⟩ } })))
  ∧ (
    ∀ (s : State) (o : BOp) (t : Target), s.bGuard o = .ok true → s.lockedCtx = none → t = s.ctx.regs.targets.get o.t →
      (0 < s.ctx.regs.skewLeft → exec (.tcqgo o) s = .next (s.setCtx { s.ctx with
        regs := { s.ctx.regs with skewLeft := s.ctx.regs.skewLeft - 1 } }))
      ∧ (∀ q bits, s.ctx.regs.skewLeft = 0 →
          bits = s.ctx.effects.filterMap (fun e => match e.what with
            | .tcq b => some b
            | _ => none) →
          q = (if s.ctx.regs.tcq = [] then bits else s.ctx.regs.tcq) →
          (q = [] → exec (.tcqgo o) s = stall (.tcqgo o) s.landTcq)
          ∧ ∀ b l, q = b :: l → (b = true → t.filled = true) →
            ∃ u, exec (.tcqgo o) s = .next u ∧ u.ctx.regs.tcq = l ∧ u.ctx.pc = (if b then t.addr else s.ctx.pc)
              ∧ u.ctx.regs.x = s.ctx.regs.x ∧ u.ctx.regs.ret = s.ctx.regs.ret ∧ SameBytes s u))

/-- R153: TRAP takes SOFTWARE_TRAP with its code once it is last in its bundle; FAULTRET returns from the handler to
ST_FAULTPC, or past that bundle, and outside one faults. R154, R155: HALT frees the context: DORMANT, its stores
drained, no ready tag, its crew with one strand less; SUSP moors the strand's record at the bottom of its quay's deque
first, and waits for values of x0 to x5 on their way (R116), which the record holds. -/
def Obligations.TrapsAndStrandEnds : Prop :=
  (
    ∀ (s : State) (o : BOp), s.bGuard o = .ok true → s.lockedCtx = none → s.ctx.queue = [] →
      (exec (.trap o) s = .next (s.takeFault
        { code := .softwareTrap, origin := 6, trap := o.imm.toNat % 256, pc := s.ctx.curPc, lit := s.ctx.curLit }))
      ∧ (s.ctx.handler = true → ∃ t, exec (.faultret o) s = .next t ∧ t.ctx.handler = false
          ∧ t.ctx.pc = (if o.imm.getLsbD 0 then s.ctx.faultPc + (if s.ctx.fault.getLsbD 20 then 25 else 1) else s.ctx.faultPc)
          ∧ t.ctx.mark = t.ctx.pc ∧ t.ctx.markIdx = s.ctx.lastIdx + 1 ∧ t.ctx.vecPc = s.ctx.vecPc ∧ SameBytes s t)
      ∧ (s.ctx.handler = false → exec (.faultret o) s = .next (s.slotFault .b .illegalOp)))
  ∧ (
    ∀ (s : State) (o : BOp), s.bGuard o = .ok true → s.lockedCtx = none → s.ctx.queue = [] → s.ctx.streamsBusy = false →
      (∃ t, exec (.halt o) s = .next t ∧ t = s.haltStrand ∧ (t.quay.ctx s.quay.cctx).st = .dormant
        ∧ (t.quay.ctx s.quay.cctx).gated = [] ∧ (t.quay.ctx s.quay.cctx).regs.tags = 0
        ∧ t.quay.drained = s.quay.drained ++ s.ctx.gated ∧ (∀ a, t.readByte a = s.readByte a))
      ∧ (s.ctx.recordBusy = true ↔ ∃ l ∈ s.ctx.loads, l.discard = false ∧ ∃ r, l.reg = .x r ∧ r.val < 6)
      ∧ (s.ctx.recordBusy = true → exec (.susp o) s = stall (.susp (settledOp o)) s)
      ∧ (s.quay.deque.length < 1024 → s.ctx.recordBusy = false →
          ∃ t, exec (.susp o) s = .next t ∧ (t.quay.ctx s.quay.cctx).st = .dormant
            ∧ t.quay.deque = s.quay.deque ++ [s.suspRecord (o.imm.toNat % 4)]
            ∧ (s.suspRecord (o.imm.toNat % 4)).resume = s.landAll.ctx.pc
            ∧ (∀ i, i < 6 → vget 0 (s.suspRecord (o.imm.toNat % 4)).x i = vget 0 s.landAll.ctx.regs.x i)
            ∧ (∀ a, t.readByte a = s.readByte a)))

/-- R96, R146: an operation whose guard is false has no effect: with CK the condition is a whole mask, a mixed one
faults. -/
def Obligations.GuardsSuppress : Prop :=
  ∀ (s : State) (i : Instr),
    (∀ c o, i.form = .s c o → s.ctx.guardHolds (SOp.slot o) o.g = false → exec i s = .next s)
    ∧ (∀ c o, i.form = .m c o → s.ctx.guardHolds .m o.g = false → exec i s = .next s)
    ∧ (∀ c o, i.form = .v c o → s.ctx.guardHolds (vSlot o) o.g = false → exec i s = .next s)
    ∧ (∀ c o, i.form = .e c o → s.system = false → s.ctx.futw = none → s.ctx.guardHolds .e o.g = false → exec i s = .next s)
    ∧ (∀ c o, i.form = .b c o → s.lockedCtx = none → s.bGuard o = .ok false → exec i s = .next s)
    ∧ (∀ c o, i.form = .b c o → s.lockedCtx = none → s.bGuard o = .error (.fault .nonuniform none) →
        exec i s = .next (s.slotFault .b .nonuniform))
    ∧ (∀ (o : BOp) neg n (m : MaskWord), o.g = .on neg n → o.ck = true →
        m = (s.ctx.readReg .b s.ctx.bidx (if o.imm.getLsbD 16 then .g n else .k n)).setWidth 256 →
        s.bGuard o = if m = BitVec.allOnes 256 then .ok (!neg) else if m = 0 then .ok neg
          else .error (.fault .nonuniform none))

/-! ### V slots -/

/-- R203 to R205, R196 to R198: the element-wise integer and logic operations, merged under the mask. R203, R55: the
saturating sum and difference, with SAT when an active element is cut. R204: VMACW adds even products into d and odd
ones into d + 1, in elements twice as wide; inactive elements keep their old value. A stream in either place faults.
-/
def Obligations.VectorIntegerResults : Prop :=
  (
    ∀ (s : State) (o : VOp),
      VIntResults s o
        [(.vadd o, fun a b _ => (a : Int) + b), (.vsub o, fun a b _ => (a : Int) - b), (.vmul o, fun a b _ => (a : Int) * b)
        , (.vmulh o, fun a b _ => valOf o a * valOf o b / 2 ^ vw o), (.vmac o, fun a b c => (c : Int) + a * b)
        , (.vabs o, fun a _ _ => ((sgn (vw o) a).natAbs : Nat)), (.vneg o, fun a _ _ => -(a : Int))
        , (.vmin o, fun a b _ => min (valOf o a) (valOf o b)), (.vmax o, fun a b _ => max (valOf o a) (valOf o b))
        , (.vavg o, fun a b _ => (valOf o a + valOf o b + 1) / 2)
        , (.vand o, fun a b _ => (a &&& b : Nat)), (.vor o, fun a b _ => (a ||| b : Nat)), (.vxor o, fun a b _ => (a ^^^ b : Nat))
        , (.vnot o, fun a _ _ => (2 ^ vw o : Nat) - 1 - (a : Int))
        , (.vshl o, fun a b _ => (a * 2 ^ (b % vw o) : Nat)), (.vshr o, fun a b _ => (a / 2 ^ (b % vw o) : Nat))
        , (.vsha o, fun a b _ => sgn (vw o) a / 2 ^ (b % vw o))
        , (.vshli o, fun a _ _ => if o.func.val = 0 then (a * 2 ^ o.imm.toNat : Nat) else if o.func.val = 1 then
            (a / 2 ^ o.imm.toNat : Nat) else sgn (vw o) a / 2 ^ o.imm.toNat)
        , (.vclmul o, fun a b _ => (carrylessNat (vw o) a b : Nat))
        , (.vclmulh o, fun a b _ => (carrylessNat (vw o) a b / 2 ^ vw o : Nat))
        , (.vpopc o, fun a _ _ => (onesOf (vw o) a : Nat)), (.vclz o, fun a _ _ => (leadOf (vw o) a : Nat))])
  ∧ (
    ∀ (s : State) (o : VOp),
      VElemResults s o 2
        [(.vadds o, fun _ a b _ => satOf o (valOf o a + valOf o b)), (.vsubs o, fun _ a b _ => satOf o (valOf o a - valOf o b))])
  ∧ (
    ∀ (s : State) (o : VOp),
      (∀ a b p q, s.ctx.guardHolds (vSlot o) o.g = true → s.tagReady o.tag = true → s.vSrc o o.a = .ok a → s.vSrc o o.b = .ok b →
        o.nd = false → s.stream? o.second o.d = .ok p → s.stream? o.second (o.d + 1) = .ok q → (p.isSome || q.isSome) = true →
        exec (.vmacw o) s = .next (s.slotFault (vSlot o) .streamFault))
      ∧ ∀ (x : VIn) (dst : Option (Fin 8)) (old1 : VWord), VReads s (.vmacw o) o true x dst → s.ctx.get (vSlot o) (s.ctx.vName o.second (o.d + 1)) = .ok old1 →
      ∃ r0 r1, exec (.vmacw o) s = .next ((s.setCtx ((s.ctx.put (vSlot o) (s.ctx.vName o.second o.d) 2 r0).put (vSlot o)
          (s.ctx.vName o.second (o.d + 1)) 2 r1)).vBegin (.vmacw o) o)
        ∧ ∀ e, e < 2048 / (2 * vw o) → ∀ j, j < 2 →
          elem (2 * vw o) (if j = 0 then r0 else r1) e =
            if x.m.getLsbD (2 * e + j) then
              (((elem (2 * vw o) (if j = 0 then x.old else old1) e : Int)
                + sgn (vw o) (elem (vw o) x.a (2 * e + j)) * sgn (vw o) (elem (vw o) x.b (2 * e + j))) % 2 ^ (2 * vw o)).toNat
            else elem (2 * vw o) (if j = 0 then x.old else old1) e)

/-- R206 to R209, R74, R75: the floating-point operations: the exact value, rounded once into the format, with its
flags. -/
def Obligations.VectorFloatResults : Prop :=
  ∀ (s : State) (o : VOp),
    let V := (etyFmt o.ety).value
    VElemResults s o 4
      [(.vfadd o, fun x a b _ => fpResult o o.rm x.seed (Val.sum o.rm [V a, V b]) [V a, V b])
      , (.vfsub o, fun x a b _ => fpResult o o.rm x.seed (Val.sum o.rm [V a, (V b).neg]) [V a, V b])
      , (.vfmul o, fun x a b _ => fpResult o o.rm x.seed ((V a).mul (V b)) [V a, V b])
      , (.vfma o, fun x a b c => fpResult o o.rm x.seed (Val.sum o.rm [(V a).mul (V b), V c]) [V a, V b, V c])]
    ∧ VElemResults s o 2
      [(.vfmin o, fun _ a b _ => (fpMinMax (etyFmt o.ety) false a b, 0)), (.vfmax o, fun _ a b _ => (fpMinMax (etyFmt o.ety) true a b, 0))
      , (.vfabs o, fun _ a _ _ => (if (V a).isNan then (etyFmt o.ety).nanBits else a % 2 ^ (vw o - 1), 0))
      , (.vfneg o, fun _ a _ _ => (if (V a).isNan then (etyFmt o.ety).nanBits else a ^^^ 2 ^ (vw o - 1), 0))]
    ∧ VElemResults s o 8
      [(.vrcp o, fun x a _ _ => (etyFmt o.ety).round .rne x.seed none (rcpExact (V a)))
      , (.vrsq o, fun x a _ _ => fpResult o .rne x.seed (rsqExact (V a)) [V a])
      , (.vexp2 o, fun x a _ _ => match V a with
          | .nan => ((etyFmt o.ety).nanBits, 0)
          | .inf true => (0, 0)
          | .inf false => (etyFmt o.ety).round .rne x.seed none (.inf false)
          | .fin n m e =>
            let v := (Val.fin n m e).scaled (-149)
            if 128 * 2 ^ 149 ≤ v then (((etyFmt o.ety).round .rne x.seed none (.inf false)).1, flOF)
            else if v < -(160 * 2 ^ 149) then (0, flUF ||| flNX)
            else (etyFmt o.ety).round .rne x.seed none (exp2Exact v))]

/-- R60, R63, R53: rounding a value that the format holds returns its encoding and raises no flag, in every mode. -/
def Obligations.RoundingKeepsExactValues : Prop :=
  ∀ (f : Fmt) (rm : RMode) (seed : BitVec 32) (n : Nat), f ∈ [Fmt.bf16, .fp16, .fp32, .e4m3, .e5m2, .e2m1, .i8, .i16, .i32] →
    n < 2 ^ f.bits → (f.value n).isNan = false → (f.value n).isInf = false →
    f.round rm seed none (f.value n) = (n, 0)

/-- R210, R196: the compares write a mask: each active element its condition, the others their old bit or 0, every 256
bits. -/
def Obligations.VectorCompares : Prop :=
  ∀ (s : State) (o : VOp) (x : VIn) (dst : Option (Fin 8)) (L : Nat) (old : MaskWord), L = 2048 / vw o →
    old = s.ctx.maskOf o.second (Fin.ofNat 8 o.d.val) →
    let out := fun (i : Instr) (cond : Nat → Bool) => ∃ m : MaskWord,
      exec i s = .next ((s.setCtx (s.ctx.put (vSlot o) (maskReg o.second (Fin.ofNat 8 o.d.val)) 2 (m.setWidth 2048))).vBegin i o)
      ∧ IsMask L m fun e => if x.m.getLsbD e then cond e else if o.mz then false else old.getLsbD e
    (VReads s (.vicmp o) o false x dst → o.func.val ≤ 5 → out (.vicmp o) fun e =>
      let a := elem (vw o) x.a e; let b := elem (vw o) x.b e
      match o.func.val with
      | 0 => decide (a = b) | 1 => decide (a ≠ b) | 2 => decide (sgn (vw o) a < sgn (vw o) b)
      | 3 => decide (sgn (vw o) b ≤ sgn (vw o) a) | 4 => decide (a < b) | _ => decide (b ≤ a))
    ∧ (VReads s (.vfcmp o) o false x dst → o.func.val ≤ 4 → out (.vfcmp o) fun e =>
      let a := (etyFmt o.ety).value (elem (vw o) x.a e); let b := (etyFmt o.ety).value (elem (vw o) x.b e)
      if a.isNan || b.isNan then o.func.val == 1 || o.func.val == 4
      else match o.func.val with
        | 0 => a.eqv b | 1 => !a.eqv b | 2 => a.lt b | 3 => a.lt b || a.eqv b | _ => false)

/-- R211, R212, R67: VCVT converts into narrower elements of its part or wider ones, with the flags of the active
elements it converts; VPACKP cuts i8 elements into planes and VUNPKP rebuilds them from the first planes. VPACKP
raises SAT when an element is cut. R213, R214: VSCALE multiplies by a scale, divides by it, or multiplies by the scale
of a ring without the pushes of its cycle, a strand's or an engine's; VAMAX pushes the largest magnitude of the active
elements, which a read of the cycle in which it lands, cycle + 2, does not see (R72; when a push lands: log 113).
Where FP32 does not hold the magnitude (log 20), some non-negative magnitude or +infinity is pushed. -/
def Obligations.VectorConversionsAndScaling : Prop :=
  (
    ∀ (s : State) (o : VOp) (x : VIn) (dst : Option (Fin 8)) (df : Fmt) (dw : Nat),
      df = (if o.func.val = 8 then Fmt.e2m1 else etyFmt (ETy.ofBits o.func.val)) → dw = df.bits →
      let part := fun (e : Nat) =>
        !decide (dw < vw o ∧ ¬ (o.imm.toNat * (2048 / vw o) ≤ e ∧ e < (o.imm.toNat + 1) * (2048 / vw o)))
      let conv := fun (e : Nat) => convert (etyFmt o.ety) df o.rm x.seed (elem (vw o) x.a
        (if dw < vw o then e - o.imm.toNat * (2048 / vw o) else o.imm.toNat * (2048 / dw) + e))
      (VReads s (.vcvt o) o (decide (2048 / vw o < 2048 / dw)) x dst →
        ∃ r bytes fl, exec (.vcvt o) s = .next ((s.vResult o dst 3 r bytes fl).vBegin (.vcvt o) o)
          ∧ fl = (List.range (2048 / dw)).foldl
              (fun f e => if part e && x.m.getLsbD (e % 256) then f ||| (conv e).2 else f) 0
          ∧ ∀ e, e < 2048 / dw → elem dw r e =
            if part e = false then elem dw x.old e
            else if x.m.getLsbD (e % 256) then (conv e).1 % 2 ^ dw
            else if o.mz then 0 else elem dw x.old e)
      ∧ (∀ p, p = o.func.val % 8 + 1 → VReads s (.vpackp o) o false x dst →
          ∃ r fl, exec (.vpackp o) s = .next ((s.vResult o dst 3 r (BitVec.allOnes 256) fl).vBegin (.vpackp o) o)
            ∧ fl = (if (List.range 256).any fun e => sgn 8 (elem 8 x.a e) < -2 ^ (p - 1) || 2 ^ (p - 1) - 1 < sgn 8 (elem 8 x.a e)
              then flSAT else 0)
            ∧ (∀ k e, k < p → e < 256 → r.getLsbD (256 * k + e) =
                (BitVec.ofInt p (max (-2 ^ (p - 1)) (min (2 ^ (p - 1) - 1) (sgn 8 (elem 8 x.a e))))).getLsbD (p - 1 - k))
            ∧ ∀ b, 256 * p ≤ b → r.getLsbD b = false)
      ∧ (∀ p q, p = o.func.val % 8 + 1 → q = o.imm.toNat % 8 + 1 → q ≤ p → VReads s (.vunpkp o) o false x dst →
          ∃ bytes, VWrites s (.vunpkp o) o dst 3 8 bytes 0 fun e => merged o x 8 e
            ((BitVec.ofNat 8 ((List.range q).foldl (fun n k => 2 * n + (x.a.getLsbD (256 * k + e)).toNat) 0) <<< (8 - q)).sshiftRight
              (8 - q) <<< (p - q)).toNat))
  ∧ (
    ∀ (s : State) (o : VOp) (ring : Ring),
      ring = (s.landRing (o.imm.toNat % 64) s.quay.cycle.toNat fun n => n != s.quay.cctx).ownRing (o.imm.toNat % 64) →
      ((∀ n, ∀ e ∈ (s.quay.ctx n).effects, ∀ r v c, e.what ≠ .push r v c) → s.quay.pushes = [] → ring = vget {} s.quay.rings (o.imm.toNat % 64))
      ∧ VElemResults s o 4
        [(.vscale o, fun x a _ _ =>
          if o.func.val = 0 then scaleMul (etyFmt o.ety) o.rm x.seed ((etyFmt o.ety).value a) (x.b.toNat % 2 ^ 24)
          else if o.func.val = 1 then scaleDiv (etyFmt o.ety) o.rm x.seed a (x.b.toNat % 2 ^ 24)
          else
            let k := ring.scale (ringFmt (o.func.val % 8))
            ((scaleMul (etyFmt o.ety) o.rm x.seed ((etyFmt o.ety).value a) k.1).1
            , (scaleMul (etyFmt o.ety) o.rm x.seed ((etyFmt o.ety).value a) k.1).2 ||| k.2))]
      ∧ (∀ x dst v land, land = s.quay.cycle.toNat + 2 → VReads s (.vamax o) o false x dst →
          pushBits (amaxVal ((activeList x (vw o)).map (etyFmt o.ety).value)) = some v →
          exec (.vamax o) s = .next ((s.setCtx (s.ctx.later (s.ctx.bidx + 3) (.push (o.imm.toNat % 64) v land))).vBegin (.vamax o) o))
      ∧ (∀ x dst, VReads s (.vamax o) o false x dst →
          pushBits (amaxVal ((activeList x (vw o)).map (etyFmt o.ety).value)) = none →
          ∃ t v, exec (.vamax o) s = .next t ∧ t.fresh = s.fresh + 1 ∧ v.toNat ≤ 0x7F800000
            ∧ t.ctx.effects = s.ctx.effects ++ [⟨s.ctx.bidx + 3, .push (o.imm.toNat % 64) v (s.quay.cycle.toNat + 2)⟩]))

/-- R215, R207, R67: VRSUM, VRMAX and VSCAN over the active elements, with the flags of the sums they round or cut.
The largest floating-point element is one that is no NaN, with −0 below +0; of NaNs alone it is a NaN, of none −inf.
-/
def Obligations.VectorReductions : Prop :=
  ∀ (s : State) (o : VOp) (x : VIn) (dst : Option (Fin 8)) (w : Nat) (act : List Nat) (fp : Bool), w = vw o →
    act = activeList x w → fp = (o.ety == .bf16 || o.ety == .fp16 || o.ety == .fp32) →
    (fp || (o.ety == .i8 || o.ety == .i16 || o.ety == .i32)) = true →
    let V := (etyFmt o.ety).value
    let sum := fun l => if fp then fpResult o o.rm x.seed (Val.sum o.rm (l.map V)) (l.map V) else (l.sum % 2 ^ w, 0)
    let total := (act.map (sgn w)).sum
    let cut : Int := max (-2 ^ (w - 1)) (min (2 ^ (w - 1) - 1) total)
    (VReads s (.vrsum o) o false x dst → VWrites s (.vrsum o) o dst 6 w (BitVec.allOnes 256)
      (if fp then (sum act).2 else if cut = total then 0 else flSAT) fun e =>
      if e ≠ 0 then 0 else if fp then (sum act).1 else (cut % 2 ^ w : Int).toNat)
    ∧ (VReads s (.vrmax o) o false x dst → fp = false → ∃ r, VWrites s (.vrmax o) o dst 6 w (BitVec.allOnes 256) 0
          (fun e => if e ≠ 0 then 0 else r)
        ∧ (act = [] → r = if o.func.val = 1 then 0 else 2 ^ (w - 1))
        ∧ (act ≠ [] → r ∈ act ∧ ∀ a ∈ act, valOf o a ≤ valOf o r))
    ∧ (VReads s (.vrmax o) o false x dst → fp = true → ∃ r, VWrites s (.vrmax o) o dst 6 w (BitVec.allOnes 256) 0
        (fun e => if e ≠ 0 then 0 else r)
        ∧ (act = [] → V r = .inf true) ∧ (act ≠ [] → (∀ a ∈ act, (V a).isNan = true) → (V r).isNan = true)
        ∧ ((∃ a ∈ act, (V a).isNan = false) → r ∈ act ∧ (V r).isNan = false
            ∧ ∀ a ∈ act, (V a).isNan = false → (V r).lt (V a) = false
              ∧ ((V r).isZero = true → (V a).isZero = true → (V r).sign = true → (V a).sign = true)))
    ∧ (let upto := fun (e : Nat) => ((List.range (e + 1)).filter fun k => x.m.getLsbD k).reverse.map fun k => elem w x.a k;
        let one := fun (e : Nat) => if o.func.val = 1 then ((upto e).foldl (· ^^^ ·) 0, 0) else sum (upto e);
        VReads s (.vscan o) o false x dst → ∃ bytes, activeBytes o x w bytes ∧
          VWrites s (.vscan o) o dst 6 w bytes (activeFlags x (2048 / w) fun e => (one e).2) fun e => merged o x w e (one e).1)

/-- R216, R217, R220: permutations, moves, VLI and VIDX by the index of each element; VCOMP packs the active ones;
VSEL takes b where the mask is 0; VCOPYX writes the other file. R217, R219: MAND on masks; MPOPC counts, MANY tests
and TCQW queues the first L bits of a mask. -/
def Obligations.VectorPermutationsAndMasks : Prop :=
  (
    ∀ (s : State) (o : VOp) (x : VIn) (dst : Option (Fin 8)) (w L : Nat), w = vw o → L = 2048 / w →
      let A := elem w x.a
      let B := elem w x.b
      let out := fun (i : Instr) (lat : Nat) (f : Nat → Nat) => VReads s i o false x dst → ∃ bytes,
        VWrites s i o dst lat w bytes 0 fun e => merged o x w e (f e)
      (out (.vperm o) 3 fun e => A (B e % L))
      ∧ (out (.vshuf o) 3 fun e => match o.func.val with
          | 0 => if e % 2 = 0 then A (e / 2) else B (e / 2)
          | 1 => if e % 2 = 0 then A (e / 2 + L / 2) else B (e / 2 + L / 2)
          | 2 => if e < L / 2 then A (2 * e) else B (2 * (e - L / 2))
          | 3 => if e < L / 2 then A (2 * e + 1) else B (2 * (e - L / 2) + 1)
          | _ => A (L - 1 - e))
      ∧ (out (.vbcast o) 3 fun _ => A (B 0 % L))
      ∧ (out (.vslide o) 3 fun e => if o.func.val = 0 then (if e + o.imm.toNat % 64 < L then A (e + o.imm.toNat % 64) else 0)
          else if e < o.imm.toNat % 64 then 0 else A (e - o.imm.toNat % 64))
      ∧ (out (.vmov o) 2 fun e => A e)
      ∧ (out (.vli o) 2 fun _ => match o.ety with
          | .i32 => (BitVec.ofInt 32 (sgn 16 o.imm.toNat)).toNat
          | .fp32 => o.imm.toNat * 2 ^ 16
          | _ => o.imm.toNat % 2 ^ w)
      ∧ (out (.vidx o) 2 fun e => e % 2 ^ w)
      ∧ (VReads s (.vcomp o) o false x dst → VWrites s (.vcomp o) o dst 3 w (BitVec.allOnes 256) 0 fun e =>
          (activeList x w).getD e 0)
      ∧ (VReads s (.vsel o) o false x dst → VWrites s (.vsel o) o dst 2 w (BitVec.allOnes 256) 0 fun e =>
          if x.m.getLsbD e then A e else B e)
      ∧ (VReads s (.vcopyx o) o false x none → ∃ r, (∀ e, e < L → elem w r e = merged o x w e (A e))
          ∧ exec (.vcopyx o) s = .next ((s.setCtx (s.ctx.put (vSlot o) (s.ctx.vName (!o.second) o.d) 2 r)).vBegin (.vcopyx o) o)))
  ∧ (
    ∀ (s : State) (o : VOp) (x : VIn) (dst : Option (Fin 8)) (a b : MaskWord) (L : Nat), L = 2048 / vw o →
      a = s.ctx.maskOf o.second (maskNum o.a) → b = s.ctx.maskOf o.second (maskNum o.b) →
      let bits := (List.range L).map fun e => a.getLsbD e
      let test := if o.func.val = 1 then bits.all id else bits.any id
      (VReads s (.mand o) o false x dst → exec (.mand o) s = .next ((s.setCtx (s.ctx.put (vSlot o)
          (maskReg o.second (Fin.ofNat 8 o.d.val)) 2 (BitVec.setWidth 2048 (match o.func.val with
            | 0 => a &&& b | 1 => a ||| b | 2 => a ^^^ b | _ => ~~~a)))).vBegin (.mand o) o))
      ∧ (VReads s (.mpopc o) o false x dst → VWrites s (.mpopc o) o dst 2 32 (BitVec.allOnes 256) 0 fun _ => bits.count true)
      ∧ (VReads s (.many o) o false x dst → exec (.many o) s = .next ((s.setCtx (s.ctx.put (vSlot o) (.q (Fin.ofNat 8 o.d.val)) 2
          (if test then 1 else 0))).vBegin (.many o) o))
      ∧ (VReads s (.tcqw o) o false x dst → s.ctx.tcqUsed < 16 → exec (.tcqw o) s =
          .next ((s.setCtx (s.ctx.later (s.ctx.bidx + 2) (.tcq test))).vBegin (.tcqw o) o)))

/-- R218: the accumulator ports: ACRD reads a row's segment, ACWR writes its active words four bundles later, ACRDC
converts with a scale; each waits while a command holds the bank. -/
def Obligations.AccumulatorPorts : Prop :=
  ∀ (s : State) (o : VOp) (x : VIn) (dst : Option (Fin 8)) (k : Bank) (row seg : Nat), k = s.portBank o.func.val →
    row = x.a.toNat % 2 ^ 7 → seg = x.a.toNat / 2 ^ 7 % 2 →
    ((∀ n, ∀ e ∈ (s.quay.ctx n).effects, ∀ b cs, e.what ≠ .bank b cs ∧ e.what ≠ .bankOld b cs) →
      k = vget {} s.quay.banks o.func.val) ∧
    let word := fun e => if 64 * seg + e ≤ 95 then (sparseGet 0 k.words (96 * row + 64 * seg + e) : BitVec 32).toNat else 0
    (s.portHeld o.func.val = false → VReads s (.acrd o) o false x dst → ∃ bytes, VWrites s (.acrd o) o dst 4 32 bytes 0 fun e =>
      merged o x 32 e (word e))
    ∧ (s.portHeld o.func.val = false → VReads s (.acwr o) o false x dst → ∃ cells,
        exec (.acwr o) s = .next ((s.setCtx (s.ctx.later (s.ctx.bidx + 4) (.bank o.func.val cells))).vBegin (.acwr o) o)
        ∧ ∀ c, c ∈ cells ↔ ∃ e, e < 64 ∧ x.m.getLsbD e = true ∧ 64 * seg + e ≤ 95
            ∧ c = (96 * row + 64 * seg + e, BitVec.ofNat 32 (elem 32 x.b e)))
    ∧ (let conv := fun (e : Nat) => if e < (if seg = 1 then 32 else 64) then
          scaleMul (etyFmt o.ety) o.rm x.seed (k.value (word e)) (x.b.toNat % 2 ^ 24) else (0, 0);
        s.portHeld o.func.val = false → VReads s (.acrdc o) o false x dst → ∃ bytes, activeBytes o x (vw o) bytes ∧
          VWrites s (.acrdc o) o dst 6 (vw o) bytes (activeFlags x (2048 / vw o) fun e => (conv e).2)
            fun e => merged o x (vw o) e (conv e).1)
    ∧ (s.portHeld o.func.val = true → ∀ i ∈ [Instr.acrd o, .acwr o, .acrdc o], VReads s i o false x dst → exec i s = stall i s)

/-! ### Frames, results and names -/

/-- R96, R119, R127 to R129: an S operation that takes effect changes its destination, its latch and, for STATW, the
status register it schedules; every other register, every byte and everything outside its context stay. -/
def Obligations.ScalarFrame : Prop :=
  ∀ (i : Instr) (c : Nat) (o : SOp) (s t : State), i.form = .s c o → exec i s = .next t →
    (s.ctx.guardHolds (SOp.slot o) o.g = false ∧ t = s)
    ∨ (∃ h, s.halted i (SOp.slot o) h = .next t)
    ∨ (OnlyResults s.ctx t.ctx ∧ SameRegs s.ctx t.ctx (sDests s.ctx i o) ∧ SameBytes s t ∧ SameElsewhere s t
        ∧ SameSpecials s.ctx t.ctx ∧ ((∀ p, i ≠ .statw p) → t.ctx.effects = s.ctx.effects))

/-- R132 to R145: an M operation that does not commit and takes effect changes its destination alone among the
registers, a handle only by HREL, and no byte yet: its stores are gated. A read of a member device's memory sends its
packets. -/
def Obligations.MemoryOperationFrame : Prop :=
  ∀ (i : Instr) (c : Nat) (o : MOp) (s t : State), i.form = .m c o → committingM i = false → exec i s = .next t →
    (s.ctx.guardHolds .m o.g = false ∧ t = s)
    ∨ (∃ h, s.halted i .m h = .next t)
    ∨ (SameRegs s.ctx t.ctx (mDests s.ctx i o) ∧ SameBytes s t ∧ SameElsewhere s { t with outbox := s.outbox }
        ∧ (∃ l, t.outbox = s.outbox ++ l ∧ (s.members = 0 → l = [])) ∧ SameSpecials s.ctx t.ctx
        ∧ ((∀ p, i ≠ .hrel p) → t.ctx.regs.h = s.ctx.regs.h) ∧ ((∀ p, i ≠ .bldrd p) → t.ctx.regs.seen = s.ctx.regs.seen)
        ∧ t.ctx.pc = s.ctx.pc ∧ t.ctx.effects = s.ctx.effects)

/-- R197 to R220, R161: a V operation that takes effect changes its destination alone among the registers and clears
its own ready tag alone; no flag is raised yet (R67) and no byte changes. (What a stream source adds:
`StreamOperands`.) -/
def Obligations.VectorFrame : Prop :=
  ∀ (i : Instr) (c : Nat) (o : VOp) (s t : State), i.form = .v c o → s.srcStream o o.a = [] → s.srcStream o o.b = [] →
    exec i s = .next t →
    (s.ctx.guardHolds (vSlot o) o.g = false ∧ t = s)
    ∨ (∃ h, s.halted i (vSlot o) h = .next t)
    ∨ (SameRegs s.ctx t.ctx (vDests s.ctx i o) ∧ SameBytes s t ∧ SameElsewhere s t ∧ SameSpecials s.ctx t.ctx
        ∧ t.ctx.regs = { s.ctx.regs with tags := t.ctx.regs.tags }
        ∧ (∀ b, b ≠ o.tag.val → t.ctx.regs.tags.getLsbD b = s.ctx.regs.tags.getLsbD b) ∧ t.ctx.pc = s.ctx.pc
        ∧ t.ctx.loads.length = s.ctx.loads.length ∧ t.ctx.gated = s.ctx.gated)

/-- R147 to R152: a B operation but for TRAP, HALT, SUSP and FAULTRET changes the pc, the target buffers, the return
stack, the loop count, the bases and the tile condition queue at most. One that stops has by then changed what it
changes before the point where it stops, no register of a file and no pc: CALL its return stack, LOOP its count and
bases, TCQGO its queue. -/
def Obligations.BranchFrame : Prop :=
  ∀ (i : Instr) (c : Nat) (o : BOp) (s t : State), i.form = .b c o → (∀ p, i ≠ .trap p ∧ i ≠ .halt p ∧ i ≠ .susp p ∧ i ≠ .faultret p) →
    s.lockedCtx = none → exec i s = .next t →
    (∃ u h, u.halted i .b h = .next t ∧ SameRegs s.ctx u.ctx [] ∧ SameBytes s u ∧ SameElsewhere s u ∧ SameSpecials s.ctx u.ctx
      ∧ u.ctx = { s.ctx with regs := u.ctx.regs, effects := u.ctx.effects }
      ∧ u.ctx.regs = { s.ctx.regs with
          ret := u.ctx.regs.ret, lc := u.ctx.regs.lc, bases := u.ctx.regs.bases, tcq := u.ctx.regs.tcq
          tcqHead := u.ctx.regs.tcqHead }
      ∧ (u.ctx.regs.ret = s.ctx.regs.ret
          ∨ ∃ p, i = .call p ∧ u.ctx.regs.ret = (s.ctx.curPc + (if s.ctx.curLit then 25 else 1)) :: s.ctx.regs.ret)
      ∧ ((u.ctx.regs.lc = s.ctx.regs.lc ∧ u.ctx.regs.bases = s.ctx.regs.bases)
          ∨ ∃ p, i = .loop p ∧ u.ctx.regs.lc = s.ctx.regs.lc - 1 ∧ u.ctx.regs.bases = s.ctx.regs.bases.rotate)
      ∧ ((u.ctx.regs.tcq = s.ctx.regs.tcq ∧ u.ctx.regs.tcqHead = s.ctx.regs.tcqHead ∧ u.ctx.effects = s.ctx.effects)
          ∨ ∃ p, i = .tcqgo p))
    ∨ (SameRegs s.ctx t.ctx [] ∧ SameBytes s t ∧ SameElsewhere s t ∧ SameSpecials s.ctx t.ctx
        ∧ t.ctx.regs.h = s.ctx.regs.h ∧ t.ctx.regs.tags = s.ctx.regs.tags ∧ t.ctx.regs.seen = s.ctx.regs.seen
        ∧ t.ctx.regs.srseed = s.ctx.regs.srseed ∧ t.ctx.pend = s.ctx.pend
        ∧ (∀ e ∈ t.ctx.effects, e ∈ s.ctx.effects) ∧ ((∀ p, i ≠ .tcqgo p) → t.ctx.effects = s.ctx.effects)
        ∧ t.ctx.gated = s.ctx.gated ∧ t.ctx.loads = s.ctx.loads)

/-- R116, R118 (by the reading of log 7): a result with latency L is read by its own slot, in its own file or in q, L
bundles later and by every other slot at least two later; before that the old value is read. R118, R14: of a native
write and a copy of one bundle and register, the native one stands in either order, and the file's ST_CWCOL bit is
set. R99: latch n of a slot holds the result of its operation n + 1 bundles earlier once its latency has passed;
otherwise reading it is LATCH_LOST. R151: names 0 to 15 do not rotate; after a rotation, name m + 1 stands for what
name m stood for, and 16 for what 31 did. R196: mask registers k0 and g0 read as all ones whatever is written to them.
-/
def Obligations.ResultVisibility : Prop :=
  (
    ∀ (c : Context) (k k' : Slot) (r : RegId) (lat j : Nat) (v : VWord), (∀ w ∈ c.pend, w.reg ≠ r) →
      let own := k' = k ∧ (ownsFile k r = true ∨ ∃ n, r = .q n)
      (own → c.bidx + lat ≤ j → (c.put k r lat v).readReg k' j r = v)
      ∧ (¬ own → c.bidx + max lat 2 ≤ j → (c.put k r lat v).readReg k' j r = v)
      ∧ (own → j < c.bidx + lat → (c.put k r lat v).readReg k' j r = c.readReg k' j r)
      ∧ (¬ own → j < c.bidx + max lat 2 → (c.put k r lat v).readReg k' j r = c.readReg k' j r))
  ∧ (
    ∀ (c : Context) (k k' slot : Slot) (r : RegId) (lat lat' j : Nat) (v v' : VWord), ownsFile k r = true →
      ownsFile k' r = false → (∀ n, r ≠ .k n ∧ r ≠ .g n) → (∀ w ∈ c.pend, w.reg ≠ r) → c.bidx + max lat 2 + max lat' 2 ≤ j →
      ((c.put k r lat v).put k' r lat' v').readReg slot j r = v ∧ ((c.put k' r lat' v').put k r lat v).readReg slot j r = v
      ∧ ((c.put k r lat v).put k' r lat' v').cwcol = c.cwcol ||| r.colBit
      ∧ ((c.put k' r lat' v').put k r lat v).cwcol = c.cwcol ||| r.colBit)
  ∧ (
    ∀ (c : Context) (k : Slot) (lat n : Nat) (v : VWord), n < 4 → (∀ e ∈ c.latches, e.issued < c.bidx) →
      ({ c.fillLatch k lat v with bidx := c.bidx + n + 1 } : Context).getLatch k n =
        if lat ≤ n + 1 then .ok v else .error (.fault .latchLost none))
  ∧ (
    ∀ (b : Bases) (m : Fin 32),
      (m.val < 16 → rotated b.x m = m) ∧ (16 ≤ m.val → 16 ≤ (rotated b.x m).val)
      ∧ (16 ≤ m.val → m.val < 31 → rotated b.rotate.x (m + 1) = rotated b.x m) ∧ rotated b.rotate.x 16 = rotated b.x 31
      ∧ b.rotate.y = b.y - 1 ∧ b.rotate.v = b.v - 1 ∧ b.rotate.w = b.w - 1)
  ∧ (
    ∀ (c : Context) (v : VWord),
      ((∀ w ∈ c.pend, w.reg ≠ .k 0 ∧ w.reg ≠ .g 0) → c.maskOf false 0 = BitVec.allOnes 256 ∧ c.maskOf true 0 = BitVec.allOnes 256)
      ∧ (c.writeReg (.k 0) v).rawReg (.k 0) = BitVec.setWidth 2048 (BitVec.allOnes 256)
      ∧ (c.writeReg (.g 0) v).rawReg (.g 0) = BitVec.setWidth 2048 (BitVec.allOnes 256)
      ∧ c.rawReg (.k 0) = BitVec.setWidth 2048 (BitVec.allOnes 256))

/-- R200 to R202, R259: when a V operation that names a bound stream runs, as VMOV shows for a source and a
destination: it takes the next element of a read stream once it is read ahead, the last one too, whose delivery ends
the SBIND; it waits for one that is not; it hands its result to a write stream, and waits while eight are accepted.
R202: naming a write stream as a source, a read stream as DST, an element beyond the last one or a stream whose index
table is not loaded gives STREAM_FAULT at any operation that uses the field, before any effect. R200: of the streams,
a V operation that takes effect advances those that it names as SA or SB, by one element each, and the one that it
names as DST, which accepts its result; every other stream is as before. A name that is bound and in force (R259)
denotes its stream. -/
def Obligations.StreamOperands : Prop :=
  (
    ∀ (s : State) (o : VOp) (r : Fin 32) (k : Fin 8) (st : Stream), s.ctx.guardHolds (vSlot o) o.g = true →
      s.tagReady o.tag = true → streamOf o.second r = some k → s.streamPending k.val = false → st = s.ctx.streams.get k →
      st.bound = true → st.inForce ≤ s.ctx.bidx → st.seq < st.count → (st.indirect = true → st.table = true) → o.mask = 0 →
      s.ctx.maskOf o.second 0 = BitVec.allOnes 256 → o.nd = false →
      (vw o = 8 ∨ vw o = 16 ∨ vw o = 32) →
      (st.write = false → o.a = .reg r → s.stream? o.second o.d = .ok none →
        (∀ v l, st.buf = v :: l → ∃ t, exec (.vmov o) s = .next t
          ∧ t = (s.vResult o none 2 v (BitVec.allOnes 256) 0).vBegin (.vmov o) o
          ∧ t.ctx.streams.get k = { st with seq := st.seq + 1, buf := l }
          ∧ (st.seq + 1 < st.count → t.quay.dock = s.quay.dock)
          ∧ ∀ d, st.seq + 1 = st.count → s.binder s.quay.cctx k.val = some d → t.quay.dock = s.quay.dock.filter fun e => e.seq != d.seq)
        ∧ (st.buf = [] → (s.streamFetch s.quay.cctx st st.seq).isOk = true → exec (.vmov o) s = stall (.vmov o) s)
        ∧ (∀ h, st.buf = [] → s.streamFetch s.quay.cctx st st.seq = .error h →
          exec (.vmov o) s = match h with
            | .page va => .next (s.slotFault (vSlot o) .handlePending (some va) true accR (some (pageOf va.toNat)))
            | .halt q => .next (s.park (.tidemark s.here q))
            | .fault f => .next (s.slotFault (vSlot o) f)
            | _ => stall (.vmov o) s))
      ∧ (∀ v, st.write = true → o.d = r → s.vSrc o o.a = .ok v → s.srcStream o o.a = [] →
        (s.streamBytes s.ctx.reacher st (st.seq * st.per) st.per).isOk = true →
        (st.out.length < 8 → ∃ t, exec (.vmov o) s = .next t
          ∧ t = (s.vResult o (some k) 2 v (BitVec.allOnes 256) 0).vBegin (.vmov o) o
          ∧ t.ctx.streams.get k = { st with seq := st.seq + 1, out := st.out ++ [(st.seq, v, BitVec.allOnes 256)] }
          ∧ SameBytes s t ∧ t.ctx.pend = s.ctx.pend)
        ∧ (8 ≤ st.out.length → exec (.vmov o) s = stall (.vmov o) s)))
  ∧ (
    ∀ (s : State) (i : Instr) (c : Nat) (o : VOp) (r : Fin 32) (k : Fin 8) (st : Stream), i.form = .v c o →
      s.ctx.guardHolds (vSlot o) o.g = true → s.tagReady o.tag = true → s.streamPending k.val = false →
      st = s.ctx.streams.get k → st.bound = true → st.inForce ≤ s.ctx.bidx →
      ((vUse i).a = .src → o.a = .reg r → streamOf o.second r = some k →
        (st.write = true ∨ st.count ≤ st.seq ∨ (st.indirect = true ∧ st.table = false)) →
        exec i s = .next (s.slotFault (vSlot o) .streamFault))
      ∧ ((vUse i).d = .reg → o.nd = false → streamOf (dstSecond i o) o.d = some k →
        ((vUse i).a = .src → ∃ v, s.vSrc o o.a = .ok v) → ((vUse i).b.isSrc o.func.val = true → ∃ v, s.vSrc o o.b = .ok v) →
        ((vUse i).c = true → ∃ v, s.vSrc o o.c = .ok v) →
        (st.write = false ∨ st.count ≤ st.seq ∨ (st.indirect = true ∧ st.table = false)) →
        exec i s = .next (s.slotFault (vSlot o) .streamFault)))
  ∧ (
    ∀ (i : Instr) (c : Nat) (o : VOp) (s t : State), i.form = .v c o → exec i s = .next t →
      let pops := fun (k : Fin 8) =>
        (if (vUse i).a = .src ∧ s.srcStream o o.a = [k] then 1 else 0)
          + (if (vUse i).b.isSrc o.func.val = true ∧ s.srcStream o o.b = [k] then 1 else 0)
      (∀ r k, s.srcStream o (.reg r) = [k] ↔ streamOf o.second r = some k ∧ s.streamPending k.val = false
        ∧ (s.ctx.streams.get k).bound = true ∧ (s.ctx.streams.get k).inForce ≤ s.ctx.bidx)
      ∧ ((s.ctx.guardHolds (vSlot o) o.g = false ∧ t = s)
        ∨ (∃ h, s.halted i (vSlot o) h = .next t)
        ∨ ∀ k st, st = s.ctx.streams.get k → ∃ new : List (VWord × MaskWord),
            t.ctx.streams.get k = { st with
              seq := st.seq + pops k + new.length, buf := st.buf.drop (pops k)
              out := st.out ++ new.map fun p => (st.seq, p.1, p.2) }
            ∧ new.length ≤ 1 ∧ (new.length = 1 ↔ s.vDst i o = .ok (some k))))

/-- R163, R164, R32 (that the stores perform in the operation's own step: log 12): a committing operation acts with
the strand's gated stores drained, and when no reduction of it waits for room (R402), with its drained ones performed
on every quay it has run on, but for those whose route is unusable; the mark then stands at the bundle to be
dispatched next, and it changes no byte itself. -/
def Obligations.CommittingOperations : Prop :=
  ∀ (s : State) (act : State → State), let u := act s.flush
    s.flush.ctx.gated = []
    ∧ (s.flushes = true → ∀ e ∈ s.flush.quays, ∀ g ∈ e.2.drained, g.owner = s.ctx.born →
        (s.flush.storePeers g).all s.flush.linkOk = false)
    ∧ (commit s act).ctx.mark = u.ctx.pc ∧ (commit s act).ctx.markIdx = u.ctx.lastIdx + 1
    ∧ (commit s act).ctx.regs = u.ctx.regs ∧ (commit s act).ctx.pend = u.ctx.pend ∧ SameBytes u (commit s act)
    ∧ SameElsewhere u (commit s act)

/-! ### Faults, legs and bundles -/

/-- R181: the fields of ST_FAULT. R182, R179: a vectored fault with vectoring enabled and no handler running: the
fault registers are written, HANDLER is set, the stores drain, the pc is ST_FAULTVEC's and its bundle is the mark;
registers and memory stay. -/
def Obligations.FaultEntry : Prop :=
  (
    ∀ f : FaultInfo, f.trap < 256 → f.tm < 64 → f.origin < 16 →
      field f.word.toNat 0 8 = f.code.code ∧ field f.word.toNat 8 6 = f.tm ∧ field f.word.toNat 16 4 = f.origin
      ∧ field f.word.toNat 20 1 = f.lit.toNat ∧ field f.word.toNat 24 8 = f.trap ∧ field f.word.toNat 14 2 = 0
      ∧ field f.word.toNat 21 3 = 0)
  ∧ (
    ∀ (s : State) (f : FaultInfo) (v : Word), (f.code = .softwareTrap ∨ f.code = .tableStale ∨ f.code = .manifestStale) →
      f.trans = false → f.va = some v → s.ctx.vecEn = true → s.ctx.handler = false → s.jetty.fused = false →
      let t := s.takeFault f
      t.ctx.handler = true ∧ t.ctx.pc = s.ctx.vecPc ∧ t.ctx.mark = s.ctx.vecPc ∧ t.ctx.markIdx = s.ctx.lastIdx + 1
      ∧ t.ctx.fault = f.word ∧ t.ctx.faultPc = f.pc ∧ t.ctx.faultVa = v ∧ t.ctx.gated = []
      ∧ t.quay.drained = s.quay.drained ++ s.ctx.gated ∧ t.ctx.queue = [] ∧ t.ctx.st = s.ctx.st
      ∧ t.ctx.regs = s.ctx.regs ∧ t.ctx.v = s.ctx.v ∧ t.ctx.w = s.ctx.w ∧ t.sysInbox = s.sysInbox ∧ SameBytes s t)

/-- R165 to R167, R67: a rollback restores the shadows of the mark, discards the gated stores, drops the loads issued
since the mark and sets the pc to the mark; the v and w files, the k and g masks, the sticky flags and memory are not
restored. R179, R184, R13: a system-class fault rolls the context back, makes it FAULTED, tells the system context
and, of the codes of its crew's faults, keeps the first. R167, R176, R179: a translation fault on a page that no
delivered range holds parks the context as a waiter on that page and joins the pager's batch. -/
def Obligations.RollbackAndStops : Prop :=
  (
    ∀ (s : State), s.ctx.effects = [] →
      let t := s.rollback
      t.ctx.regs = s.ctx.shadow ∧ t.ctx.gated = [] ∧ t.ctx.pend = [] ∧ t.ctx.latches = [] ∧ t.ctx.pc = s.ctx.mark
      ∧ t.ctx.loads = (s.ctx.loads.filter fun l => decide (l.bidx < s.ctx.markIdx)) ∧ t.ctx.queue = [] ∧ t.ctx.markIdx = s.ctx.lastIdx + 1
      ∧ (∀ n, t.ctx.rawReg (.v n) = s.ctx.landAll.rawReg (.v n) ∧ t.ctx.rawReg (.w n) = s.ctx.landAll.rawReg (.w n))
      ∧ (∀ n, t.ctx.rawReg (.k n) = s.ctx.landAll.rawReg (.k n) ∧ t.ctx.rawReg (.g n) = s.ctx.landAll.rawReg (.g n))
      ∧ t.ctx.fpflags = s.ctx.fpflags ∧ t.ctx.cwcol = s.ctx.cwcol ∧ t.ctx.seqEnd = false
      ∧ t.quay.drained = s.quay.drained ∧ SameBytes s t)
  ∧ (
    ∀ (s : State) (f : FaultInfo) (v : Word), isVectored f.code = false → isTranslation f.code = false → f.trans = false →
      f.va = some v → s.jetty.fused = false → s.ctx.effects = [] →
      let t := s.takeFault f
      t.ctx.st = .faulted ∧ t.ctx.fault = f.word ∧ t.ctx.faultPc = f.pc ∧ t.ctx.faultVa = v ∧ t.ctx.regs = s.ctx.shadow
      ∧ t.ctx.pc = s.ctx.mark ∧ t.ctx.gated = [] ∧ t.ctx.handler = s.ctx.handler
      ∧ t.sysInbox = s.sysInbox ++ [⟨f.code.code, s.here, s.quay.cctx.val, s.ctx.crew, v⟩]
      ∧ t.crews = (s.crews.map fun c =>
          if some c.id = s.ctx.crew ∧ c.firstFault = 0 then { c with firstFault := f.code.code } else c) ∧ SameBytes s t)
  ∧ (
    ∀ (s : State) (f : FaultInfo) (v : Word), f.code = .handlePending ∨ f.code = .fetchFault → f.va = some v → f.page = none →
      s.jetty.fused = false → s.ctx.effects = [] →
      (s.pager.delivered.any fun r => r.covers s.ctx.slice (v.toNat / 2 ^ 16)) = false →
      let t := s.takeFault f
      t.ctx.st = .parked ∧ t.ctx.waitOn = .page s.ctx.slice (v.toNat / 2 ^ 16) s.pager.nextFault ∧ t.ctx.regs = s.ctx.shadow
      ∧ t.ctx.pc = s.ctx.mark ∧ t.ctx.fault = f.word
      ∧ t.pager.batch = s.pager.batch ++ [⟨s.ctx.slice, v.toNat / 2 ^ 16, f.access, .context s.here s.quay.cctx.val, s.pager.nextFault
          , f.hd.bind fun i => if (s.ctx.regs.h.get i).pend then some (s.ctx.regs.h.get i).ticket else none⟩]
      ∧ t.pager.nextFault = s.pager.nextFault + 1 ∧ t.ctx.waitHd = f.hd
      ∧ t.sysInbox = s.sysInbox ∧ SameBytes s t)

/-- R89, R141, R46: a header wait is satisfied when the generation is far enough ahead, behind the strand's loads, and
on a crew bollard it acquires at device scope (what an acquire drops: log 117); it faults when it is 32,768 ahead, and
otherwise waits, at a leg's start as a WAITING context; a header post, a release, waits for the loads and for room for
the strand's reductions (R402), commits and posts. R168: a header wait of 4,096 cycles that only commands held behind
a tidemark in HALT could end parks its context as that tidemark's waiter; nothing happens where none has timed out. -/
def Obligations.HeaderActions : Prop :=
  (
    ∀ (s : State) (b : Fin 64) (n lag : Nat), lag = ((s.bollard s.here b.val).gen - vget 0 s.ctx.regs.seen b.val).toNat →
      let waits := s.setCtx { s.ctx with
        waitCycles := if s.ctx.waitCycles = 0 then s.quay.cycle.toNat + 1 else s.ctx.waitCycles }
      let e : QEntry := ⟨.event (.headerWait b n), s.ctx.bidx, s.ctx.curPos, s.ctx.curPc, s.ctx.curLit, s.ctx.curBases⟩
      (lag < 32768 → n ≤ lag → s.unbound = false → s.lockedCtx = none → ∃ t, exec (.headerWait b n) s = .next t
        ∧ t.ctx = { s.ctx with
            regs := { s.ctx.regs with seen := s.ctx.regs.seen.set b.val (s.ctx.regs.seen.get b + BitVec.ofNat 16 n) }
            waitCycles := 0, legStart := false }
        ∧ ((s.bollard s.here b.val).crew.isSome = true → t.quay.l1 = []) ∧ t.l2 = s.l2 ∧ SameBytes s t ∧ SameElsewhere s t)
      ∧ (lag < 32768 → n ≤ lag → s.unbound = true ∨ s.othersReady = false → exec (.headerWait b n) s = stall (.headerWait b n) s)
      ∧ (32768 ≤ lag → exec (.headerWait b n) s = .next (s.takeFault
          { code := .bollardOverflow, origin := 7, pc := s.ctx.curPc, lit := s.ctx.curLit }))
      ∧ (lag < n → lag < 32768 → s.ctx.legStart = false → exec (.headerWait b n) s = stall (.headerWait b n) waits)
      ∧ (lag < n → lag < 32768 → s.ctx.legStart = true → s.ctx.asyncs = [] → (∀ f ∈ s.ctx.queue, e.ahead f = true) →
          ∃ t, exec (.headerWait b n) s = .next t ∧ (t.quay.ctx s.quay.cctx).st = .waiting
            ∧ (t.quay.ctx s.quay.cctx).queue = e :: s.ctx.queue ∧ (t.quay.ctx s.quay.cctx).regs = s.ctx.regs)
      ∧ (s.unbound = false → s.flushes = true → exec (.headerPost b n) s = .next (commit s fun u => u.post u.here b.val n))
      ∧ (s.unbound = true ∨ s.flushes = false → exec (.headerPost b n) s = stall (.headerPost b n) s)
      ∧ (s.unbound = true ↔ ∃ l ∈ s.ctx.loads, ∀ q r i, l.form ≠ .tm q r i))
  ∧ (
    ∀ (s : State),
      (∀ n q t, s.timedOut = some (n, q, t) → ∃ u, exec .headerWaitHaltTimeout s = .next u ∧ SameBytes s u
        ∧ (u.quay.ctx n).st = .parked ∧ (u.quay.ctx n).waitOn = .tidemark q t)
      ∧ (s.timedOut = none → exec .headerWaitHaltTimeout s = .next s))

/-- R156, R155, R164: a yield drains the gated stores and marks the next bundle; the context is WAITING where the
header wait of its next bundle is not satisfied (read from its code at the yield: log 121), else READY; the first
READY context in ascending order from the one after it, wrapping at 7, becomes ACTIVE with the watchdog at 0, itself
the last to be considered. R158, R183: the watchdog fires when the leg's count reaches ST_WDLIMIT, 0 standing for
2^32, at the oldest bundle that some slot has not retired (ORIGIN 7: log 32); an asynchronous fault is taken at the
next boundary with its own code, tidemark, origin and address. R168 to R172: a PARKED context whose writes have landed
and that has nothing outstanding writes its image into the lowest free one, its record keeping the mark, and becomes
DORMANT; without a free image it stays. The pool's base is a device virtual address where some page holds it, else a
host-physical one (log 71). R186: DECOUPLE ends lock-step; at a REJOIN the fused context of a quay (in another one it
has no effect: log 122), in lock-step or not, raises its line and waits, and with all four lines high the waiting
quays dispatch their REJOIN and are in lock-step again; in a jetty that is not fused it does nothing. -/
def Obligations.LegsAndLockstep : Prop :=
  (
    ∀ (s : State) (c : Fin 8), c = s.quay.cctx → s.ctx.st = .active → s.lockedCtx = none → (∀ n, (s.quay.ctx n).st ≠ .waiting) →
      s.crewHeld s.ctx.crew = false →
      let ready := fun (n : Fin 8) => (s.quay.ctx n).st = .ready ∧ s.crewHeld (s.quay.ctx n).crew = false
      ∃ t, exec .yieldLeg s = .next t ∧ SameBytes s t ∧ t.quay.drained = s.quay.drained ++ s.ctx.gated
        ∧ (t.quay.ctx c).gated = [] ∧ (t.quay.ctx c).mark = s.ctx.pc ∧ (t.quay.ctx c).win = s.quay.dictwin
        ∧ (∀ k : Fin 8, k ≠ 0 → ready (c + k) → (∀ j : Fin 8, j ≠ 0 → j < k → ¬ ready (c + j)) →
            t.quay.cctx = c + k ∧ t.ctx.st = .active ∧ t.ctx.wdCount = 0
            ∧ (t.quay.ctx c).st = (if t.waitOver t.here (t.quay.ctx c) then .ready else .waiting))
        ∧ ((∀ k : Fin 8, k ≠ 0 → ¬ ready (c + k)) →
            t.quay.cctx = c ∧ t.ctx.st = (if t.waitOver t.here t.ctx then .active else .waiting) ∧ t.ctx.wdCount = 0)
        ∧ (t.waitOver t.here (t.quay.ctx c) = false ↔ s.ctx.asyncs = [] ∧
            ∃ b n, t.waitAt t.here (t.quay.ctx c) = some (b, n) ∧ t.lagOf t.here (t.quay.ctx c) b.val < n))
  ∧ (
    ∀ (s : State), s.ctx.st = .active →
      ((if s.ctx.wdlimit = 0 then 2 ^ 32 else s.ctx.wdlimit.toNat) ≤ s.ctx.wdCount → ∀ e r, s.ctx.queue = e :: r →
        exec .watchdog s = .next (s.takeFault { code := .watchdog, origin := 7, pc := e.pc, lit := e.lit }))
      ∧ (s.ctx.wdCount < (if s.ctx.wdlimit = 0 then 2 ^ 32 else s.ctx.wdlimit.toNat) → exec .watchdog s = .next s)
      ∧ (∀ a r, s.ctx.asyncs = a :: r → s.deciding = false → s.ctx.queue = [] → s.ctx.seqEnd = false →
          (s.ctx.codeWord s.ctx.pc.toNat).isSome = true → exec .asyncFaultTaken s = .next ((s.setCtx { s.ctx with asyncs := r }).takeFault
            { code := a.code, origin := a.origin, tm := a.tm, pc := s.ctx.pc, lit := s.ctx.litAtPc
              va := some (BitVec.ofNat 64 (a.pc.toNat + a.index.toNat * 2 ^ 32)) })))
  ∧ (
    ∀ (s : State) (n : Fin 8) (no : Nat) (c : Context), c = s.quay.ctx n → c.st = .parked → c.loads = [] → c.xlates = [] →
      c.streamsBusy = false → c.asyncs = [] → c.pend = [] → c.effects = [] → s.jetty.fused = false →
      (s.poolInHbm = true → s.host.hbmFail = 0 ∧ s.host.hbmReady = 0xFF) →
      (s.freeImage s.imageCount = some no → s.waitEnded c.waitOn = false → ∃ t img, exec (.pagerWaiterImageWrite n) s = .next t
        ∧ (t.quay.ctx n).st = .dormant ∧ img ∈ t.images ∧ img.no = no ∧ img.ctx = c ∧ img.waitOn = c.waitOn
        ∧ img.mooring.resume = c.mark ∧ img.resolved = false
        ∧ t.mem = (s.writePool no 0 (c.imageBytes c.mark)).mem)
      ∧ s.poolInHbm = decide (s.normPhys (s.softPhys s.host.imgBase.toNat) < 0xC000000000)
      ∧ (s.freeImage s.imageCount = none → exec (.pagerWaiterImageWrite n) s = .next s))
  ∧ (
    ∀ (s : State),
      (s.jetty.fused = true → ∃ t, exec .decouple s = .next t ∧ t.jetty.members = 0 ∧ t.jetty.fused = true ∧ t.ctx = s.ctx
        ∧ SameBytes s t)
      ∧ (s.ctx.born ≠ vget 0 s.jetty.fborn (s.here % 4) → exec .rejoin s = .next s)
      ∧ (∀ j, s.jetty.fused = true → s.ctx.born = vget 0 s.jetty.fborn (s.here % 4) → j = s.jetty.rejoin ||| BitVec.twoPow 4 (s.here % 4) →
          let u := s.setJetty { s.jetty with rejoin := j }
          ((List.range 4).all u.rejoinHigh = true → ∃ t, exec .rejoin s = .next t ∧ t.jetty.members = j ∧ t.jetty.rejoin = 0
            ∧ SameBytes s t)
          ∧ ((List.range 4).all u.rejoinHigh = false → exec .rejoin s = stall .rejoin u))
      ∧ (s.jetty.fused = false → exec .rejoin s = .next s ∧ exec .decouple s = .next s))

/-- R77, R82, R83: the bundle at the pc from the fetched code words: the dictionary entry that a word names in the
strand's window, a literal bundle of 24 words behind 0xFFFE, or a fault: reserved, or beyond the window or the store.
R89, R101, R159, R79: the dispatch of a bundle by an ACTIVE context whose slots have retired everything: its actions
enter the queues in the order of their places, the pc moves past it, with MK the stores drain and it is the mark,
whose shadow holds every earlier operation (R164, R165); a word or bundle that a check refuses takes that check's
fault (its ORIGIN: log 32), as does a pc that has run past the last code word (log 29). R77 to R79, R183: a code line
that is mapped executable in HBM arrives with the bytes of memory; a fetch that the next bundle needs from an unmapped
page faults (ORIGIN 7: log 32), once program order has reached it, before an asynchronous fault that waits for the
bundle's first code word. -/
def Obligations.BundleDispatch : Prop :=
  (
    ∀ (s : State) (w e : Nat), s.ctx.held = [] → s.ctx.missingLine = none → s.ctx.codeWord s.ctx.pc.toNat = some w →
      s.ctx.dictMismatch = false → e = 16 * winBase s.ctx.win s.ctx.regs.dictsel.toNat + w →
      let inside : Prop := w < 16 * winSize s.ctx.win s.ctx.regs.dictsel.toNat ∧ e < 4096
      (w < 0xFFF0 → inside → s.nextBundle = some (.ok (sparseGet 0 s.quay.dict e), false))
      ∧ (w < 0xFFF0 → ¬ inside → s.nextBundle = some (.error .dictRange, false))
      ∧ (0xFFF0 ≤ w → w ≠ 0xFFFE → s.nextBundle = some (.error .codeReserved, false))
      ∧ (w = 0xFFFE → ∃ raw, s.nextBundle = some (.ok raw, true)
          ∧ ∀ i, i < 24 → raw.toNat / 2 ^ (16 * i) % 2 ^ 16 = ((s.ctx.codeWord (s.ctx.pc.toNat + 1 + i)).getD 0) % 2 ^ 16))
  ∧ (
    ∀ (s : State), s.ctx.st = .active → s.ctx.queue = [] → s.ctx.effects = [] → s.lockedCtx = none → s.ctx.asyncs = [] →
      s.crewHeld s.ctx.crew = false →
      let u := s.settle (s.ctx.lastIdx + 1)
      let faults := fun (v : State) (c : FaultCode) (lit : Bool) =>
        exec .bundleDispatch s = .next (v.takeFault { code := c, origin := 7, pc := s.ctx.pc, lit := lit }).tick
      (∀ raw lit b, s.ctx.seqEnd = false → u.nextBundle = some (.ok raw, lit) → decodeBundle raw.toNat = .ok b →
        (b.hdr.vj = true → s.ctx.streamsBusy = false) →
        ∃ t, exec .bundleDispatch s = .next t ∧ t.ctx.pc = s.ctx.pc + (if lit then 25 else 1) ∧ t.ctx.lastIdx = s.ctx.lastIdx + 1
          ∧ t.ctx.lastPc = s.ctx.pc ∧ t.ctx.regs = u.ctx.regs ∧ t.quay.cycle = s.quay.cycle + 1 ∧ SameBytes s t
          ∧ (b.hdr.mark = false → t.ctx.mark = s.ctx.mark ∧ t.ctx.markIdx = s.ctx.markIdx ∧ t.ctx.shadow = s.ctx.shadow
              ∧ t.ctx.gated = s.ctx.gated ∧ t.quay.drained = s.quay.drained)
          ∧ (b.hdr.mark = true → t.ctx.mark = s.ctx.pc ∧ t.ctx.markIdx = s.ctx.lastIdx + 1 ∧ t.ctx.gated = []
              ∧ t.quay.drained = s.quay.drained ++ s.ctx.gated
              ∧ t.ctx.shadow = { u.ctx.landAll.regs with streamPos := Vector.ofFn fun i => (s.ctx.streams.get i).seq })
          ∧ (t.ctx.queue.Pairwise fun e f => e.pos ≤ f.pos)
          ∧ ∀ e, e ∈ t.ctx.queue ↔ (e.pos, e.what) ∈ bundleItems b
              ∧ e = ⟨e.what, s.ctx.lastIdx + 1, e.pos, s.ctx.pc, lit, u.ctx.regs.bases⟩)
      ∧ (∀ f lit, s.ctx.seqEnd = false → u.nextBundle = some (.error f, lit) →
          faults (u.setCtx { u.ctx with dictMismatch := false }) f lit)
      ∧ (∀ raw lit f, s.ctx.seqEnd = false → u.nextBundle = some (.ok raw, lit) → decodeBundle raw.toNat = .error f → faults u f lit)
      ∧ (s.ctx.seqEnd = true → ∃ va, exec .bundleDispatch s = .next (u.takeFault
          { code := .fetchFault, origin := 7, va := some va, pc := s.ctx.pc, lit := false, access := 12 }).tick))
  ∧ (
    ∀ (s : State) (line : Nat), s.ctx.st = .active →
      (∀ m, s.translate s.ctx.slice (line * 64) = some m → m.x = true → s.memType (mapPhys m (line * 64)) = .ok .hbm →
        s.host.hbmFail = 0 → s.host.hbmReady = 0xFF →
        ∃ t, exec (.codeFetch line) s = .next t ∧ SameBytes s t ∧ t.ctx.regs = s.ctx.regs
          ∧ ∃ d, t.ctx.lines.head? = some (line, d)
              ∧ ∀ i, i < 64 → d.toNat / 2 ^ (8 * i) % 256 = (s.readByte (mapPhys m (line * 64) + i)).toNat)
      ∧ (s.translate s.ctx.slice (line * 64) = none → s.ctx.queue = [] → s.ctx.seqEnd = false → s.frontHeld = false →
          (s.ctx.asyncs = [] ∨ s.ctx.fetched = false) → s.ctx.missingLine = some line →
          exec (.codeFetch line) s = .next (s.takeFault { code := .fetchFault, origin := 7, pc := s.ctx.pc
                                                          lit := s.ctx.litAtPc, access := 12
                                                          va := some (BitVec.ofNat 64 (line * 64 / 2 ^ 16 * 2 ^ 16)) }))
      ∧ (s.translate s.ctx.slice (line * 64) = none → s.ctx.queue ≠ [] → exec (.codeFetch line) s = .next s))

/-! ### Commands and engines -/

/-- R22, R24, R163, R238: a command whose operands can be read enters the dock, which commits, with its operands, its
pc and its strand, and is issued; with no room, or while a reduction of its strand waits for room (R402), it waits in
its slot queue. CPMM takes two places and the e registers that its follow-on names. R347: FUTW is issued as a command
and then, at the end of its bundle, its strand suspends: its record is on its way to the future, and the context is
free. It waits for values of x0 to x5 on their way (R116). -/
def Obligations.CommandsEnterTheDock : Prop :=
  (
    ∀ (s : State) (o : EOp) (a b : Word),
      (∀ f ∈ queuedForms, (f.1 o).wf = true →
        (EIssues s o f.2.1 f.2.2 a b 1 → ∃ t d, exec (f.1 o) s = .next t ∧ t.quay.dock = s.quay.dock ++ [d]
          ∧ IsIssued s (f.1 o) a b d ∧ d.follow = none ∧ Committed s t ∧ t.quay.nextSeq = s.quay.nextSeq + 1)
        ∧ (EOperands s o f.2.1 f.2.2 a b → s.quay.dockUsed + 1 > 32 ∨ s.flushes = false → exec (f.1 o) s = stall (f.1 o) s))
      ∧ ((Instr.cpmm o).wf = true →
        let n := Fin.ofNat 16 (EFields.ofWord b.toNat).pa
        let m := Fin.ofNat 16 (EFields.ofWord b.toNat).pb
        (∀ a2 b2, EIssues s o false true a b 2 → EReads s true n a2 → EReads s true m b2 →
          ∃ t d, exec (.cpmm o) s = .next t ∧ t.quay.dock = s.quay.dock ++ [d] ∧ IsIssued s (.cpmm o) a b d
            ∧ d.follow.isSome = true ∧ d.pa2 = a2 ∧ d.pb2 = b2 ∧ Committed s t ∧ t.quay.dockUsed = s.quay.dockUsed + 2)
        ∧ (EOperands s o false true a b → s.quay.dockUsed + 2 > 32 → exec (.cpmm o) s = stall (.cpmm o) s)
        ∧ (∀ a2 b2, EOperands s o false true a b → EReads s true n a2 → EReads s true m b2 → s.flushes = false →
          exec (.cpmm o) s = stall (.cpmm o) s)))
  ∧ (
    ∀ (s : State) (o : EOp) (a : Word),
      ((Instr.futw o).wf = true → EIssues s o true false a 0 1 → s.ctx.futw = none → s.ctx.streamsBusy = false → NewSeq s →
        ∃ t d, exec (.futw o) s = .next t ∧ t.quay.dock = s.quay.dock ++ [d] ∧ IsIssued s (.futw o) a 0 d
          ∧ t.ctx.futw = some (s.quay.nextSeq, o.func.toNat % 4) ∧ t.ctx.regs = s.ctx.regs)
      ∧ (∀ n aff d, s.ctx.futw = some (n, aff) → InDock s n d → s.jetty.fused = false → s.ctx.recordBusy = false →
          ∃ t, exec (.futw o) s = .next t
            ∧ t.futOps = s.futOps ++ [.wait s.here n d.slice d.pa.toNat (s.suspRecord aff)]
            ∧ (t.quay.ctx s.quay.cctx).st = .dormant ∧ (t.quay.ctx s.quay.cctx).futw = none)
      ∧ (s.ctx.futw.isSome = true → s.ctx.recordBusy = true → exec (.futw o) s = stall (.futw o) s))

/-- R284, R292, R308, R412, R413: routing registers, the status of table registers and attached commands, which act at
their issue. A check that fails halts the command with its fault, at index 0xFFFF_FFFF (log 36); RTESET's landing
check is one of length 0 (log 79). -/
def Obligations.CommandsAtIssue : Prop :=
  ∀ (s : State) (o : EOp) (a b : Word), NewSeq s → s.ctx.st ≠ .dormant →
    let k := o.func.toNat % 64
    let u := commit s fun u => u
    ((Instr.cldis o).wf = true → EIssues s o false false 0 0 1 → ∃ t, exec (.cldis o) s = .next t
      ∧ CompletedNow s t o ∧ (vget {} t.quay.bols k).armed = [])
    ∧ ((Instr.rtesetClr o).wf = true → EIssues s o false false 0 0 1 → ∃ t, exec (.rtesetClr o) s = .next t
      ∧ CompletedNow s t o ∧ vget none t.quay.rtes (o.func.toNat % 8) = none)
    ∧ ((Instr.rteset o).wf = true → EIssues s o true true a b 1 →
        (field a.toNat 39 25 = 0 → s.landingCheck s.ctx.slice (a &&& ~~~(BitVec.twoPow 64 38)) 0 = none →
          ∃ t r, exec (.rteset o) s = .next t ∧ CompletedNow s t o ∧ vget none t.quay.rtes (o.func.toNat % 8) = some r
            ∧ r.dev = field a.toNat 0 6 ∧ r.quay = field a.toNat 6 9 ∧ r.base = field a.toNat 16 22
            ∧ r.h = a.getLsbD 38 ∧ r.pc = b.setWidth 32 ∧ r.x3.toNat = field b.toNat 32 32)
        ∧ (field a.toNat 39 25 ≠ 0 → ∃ t, exec (.rteset o) s = .next t ∧ HaltedNow s t .reservedField
            ∧ t.quay.rtes = s.quay.rtes)
        ∧ (field a.toNat 39 25 = 0 → ∀ c i,
            s.landingCheck s.ctx.slice (a &&& ~~~(BitVec.twoPow 64 38)) 0 = some (c, i) →
            ∃ t, exec (.rteset o) s = .next t ∧ HaltedNow s t c ∧ t.quay.rtes = s.quay.rtes))
    ∧ ((Instr.tstat o).wf = true → EIssues s o true false a 0 1 →
        (a.toNat < 2 ^ 22 → a.toNat % 64 = 0 → ∀ w,
          u.writeAt s.ctx.reacher true false a.toNat 64
            ((List.range 32).flatMap fun n => leBytes 16 ((u.tab n).status (u.tabClaimed n))) = .ok w →
          ∃ t, exec (.tstat o) s = .next t ∧ CompletedNow s t o ∧ ∀ off, t.quay.spByte off = w.quay.spByte off)
        ∧ (2 ^ 22 ≤ a.toNat → ∃ t, exec (.tstat o) s = .next t ∧ HaltedNow s t .reservedField)
        ∧ (a.toNat < 2 ^ 22 → a.toNat % 64 ≠ 0 → ∃ t, exec (.tstat o) s = .next t ∧ HaltedNow s t .misaligned))
    ∧ ((Instr.clarm o).wf = true → EIssues s o true false a 0 1 →
        let y := vget {} s.quay.bols k
        (∀ f ∈ armForms, ∀ p x z, decodeSlot .e a.toNat = .ok (some (f.1 p)) → p.g = .always → p.tag = 0 →
          EReads s f.2.1 p.pa x → EReads s f.2.2 p.pb z →
          (y.crew = none → y.armed.length < 2 → ∃ t, exec (.clarm o) s = .next t ∧ CompletedNow s t o
            ∧ (vget {} t.quay.bols k).armed.length = y.armed.length + 1
            ∧ (o.bol = 0 → ∃ q, (vget {} t.quay.bols k).armed = y.armed ++ [q] ∧ q.op = f.1 p ∧ q.pa = x ∧ q.pb = z
                ∧ q.once = o.func.getLsbD 6 ∧ q.pending = 0))
          ∧ (y.crew ≠ none → ∃ t, exec (.clarm o) s = .next t ∧ HaltedNow s t .permission ∧ t.quay.bols = s.quay.bols)
          ∧ (y.crew = none → 2 ≤ y.armed.length → ∃ t, exec (.clarm o) s = .next t ∧ HaltedNow s t .bollardOverflow
              ∧ t.quay.bols = s.quay.bols))
        ∧ (slotInstr .e a.toNat = none → ∃ t, exec (.clarm o) s = .next t ∧ HaltedNow s t .illegalOp
            ∧ t.quay.bols = s.quay.bols))

/-- R247, R283, R284, R293, R294: BTHSET places a berth over a tidemark, BTHSET.REL ends it, BTHPOP claims tiles at
its issue and pops those that the tail covers, in order. -/
def Obligations.BerthCommands : Prop :=
  ∀ (s : State) (o : EOp) (a : Word) (r : Layout) (b : Nat), NewSeq s → s.ctx.st ≠ .dormant →
    let m := s.tm o.tm.val
    let quiet := (∀ d ∈ s.quay.dock, o.tm.val ∉ d.chases) ∧ ∀ e ∈ s.quays, ∀ d ∈ e.2.dock, d.away ≠ some (s.here, o.tm.val)
    ((Instr.bthset o).wf = true → EIssues s o true false a 0 1 → Cached s o.da.val r → r.berth? = some b → b < 16 →
      field r.base 4 59 = 0 → m.fol = false → field a.toNat 22 10 = 0 → field a.toNat 56 8 = 0 → field a.toNat 48 8 ≠ 0 →
      0 ≤ r.lowest → r.highest ≤ slotBytes a → (s.berthAt b).placed = false →
      m.takable = true → ¬(m.pub = true ∧ m.st = .done) → quiet → ∃ t, exec (.bthset o) s = .next t ∧ CompletedNow s t o
        ∧ t.berthAt b = { placed := true, setBy := some (.command s.quay.nextSeq), tail := o.tm.val, base := field a.toNat 0 22, slotSize := slotBytes a
                          slots := field a.toNat 48 8, tile := r.count, layout := r }
        ∧ (t.tm o.tm.val).st = .run ∧ (t.tm o.tm.val).value = 0 ∧ (t.tm o.tm.val).endv = 2 ^ 32 - 1)
    ∧ ((Instr.bthsetRel o).wf = true → EIssues s o false false 0 0 1 → Cached s o.da.val r → r.berth? = some b → b < 16 →
      field r.base 4 59 = 0 → (s.berthAt b).placed = true → (s.berthAt b).tail = o.tm.val →
      let x := s.berthAt b
      (x.h = x.w → x.w = x.c → m.fol = false → m.chasers = 0 → ¬(m.pub = true ∧ m.value ≠ 0) →
        ∃ t, exec (.bthsetRel o) s = .next t ∧ CompletedNow s t o ∧ t.berthAt b = {} ∧ (t.tm o.tm.val).st = .idle)
      ∧ (¬(x.h = x.w ∧ x.w = x.c) → ∃ t, exec (.bthsetRel o) s = .next t ∧ HaltedNow s t .berthOverrun
          ∧ t.berthAt b = x))
    ∧ ((Instr.bthpop o).wf = true → EIssues s o false false 0 0 1 →
      let n := o.func.toNat % 16
      let k := o.func.toNat / 16
      let x := s.berthAt n
      (x.placed = false → ∃ t, exec (.bthpop o) s = .next t ∧ HaltedNow s t .berthOverrun ∧ t.berthAt n = x)
      ∧ (x.placed = true → (s.tm x.tail).st ≠ .abandon → x.h ≠ x.c ∨ (s.tm x.tail).value < (x.c + 1) * x.tile →
          ∃ t d, exec (.bthpop o) s = .next t ∧ InDock t s.quay.nextSeq d ∧ d.phase = .waiting ∧ d.tileA = x.c
            ∧ Committed s t ∧ t.berthAt n = { x with c := x.c + (k + 1) })
      ∧ (x.placed = true → (s.tm x.tail).st ≠ .abandon → x.h = x.c → k = 0 → (x.c + 1) * x.tile ≤ (s.tm x.tail).value →
          x.popped = [] → ∃ t, exec (.bthpop o) s = .next t ∧ CompletedNow s t o
            ∧ t.berthAt n = { x with c := x.c + 1, h := x.h + 1 }))

/-- R184, R237, R243, R255, R373: what the system context does: a tidemark it abandons, a page it reclaims, a strand
it ends or resumes (a turn of the system context runs TMSET.ABANDON and PGFREE.RECLAIM at once, with the e registers
of the quay's current context: log 52), a command it resumes: from its tidemark's VALUE, or where a home or a quay
acknowledges its elements, behind those it has sent. -/
def Obligations.SystemContextActs : Prop :=
  ∀ (s : State),
    (∀ o : EOp, s.system = true → (s.tm o.tm.val).fol = false → s.writerOf s.here o.tm.val = none →
      ∃ t, exec (.tmsetAbandon o) s = .next t
        ∧ (t.tm o.tm.val).st = (match (s.tm o.tm.val).st with
            | .run | .halt => .abandon
            | st => st)
        ∧ (t.tm o.tm.val).value = (s.tm o.tm.val).value)
    ∧ (∀ o : EOp, s.system = true → (s.tm o.tm.val).fol = true → ∃ t, exec (.tmsetAbandon o) s = .next t
        ∧ t.quay.tms = s.quay.tms ∧ t.sysInbox.length = s.sysInbox.length + 1)
    ∧ (∀ (o : EOp) (a : Word) h, s.system = true → s.ctx.getWord .e (.e o.pa) = .ok a → a.toNat < 2 ^ 26 →
        let n := a.toNat % 2 ^ 20
        let p := a.toNat / 2 ^ 22 % 16 * 4 + a.toNat / 2 ^ 20 % 4
        (s.pool p).en = true → (s.pool p).threading = false → n < (s.pool p).npages → s.hdr p n = .ok h → h.free = false → ∀ ls,
        s.poolLocs p true ((s.pool p).hdr.toNat + 32 * n) 32 = .ok ls →
        ∃ t, exec (.pgfreeReclaim o) s = .next t ∧ (t.pool p).freehead = BitVec.ofNat 32 n
          ∧ (t.pool p).freecnt = (s.pool p).freecnt + 1
          ∧ (∀ e, e ∈ (t.pfxOf p).entries ↔ e ∈ (s.pfxOf p).entries ∧ ¬(e.page = n ∧ poolNo e.slice e.pool = p))
          ∧ t.mem = (s.pokeLocs ls
              { ref := 0, free := true, gen := h.gen + 1, next := (s.pool p).freehead.toNat : PageHdr }.bytes).mem)
    ∧ (∀ o : EOp, s.system = false → exec (.tmsetAbandon o) s = issueE (.tmsetAbandon o) o s
        ∧ exec (.pgfreeReclaim o) s = issueE (.pgfreeReclaim o) o s)
    ∧ (∀ n : Fin 8, (s.quay.ctx n).st = .faulted →
        (∃ t, exec (.systemEndStrand n) s = .next t ∧ (t.quay.ctx n).st = .dormant ∧ SameBytes s t)
        ∧ ∃ t, exec (.systemResumeStrand n) s = .next t ∧ (t.quay.ctx n).st = .ready
            ∧ (t.quay.ctx n).pc = (s.quay.ctx n).mark ∧ (t.quay.ctx n).regs = (s.quay.ctx n).regs ∧ SameBytes s t
            ∧ (∀ m, m ≠ n → t.quay.ctx m = s.quay.ctx m))
    ∧ (∀ n : Fin 8, (s.quay.ctx n).st ≠ .faulted →
        exec (.systemEndStrand n) s = .next s ∧ exec (.systemResumeStrand n) s = .next s)
    ∧ (∀ n d, InDock s n d → d.phase = .halted → d.taken = false → d.berth = none →
        ∃ t e, exec (.systemResumeCommand n) s = .next t ∧ InDock t n e ∧ e.phase = (if d.entered then .waiting else .issued)
          ∧ e.count = d.count ∧ SameBytes s t)
    ∧ (∀ n d, InDock s n d → d.phase = .halted → d.taken = true → d.berth = none → d.sends = false → d.opc ≠ 0x18 → s.holds d = true →
        (s.tm d.o.tm.val).st = .halt → ∃ t e, exec (.systemResumeCommand n) s = .next t ∧ InDock t n e
          ∧ e.count = (s.tm d.o.tm.val).value - d.tailBase ∧ (t.tm d.o.tm.val).st = .run)
    ∧ (∀ n d, InDock s n d → d.phase = .halted → d.sends = true → ∃ t e, exec (.systemResumeCommand n) s = .next t
        ∧ InDock t n e ∧ e.count = d.count ∧ e.phase = (if d.entered then .waiting else .issued))

/-- R183, R227, R237: a command that faults halts with the fault, keeps its entry, its claims and its chaser
registrations (log 39); a tidemark whose run is its own halts at the index; its strand is told asynchronously, in its
context or in the image that holds it (log 30), and else the system context is told. R227, R238: a command enters the
dock in issue order once its checks pass, and waits; one that a check refuses halts without an index (0xFFFF_FFFF: log
36). A KV command's checks go on over its block table (R364). -/
def Obligations.CommandsEnterAndHalt : Prop :=
  (
    ∀ (s : State) (n i : Nat) (c : FaultCode) (d : DockEntry), InDock s n d →
      let t := s.cmdFault n c i
      InDock t n { d with phase := .halted, fcode := c.code, findex := i }
      ∧ (∀ m e, m ≠ n → InDock s m e → InDock t m e) ∧ SameBytes s t
      ∧ (d.instance? = false → d.taken = true → d.berth = none → (s.tm d.o.tm.val).writer = some (.command n) →
          (s.tm d.o.tm.val).st = .run → (t.tm d.o.tm.val).st = .halt
          ∧ (t.tm d.o.tm.val).fcode = c.code ∧ (t.tm d.o.tm.val).findex = i ∧ (t.tm d.o.tm.val).value = (s.tm d.o.tm.val).value)
      ∧ (d.instance? = false → d.berth = none → d.taken = false ∨ (s.tm d.o.tm.val).writer ≠ some (.command n) →
          t.quay.tms = s.quay.tms)
      ∧ (∀ q k, s.strandAt d.owner = .ctx q k → ((t.quayAt q).ctx k).asyncs
            = ((s.quayAt q).ctx k).asyncs ++ [⟨c, d.o.tm.val, d.pc, BitVec.ofNat 32 i, 8⟩] ∧ t.sysInbox = s.sysInbox)
      ∧ (∀ m, s.strandAt d.owner = .image m → t.sysInbox = s.sysInbox ∧ ∀ x ∈ s.images, x.no = m → ∃ y ∈ t.images, y.no = m
          ∧ y.ctx.asyncs = x.ctx.asyncs ++ [⟨c, d.o.tm.val, d.pc, BitVec.ofNat 32 i, 8⟩])
      ∧ (s.strandAt d.owner = .gone → t.sysInbox.length = s.sysInbox.length + 1))
  ∧ (
    ∀ (s : State) (n : Nat) (d : DockEntry), InDock s n d →
      (d.phase = .issued → (∀ e ∈ s.quay.dock, e.phase = .issued → n ≤ e.seq) →
        (∀ u, dockChecks d s = .ok u → (d.isKv = true → kvTable d u = .ok ()) → ∀ e, InDock u n e → e.rank = 0 → ∃ t, exec (.commandDockEntry n) s = .next t
          ∧ InDock t n { e with entered := true, phase := .waiting, rank := u.quay.nextRank + 1
                                waited := u.quay.cycle.toNat, walkAt := some 4096 })
        ∧ (∀ u h i, dockChecks d s = .ok u → d.isKv = true → kvTable d u = .error (h, i) → h ≠ .wait →
            exec (.commandDockEntry n) s = .next ((s.rankCmd n).stopAt n h i))
        ∧ (∀ c, dockChecks d s = .error c → exec (.commandDockEntry n) s = .next ((s.rankCmd n).cmdFault n c noIndex)))
      ∧ (d.phase ≠ .issued ∨ (∃ e ∈ s.quay.dock, e.phase = .issued ∧ e.seq < n) → exec (.commandDockEntry n) s = .next s))

/-- R255 to R258, R260, R261, R289, R305, R306, R313, R410, R415: a waiting command without elements acts and
completes at its turn: its entry leaves the dock. R232, R233, R237, R239: a waiting command of an engine starts once
the source that its first element reads is covered: a copy takes its tidemark, with VALUE 0 in RUN and END the
elements of its record. A source that is abandoned is its fault, and so are a publisher at DONE and a tidemark that
has become a follower (R245). R228, R241, R242: a cached record's word is read again; a chaser held behind a HALT for
more than 4,096 cycles frees its unit; the youngest command of a cycle of waits faults (from when the 4,096 cycles
count: log 40; that a walk which returned is not made again: log 75). -/
def Obligations.CommandsStartAndComplete : Prop :=
  (
    ∀ (s : State) (n : Nat) (d : DockEntry), MayGo s n d → d.chases = [] →
      let m := s.tm d.o.tm.val
      let at64 := field d.pa.toNat 0 22
      (∀ o, d.op = .tmrst o → m.fol = false → (m.st = .idle ∨ m.st = .done ∨ m.st = .abandon) → m.chasers = 0 →
          ¬(m.pub = true ∧ m.value ≠ 0) → ∃ t, exec (.commandComplete n) s = .next t ∧ LeftDock s t n
            ∧ t.tm d.o.tm.val = { gidx := m.gidx, pub := m.pub, fol := m.fol, fdev := m.fdev, chasers := m.chasers
                                  crew := if m.pub then m.crew else none })
      ∧ (∀ o, d.op = .tmrst o → m.fol = false → m.st = .run → exec (.commandComplete n) s = .next (s.cmdFault n .tidemarkRewind noIndex))
      ∧ (∀ o, d.op = .tmglbPub o → field d.pa.toNat 18 46 = 0 → field d.pa.toNat 12 6 = s.devId →
          s.gtmOf d.slice (field d.pa.toNat 0 12) = true → m.pub = false → m.fol = false →
          (sparseGet {} s.gtms (field d.pa.toNat 0 12)).bound = false → ∃ t, exec (.commandComplete n) s = .next t ∧ LeftDock s t n
            ∧ t.tm d.o.tm.val = { m with pub := true, gidx := field d.pa.toNat 0 12, fdev := 0, crew := d.crew }
            ∧ (sparseGet {} t.gtms (field d.pa.toNat 0 12)).value = m.value
            ∧ (sparseGet {} t.gtms (field d.pa.toNat 0 12)).bound = true)
      ∧ (∀ o, d.op = .tmglbFol o → field d.pa.toNat 18 46 = 0 → field d.pa.toNat 12 6 = s.devId →
          s.gtmOf d.slice (field d.pa.toNat 0 12) = true → m.pub = false → m.fol = false → m.st = .idle → m.chasers = 0 →
          ∃ t, exec (.commandComplete n) s = .next t ∧ LeftDock s t n
            ∧ t.tm d.o.tm.val = { m with fol := true, gidx := field d.pa.toNat 0 12, fdev := field d.pa.toNat 12 6, crew := d.crew })
      ∧ (∀ o, d.op = .tmglbUnb o → m.pub = true → m.fol = false → ∃ t, exec (.commandComplete n) s = .next t ∧ LeftDock s t n
          ∧ (t.tm d.o.tm.val).pub = false ∧ (t.tm d.o.tm.val).value = m.value
          ∧ (sparseGet {} t.gtms m.gidx).bound = false)
      ∧ (∀ o, d.op = .tmsetAdv o → m.fol = true → exec (.commandComplete n) s = .next (s.cmdFault n .permission noIndex))
      ∧ (∀ o, d.op = .tmsetAdv o → m.fol = false → m.takable = true → ¬(m.pub = true ∧ m.st = .done) →
          (∀ e ∈ s.quay.dock, d.o.tm.val ∉ e.chases) → (∀ e ∈ s.quays, ∀ x ∈ e.2.dock, x.away ≠ some (s.here, d.o.tm.val)) →
          ∃ t, exec (.commandComplete n) s = .next t ∧ LeftDock s t n
            ∧ let e := (d.recA.getD {}).count
              let v := min (field d.pa.toNat 0 32) e
              (t.tm d.o.tm.val).value = v ∧ (t.tm d.o.tm.val).endv = e ∧ (t.tm d.o.tm.val).wop = 0x10
              ∧ (t.tm d.o.tm.val).st = if v = e ∧ 0 < v then .done else .run)
      ∧ (∀ o, d.op = .tmq o → ∀ u, s.writeAt d.reacher true false at64 32 m.bytes = .ok u →
          ∃ t, exec (.commandComplete n) s = .next t ∧ LeftDock s t n ∧ ∀ off, t.quay.spByte off = u.quay.spByte off)
      ∧ (∀ o, d.op = .acz o → ∃ t, exec (.commandComplete n) s = .next t
          ∧ vget {} t.quay.banks (d.fn % 16) = { int32 := d.fn.testBit 4, words := [] })
      ∧ (∀ o, d.op = .tinv o → d.fn.testBit 5 = false → ∃ t, exec (.commandComplete n) s = .next t ∧ LeftDock s t n
          ∧ (t.tab (d.fn % 32)).valid = false ∧ (d.fn.testBit 6 = true → (t.tab (d.fn % 32)).filled = false)
          ∧ (d.fn.testBit 6 = false → (t.tab (d.fn % 32)).filled = (s.tab (d.fn % 32)).filled
              ∧ (t.tab (d.fn % 32)).entries = (s.tab (d.fn % 32)).entries))
      ∧ (∀ o, d.op = .tspl o → ∀ u, s.writeAt d.reacher true false at64 64
            ((s.tab (d.fn % 32)).image (s.tabClaimed (d.fn % 32))) = .ok u →
          ∃ t, exec (.commandComplete n) s = .next t ∧ LeftDock s t n ∧ ∀ off, t.quay.spByte off = u.quay.spByte off)
      ∧ (∀ o, d.op = .clstat o → ∀ u, s.writeAt d.reacher true false at64 64 (s.slot (d.fn % 64)).snapshot = .ok u →
          ∃ t, exec (.commandComplete n) s = .next t ∧ LeftDock s t n ∧ ∀ off, t.quay.spByte off = u.quay.spByte off))
  ∧ (
    ∀ (s : State) (n : Nat) (d : DockEntry), MayGo s n d →
      (∃ o, d.op = .cp o ∨ d.op = .cpg o ∨ d.op = .cps o ∨ d.op = .cph o ∨ d.op = .cpr o ∨ d.op = .cpt o) →
      let m := s.tm d.o.tm.val
      (s.allCovered (craneNeed d d.count) = .ok false → exec (.commandStart n) s = .next s)
      ∧ (∀ c, s.allCovered (craneNeed d d.count) = .error c → exec (.commandStart n) s = .next (s.cmdFault n c d.count))
      ∧ (s.allCovered (craneNeed d d.count) = .ok true → d.taken = false → d.berth = none →
          (m.fol = true → exec (.commandStart n) s = .next (s.cmdFault n .permission d.count))
          ∧ (m.fol = false → m.pub = true → m.st = .done → exec (.commandStart n) s = .next (s.cmdFault n .tidemarkRewind d.count))
          ∧ (m.fol = false → ¬(m.pub = true ∧ m.st = .done) → m.takable = false → exec (.commandStart n) s = .next s)
          ∧ (m.fol = false → ¬(m.pub = true ∧ m.st = .done) → m.takable = true → (∀ e ∈ s.quay.dock, d.o.tm.val ∉ e.chases) →
              (∀ e ∈ s.quays, ∀ x ∈ e.2.dock, x.away ≠ some (s.here, d.o.tm.val)) →
              ∃ t e, exec (.commandStart n) s = .next t ∧ InDock t n e ∧ e.phase = .running ∧ e.taken = true
                ∧ e.count = d.count ∧ (t.tm d.o.tm.val).st = .run ∧ (t.tm d.o.tm.val).value = 0
                ∧ (t.tm d.o.tm.val).endv = (d.recA.getD {}).count ∧ (t.tm d.o.tm.val).wop = d.opc ∧ SameBytes s t)))
  ∧ (
    ∀ (s : State),
      (∀ (k : Fin 256) (w : Fin 8), ∃ t, exec (.recordCacheRefill k w) s = .next t ∧ SameBytes s t
        ∧ t.quay.rcache.map Prod.fst = s.quay.rcache.map Prod.fst
        ∧ ∀ e ∈ s.quay.rcache, (e.1 / 64 % 256 ≠ k.val → e ∈ t.quay.rcache)
          ∧ (e.1 / 64 % 256 = k.val → ∃ r, (e.1, r) ∈ t.quay.rcache ∧ ∀ i, i < 64 → r.toNat / 2 ^ (8 * i) % 256 =
              if i / 8 = w.val then (s.quay.spByte (e.1 + i)).toNat else e.2.toNat / 2 ^ (8 * i) % 256))
      ∧ (∀ n d q t, Runs s n d → s.waitsFor s.here d = some (q, t) → d.opc ≠ 0x51 →
          ((vget {} (s.quayAt q).tms t).st = .halt → d.waited + 4096 < s.quay.cycle.toNat → ∃ u e,
            exec (.haltWaitRelease n) s = .next u ∧ InDock u n e ∧ e.phase = .waiting ∧ e.count = d.count)
          ∧ (s.quay.cycle.toNat ≤ d.waited + 4096 ∨ (vget {} (s.quayAt q).tms t).st ≠ .halt →
              exec (.haltWaitRelease n) s = .next s))
      ∧ (∀ n d w, InDock s n d → d.walkAt = some w →
          (s.quay.cycle.toNat < d.waited + w → exec (.chaseCycleWalk n) s = .next s)
          ∧ (d.waited + w ≤ s.quay.cycle.toNat → (s.waitsFor s.here d).isSome = true →
              (s.cycleWalk s.here n 8 [(s.here, d)] (s.here, d) = .returned → ∃ t e, exec (.chaseCycleWalk n) s = .next t
                ∧ InDock t n e ∧ e.walkAt = none ∧ e.phase = d.phase)
              ∧ (s.cycleWalk s.here n 8 [(s.here, d)] (s.here, d) = .ended → ∃ t e, exec (.chaseCycleWalk n) s = .next t
                ∧ InDock t n e ∧ e.walkAt = some (w + 4096) ∧ e.phase = d.phase)
              ∧ (∀ met y, s.cycleWalk s.here n 8 [(s.here, d)] (s.here, d) = .cycle met → youngest met = some (s.here, y) →
                  (s.cmd? y.seq).isSome = true → ∃ t e, exec (.chaseCycleWalk n) s = .next t ∧ InDock t y.seq e
                    ∧ e.phase = .halted ∧ e.fcode = FaultCode.chaseCycle.code))))

/-- R234, R235: a beat of a copy writes what the walk reads, counts it and publishes it under its granule; the last
beat completes the copy, at END. A beat with nothing covered waits. (The floors of deterministic mode, R338, are not
in it.) R269, R271, R279, R284: a group of an MMA begins when what it reads is covered; the retirement of a fed K tile
adds its sums to the bank, its operands being read in that step (log 50); a beat of EPI writes the converted words. -/
def Obligations.EngineBeats : Prop :=
  (
    ∀ (s : State) (n k : Nat) (d : DockEntry) (o : EOp), Runs s n d → d.op = .cp o → d.taken = true → d.berth = none →
      (s.tm o.tm.val).st = .run → (s.tm o.tm.val).writer = some (.command n) → s.isDet d.crew = false → d.flight = [] →
      d.count < (d.recA.getD {}).count → (d.recA.getD {}).isNbp = false →
      let total := (d.recA.getD {}).count
      let gran := (d.recA.getD {}).gran
      let cov := s.coveredRun (craneNeed d) d.count (s.craneBeat d d.count)
      (cov = .ok 0 → exec (.craneBeatCommit n) s = .next s)
      ∧ (∀ c, cov = .error c → exec (.craneBeatCommit n) s = .next (s.cmdFault n c d.count))
      ∧ (∀ vs u, cov = .ok k → 0 < k → s.sourceRun d d.count k = (vs, none) → s.writeRun d d.count vs = (u, k, none) →
          (d.count + k < total → ∃ t e, exec (.craneBeatCommit n) s = .next t ∧ t.mem = u.mem
            ∧ (∀ off, t.quay.spByte off = u.quay.spByte off) ∧ InDock t n e ∧ e.count = d.count + k ∧ e.phase = .running
            ∧ (t.tm o.tm.val).value =
                max (s.tm o.tm.val).value (min ((d.count + k) / 2 ^ gran * 2 ^ gran) (s.tm o.tm.val).endv))
          ∧ (d.count + k = total → (∀ i, s.strandAt d.owner ≠ .image i) → ∃ t, exec (.craneBeatCommit n) s = .next t ∧ t.mem = u.mem
              ∧ (∀ off, t.quay.spByte off = u.quay.spByte off) ∧ (∀ e ∈ t.quay.dock, e.seq ≠ n)
              ∧ (t.tm o.tm.val).value = max (s.tm o.tm.val).value (min total (s.tm o.tm.val).endv)
              ∧ ((s.tm o.tm.val).value < total → (s.tm o.tm.val).endv = total → (t.tm o.tm.val).st = .done))))
  ∧ (
    ∀ (s : State) (n : Nat) (d : DockEntry), Runs s n d →
      (∀ o, d.op = .mma o → d.ktile < d.nk → d.group < 4 →
        (s.allCovered (s.groupNeed d d.ktile d.group) = .ok false → exec (.mmaGroupStart n) s = .next s)
        ∧ (∀ c, s.allCovered (s.groupNeed d d.ktile d.group) = .error c →
            exec (.mmaGroupStart n) s = .next (s.cmdFault n c d.ktile))
        ∧ (s.allCovered (s.groupNeed d d.ktile d.group) = .ok true → ∃ t e, exec (.mmaGroupStart n) s = .next t
            ∧ InDock t n e ∧ e.group = d.group + 1 ∧ e.ktile = d.ktile ∧ t.quay.banks = s.quay.banks ∧ SameBytes s t))
      ∧ (∀ o, d.op = .mma o →
          (d.group ≠ 4 → exec (.mmaKtileRetire n) s = .next s)
          ∧ (d.group = 4 → ∀ as bs, s.feed d true d.ktile = .ok as → s.feed d false d.ktile = .ok bs →
              ∃ t e, exec (.mmaKtileRetire n) s = .next t ∧ InDock t n e ∧ e.ktile = d.ktile + 1 ∧ e.group = 0
                ∧ SameBytes s t
                ∧ (vget {} t.quay.banks (d.fn % 16)).words =
                    ((vget {} s.quay.banks (d.fn % 16)).addTile d.pair.2 (d.pair.1 / 4) as bs).1.words
                ∧ e.flags = d.flags ||| ((vget {} s.quay.banks (d.fn % 16)).addTile d.pair.2 (d.pair.1 / 4) as bs).2))
      ∧ (∀ o k vs u, d.op = .epi o → d.route = none → d.flight = [] → d.count + k < (d.recA.getD {}).count → 0 < k →
          s.coveredRun (epiNeed d) d.count
            (min ((d.recA.getD {}).count - d.count) ((d.recA.getD {}).beat d.count)) = .ok k →
          s.epiRun d d.count k = (vs, none) → s.writeRun d d.count (vs.map Prod.fst) = (u, k, none) →
          ∃ t e, exec (.epiBeatCommit n) s = .next t ∧ t.mem = u.mem ∧ (∀ off, t.quay.spByte off = u.quay.spByte off)
            ∧ InDock t n e ∧ e.count = d.count + k ∧ e.phase = .running))

/-- R55, R269, R271: word (m, n) of an INT32 bank takes, group by group in ascending order, the exact sum of the
group's products, saturating each time. -/
def Obligations.IntegerTileSums : Prop :=
  ∀ (k : Bank) (g : Nat) (as bs : List (List Int)), as.length = 128 → bs.length = 96 →
    (∀ a ∈ as, a.length = 4 * g) → (∀ b ∈ bs, b.length = 4 * g) → sparseWf 0 k.words = true →
    ∀ m n, m < 128 → n < 96 →
      let a := as.getD m []
      let b := bs.getD n []
      let part := fun (j : Nat) => (List.zipWith (fun x y => x * y) ((a.drop (j * g)).take g) ((b.drop (j * g)).take g)).sum
      (sparseGet (0 : BitVec 32) (k.addTile true g (as.map rowOf) (bs.map rowOf)).1.words (96 * m + n)).toInt =
        clamp32 (clamp32 (clamp32 (clamp32 ((sparseGet (0 : BitVec 32) k.words (96 * m + n)).toInt + part 0) + part 1)
          + part 2) + part 3)

/-- R201, R237, R259: a bound read stream reads its next element ahead, up to eight (the model's depth: log 44); a
write stream writes its oldest accepted element, the bytes that its mask lets through. An address fault is one of the
binding command, and while that is halted the stream stands. R245, R246, R400: a follower takes the value, the state
and END of its global tidemark; of a posted bollard's pending commands the one of the oldest flip enters the dock. -/
def Obligations.StreamsAndFollowers : Prop :=
  (
    ∀ (s : State) (c k : Fin 8) (st : Stream), st = (s.quay.ctx c).streams.get k →
      (st.bound = true → st.write = false → (st.indirect = true → st.table = true) → st.seq + st.buf.length < st.count →
        st.buf.length < 8 → s.bindHalted c k = false →
        (∀ v, s.streamFetch c st (st.seq + st.buf.length) = .ok v →
          ∃ t, exec (.streamReadElement c k) s = .next t ∧ ((t.quay.ctx c).streams.get k).buf = st.buf ++ [v]
            ∧ ((t.quay.ctx c).streams.get k).seq = st.seq ∧ SameBytes s t ∧ t.quay.dock = s.quay.dock)
        ∧ (∀ f w d, s.streamFetch c st (st.seq + st.buf.length) = .error (.cmd f w) → s.binder c k.val = some d →
            exec (.streamReadElement c k) s = .next (s.cmdFault d.seq f w)))
      ∧ (s.bindHalted c k = true →
          exec (.streamReadElement c k) s = .next s ∧ exec (.streamWriteElement c k) s = .next s)
      ∧ (st.bound = false ∨ st.write = true ∨ st.count ≤ st.seq + st.buf.length ∨ 8 ≤ st.buf.length →
          exec (.streamReadElement c k) s = .next s)
      ∧ (st.out = [] → exec (.streamWriteElement c k) s = .next s)
      ∧ (∀ n v m r ls, st.out = (n, v, m) :: r → st.layout.isE2m1 = false → max st.written (n + 1) ≠ st.count →
          s.bindHalted c k = false → s.streamBytes (s.quay.ctx c).reacher st (n * st.per) st.per = .ok ls →
          ∃ t, exec (.streamWriteElement c k) s = .next t ∧ ((t.quay.ctx c).streams.get k).out = r
            ∧ ((t.quay.ctx c).streams.get k).written = max st.written (n + 1)
            ∧ (let u := s.writeLocs ((ls.zipIdx.filter fun p => m.getLsbD p.2).map fun p =>
                  (p.1.1, BitVec.ofNat 8 (v.toNat / 2 ^ (8 * p.2) % 256)))
               t.mem = u.mem ∧ ∀ off, t.quay.spByte off = u.quay.spByte off)))
  ∧ (
    ∀ (s : State),
      (∀ (k : Fin 64), let m := s.tm k.val
        let quiet := ∀ e ∈ s.quays, ∀ x ∈ e.2.dock, x.away ≠ some (s.here, k.val)
        let g := sparseGet {} s.gtms m.gidx
        (m.fol = false → ∀ r, exec (.globalFollowerUpdate k r) s = .next s)
        ∧ (m.fol = true → m.fdev = s.devId → g.st ≠ .abandon → (∀ e ∈ s.quay.dock, k.val ∉ e.chases) → quiet → ∃ t,
            exec (.globalFollowerUpdate k none) s = .next t ∧ (t.tm k.val).value = g.value ∧ (t.tm k.val).st = g.st
            ∧ (t.tm k.val).endv = g.endv ∧ (t.tm k.val).layout = g.layout ∧ (t.tm k.val).fol = true
            ∧ t.quay.dock = s.quay.dock ∧ SameBytes s t)
        ∧ (m.fol = true → m.fdev ≠ s.devId → ∀ r : RemoteMark, r.state ≠ 4 → (∀ e ∈ s.quay.dock, k.val ∉ e.chases) → quiet → ∃ t,
            exec (.globalFollowerUpdate k (some r)) s = .next t ∧ (t.tm k.val).value = r.value
            ∧ (t.tm k.val).endv = r.endv ∧ t.quay.dock = s.quay.dock ∧ SameBytes s t))
      ∧ (∀ (b : Fin 64) (x : Attach), let y := s.quay.bols.get b
          (nextArmed y.armed = some x → x ∈ y.armed ∧ x.pending ≠ 0 ∧ ∀ z ∈ y.armed, z.pending ≠ 0 → x.first ≤ z.first)
          ∧ (nextArmed y.armed = none → exec (.clarmFiring b) s = .next s)
          ∧ (nextArmed y.armed = some x → s.quay.dockUsed = 32 → exec (.clarmFiring b) s = .next s)
          ∧ (nextArmed y.armed = some x → s.quay.dockUsed < 32 → ∃ t d, exec (.clarmFiring b) s = .next t
              ∧ t.quay.dock = s.quay.dock ++ [d] ∧ d.seq = s.quay.nextSeq ∧ d.op = x.op ∧ d.owner = x.born ∧ d.pa = x.pa ∧ d.pb = x.pb
              ∧ d.pc = x.pc ∧ d.phase = .issued ∧ SameBytes s t
              ∧ (x.once = true → (t.quay.bols.get b).armed.length + 1 = y.armed.length)
              ∧ (x.once = false → (t.quay.bols.get b).armed.length = y.armed.length))))

/-- R353, R355, R374, R375, R431: the step of a KV command at its home engine is indivisible, in the order of arrival
there (seven cycles to a tick of the reference: log 51); it completes the command, or halts it with nothing changed.
Enabling a pool threads its pages onto its free list, once HBM is ready. -/
def Obligations.KvEngineSteps : Prop :=
  ∀ (s : State) (n : Nat) (d : DockEntry),
    (Runs s n d → d.isKv = true → s.isDet d.crew = false → (∀ i, s.strandAt d.owner ≠ .image i) →
      (7 * s.refTime + 6 < d.arrive → exec (.kvHomeStep s.here n) s = .next s)
      ∧ ((∃ q x e, (q, x) ∈ s.quays ∧ e ∈ x.dock ∧ e.isKv = true ∧ e.phase = .running
            ∧ s.kvBasin q e = s.kvBasin s.here d ∧ e.arrive < d.arrive) → exec (.kvHomeStep s.here n) s = .next s)
      ∧ (s.kvTurn s.here d = true → ∀ s1,
          s1 = (s.updCmd n fun e => { e with reqAt := none }).askFor d (s.needAddrs d (kvElems d) false) →
          (s.allCovered (kvNeed d) = .ok false → exec (.kvHomeStep s.here n) s = .next s)
          ∧ (s.allCovered (kvNeed d) = .ok true →
              (∀ u, kvStep d s1 = .ok u → u.here = s.here → (∀ i, u.strandAt d.owner ≠ .image i) →
                ∃ t, exec (.kvHomeStep s.here n) s = .next t ∧ t.mem = u.mem
                  ∧ t.pools = u.pools ∧ t.pfx = u.pfx ∧ (∀ off, t.quay.spByte off = u.quay.spByte off)
                  ∧ ∀ e ∈ t.quay.dock, e.seq ≠ n)
              ∧ (∀ f i, kvStep d s1 = .error (.fault f, i) → ∃ t e, exec (.kvHomeStep s.here n) s = .next t ∧ SameBytes s t
                  ∧ t.pools = s.pools ∧ t.pfx = s.pfx ∧ InDock t n e ∧ e.phase = .halted ∧ e.fcode = f.code
                  ∧ e.findex = i))))
    ∧ (∀ (sl : Fin 16) (p : Fin 4), let k := 4 * sl.val + p.val
        (s.pool k).en = false →
        (∀ u, s.threadPages k 0 (s.pool k).npages = .ok u →
          ∃ t, exec (.poolEnable sl p) s = .next t ∧ t.mem = u.mem ∧ (t.pool k).en = true
            ∧ (t.pool k).freecnt = BitVec.ofNat 32 (s.pool k).npages
            ∧ (t.pool k).freehead = if (s.pool k).npages = 0 then 0xFFFFFFFF else 0)
        ∧ (∀ i, s.threadPages k 0 (s.pool k).npages = .error (.wait, i) → ∃ t, exec (.poolEnable sl p) s = .next t
            ∧ (t.pool k).threading = true ∧ (t.pool k).en = false ∧ SameBytes s t))
    ∧ (∀ (sl : Fin 16) (p : Fin 4), (s.pool (4 * sl.val + p.val)).en = true → exec (.poolEnable sl p) s = .next s)

/-! ### Collectives, links and landings -/

/-- R393, R396, R399, R404, R406, R407: a live instance sends the oldest block of its fork, coded where the manifests
give it a partner and then under one sequence number to both receivers; a local copy is written into DA. Every such
turn answers a next state. -/
def Obligations.CollectiveBlocksMove : Prop :=
  ∀ (s : State) (n : Fin 64), let x := s.slot n.val
    (∀ i : Instr, i = .forkBlockSend n ∨ i = .coderPacket n ∨ i = .localCopyWrite n → ∃ t, exec i s = .next t)
    ∧ (s.maySend x = false → exec (.forkBlockSend n) s = .next s ∧ exec (.coderPacket n) s = .next s)
    ∧ (∀ b r o, x.fork = b :: r → s.maySend x = true → Reaches s b.recv → s.forkData x b = .ok (some o) →
        (x.code = false ∨ x.isRs = true → ∃ t, exec (.forkBlockSend n) s = .next t
          ∧ Leaves s t b.recv (.data (x.packet n.val s.devId b o)) ∧ (t.slot n.val).fork = r
          ∧ (t.slot n.val).uncoded = (if b.resend then x.uncoded else x.uncoded + 1))
        ∧ (x.code = true → x.isRs = false → partner (s.coderHoldings x) b (r.take 31) = none → ∃ t,
          exec (.coderPacket n) s = .next t ∧ Leaves s t b.recv (.data (x.packet n.val s.devId b o))
          ∧ (t.slot n.val).fork = r)
        ∧ (∀ c u v w, x.code = true → x.isRs = false → partner (s.coderHoldings x) b (r.take 31) = some (c, u, v) →
            Reaches s c.recv → s.forkData x c = .ok (some w) → ∃ t, exec (.coderPacket n) s = .next t
            ∧ (t.slot n.val).codedN = x.codedN + 1 ∧ (t.slot n.val).uncoded = x.uncoded
            ∧ (∀ y ∈ (t.slot n.val).fork, y ≠ b ∧ y ≠ c)
            ∧ ∃ seq, ∀ dst ∈ copiesFrom s.devId s.devId b.recv c.recv, ∃ port, s.portOf s.devId dst seq = some port
              ∧ .packet port (netPacket (.data
                { slot := n.val, gen := x.gen, src := s.devId, srcQuay := x.goQuay, id := b.id
                  data := List.zipWith (fun y z => y ^^^ z) (padBlock (packElems x.wireBits (o.2.2.map wireVal)))
                    (padBlock (packElems x.wireBits (w.2.2.map wireVal)))
                  coded := some { a := b.id, b := c.id, recvA := b.recv, recvB := c.recv
                                  lenA := (packElems x.wireBits (o.2.2.map wireVal)).length - 1
                                  lenB := (packElems x.wireBits (w.2.2.map wireVal)).length - 1
                                  idxB := u.1, genB := u.2, idxA := v.1, genA := v.2 }
                  perm := o.1, dir := o.2.1 }) s.devId dst seq) ∈ t.outbox))
    ∧ (∀ b r, x.fork = b :: r → s.maySend x = true → s.linkOk b.recv = false → x.code = false →
        ∃ t, exec (.forkBlockSend n) s = .next t ∧ (t.slot n.val).st = .halted
          ∧ (t.slot n.val).fcode = FaultCode.linkDown.code ∧ (t.slot n.val).fork = x.fork)
    ∧ (∀ b r gs vs u l, x.localLeft = b :: r → s.collLive x = true →
        gs = x.elems s.devId (x.meshRank s.devId) b.id x.db.perm x.db.dir → s.collRead x gs = .ok (some vs) →
        s.collPutAll x (gs.zip vs) = (u, l, none) → (∀ d, s.collCmd x = some d → ∀ i, s.strandAt d.owner ≠ .image i) →
        ∃ t, exec (.localCopyWrite n) s = .next t ∧ (t.slot n.val).localLeft = r ∧ t.mem = u.mem
          ∧ (b.id.owner, b.id.num) ∈ (t.slot n.val).got)
    ∧ (x.localLeft = [] ∨ s.collLive x = false → exec (.localCopyWrite n) s = .next s)

/-- R398, R404, R408, R415: a lighter decodes the own block of a coded packet, which is then written like any other
and only then counted; one whose writing stops is held; a block met before is only acknowledged; a stale manifest
entry asks for the block again, or halts the instance with NOFB; a block asked for is sent again, uncoded. An instance
halts with LINK_DOWN where the answer meets an unusable trunk (the model's reading of R385 and R398, log 83). Every
such turn answers a next state. -/
def Obligations.LightersDecode : Prop :=
  ∀ (s : State) (n : Fin 64) (k : Nat) (p : CollPacket) (c : CodedDesc), let x := s.slot n.val
    (∃ t, exec (.lighterDecode k) s = .next t)
    ∧ (∀ q id, ∃ t, exec (.nackArrive n q id) s = .next t)
    ∧ (s.lighters[k]? = some p → p.slot = n.val → p.coded = some c →
      (s.collLive x = false → exec (.lighterDecode k) s = .next s)
      ∧ (s.collLive x = true →
        (p.gen ≠ x.gen ∨ ((s.ownId p).owner, (s.ownId p).num) ∈ x.got → Reaches s p.src → ∃ t,
          exec (.lighterDecode k) s = .next t ∧ t.lighters = listErase s.lighters k ∧ t.slots = s.slots
          ∧ LeavesNext s t p.src (.ack (.block n.val p.gen s.devId (s.ownId p))))
        ∧ (p.gen = x.gen → ((s.ownId p).owner, (s.ownId p).num) ∉ x.got →
          (∀ id bs gs u l, s.decodeCoded x p c = some (id, bs) → x.isRs = false →
            gs = x.elems s.devId (x.meshRank s.devId) id p.perm p.dir →
            let ws := gs.zip (unpackElems x.da.elemBits gs.length bs)
            ∃ t, exec (.lighterDecode k) s = .next t ∧ t.lighters = listErase s.lighters k
              ∧ ((s.freeLighter k).collPutAll x ws = (u, l, none) → (id.owner, id.num) ∈ (t.slot n.val).got
                  ∧ (t.slot n.val).received = x.received + 1 ∧ (t.slot n.val).decoded = x.decoded + 1
                  ∧ ((∀ d, s.collCmd x = some d → ∀ i, s.strandAt d.owner ≠ .image i) → t.mem = u.mem)
                  ∧ (Reaches s p.src → Leaves s t p.src (.ack (.block n.val p.gen s.devId id))))
              ∧ (∀ h i, (s.freeLighter k).collPutAll x ws = (u, l, some (h, i)) → (t.slot n.val).got = x.got
                  ∧ (t.slot n.val).received = x.received ∧ (t.slot n.val).decoded = x.decoded
                  ∧ (t.slot n.val).held = { p with id := id, data := bs, coded := none, lit := true } :: x.held))
          ∧ (s.decodeCoded x p c = none →
            (x.nofb = false → Reaches s p.src → ∃ t, exec (.lighterDecode k) s = .next t
              ∧ t.lighters = listErase s.lighters k ∧ (t.slot n.val).nackout = x.nackout + 1
              ∧ LeavesNext s t p.src (.nack n.val (s.ownId p)))
            ∧ (x.nofb = false → s.linkOk p.src = false → ∃ t, exec (.lighterDecode k) s = .next t
              ∧ t.lighters = s.lighters ∧ (t.slot n.val).st = .halted ∧ (t.slot n.val).fcode = FaultCode.linkDown.code)
            ∧ (x.nofb = true → ∃ t, exec (.lighterDecode k) s = .next t ∧ t.lighters = listErase s.lighters k
              ∧ (t.slot n.val).st = .halted ∧ (t.slot n.val).fcode = FaultCode.manifestStale.code)))))
    ∧ (s.lighters[k]? = none → exec (.lighterDecode k) s = .next s)
    ∧ (∀ q id, let b : ForkBlock := ⟨q, id, true⟩
        ((∀ y ∈ x.unacked, ¬(y.recv = q ∧ y.id = id)) → exec (.nackArrive n q id) s = .next s)
        ∧ ((∃ y ∈ x.unacked, y.recv = q ∧ y.id = id) → ∃ t, exec (.nackArrive n q id) s = .next t
          ∧ (t.slot n.val).resent = x.resent + 1 ∧ b ∈ (t.slot n.val).unacked
          ∧ (s.collLive x = false → (t.slot n.val).fork = b :: x.fork.filter fun y => !(y.recv == q && y.id == id))
          ∧ (s.collLive x = true → s.linkOk q = false → (t.slot n.val).st = .halted
              ∧ (t.slot n.val).fcode = FaultCode.linkDown.code
              ∧ (t.slot n.val).fork = b :: x.fork.filter fun y => !(y.recv == q && y.id == id))
          ∧ (∀ o, s.collLive x = true → Reaches s q → s.forkData x b = .ok (some o) → (t.slot n.val).fork = x.fork
              ∧ Leaves s t q (.data (x.packet n.val s.devId b o)))))

/-- R387, R395, R408: a packet at a slot: it is refused, acknowledged, held or withheld by its generation, and with it
all behind it on its link; CREDIT lets the oldest withheld one in. What happens two generations ahead and behind is
the model's reading (log 56), as is the wait for one of the 64 lighters (log 110). R394, R395, R397, R398, R405, R414,
R416: messages of other members at a slot: holdings replace a range and are acknowledged; digests, reports, cancels,
refusals and acknowledgements act on their generation. A fault that comes while the CLGO is in no dock waits for it,
which is the model's reading of R398 (log 62). -/
def Obligations.CollectiveMessagesArrive : Prop :=
  (
    ∀ (s : State) (n : Fin 64) (port : Fin 18) (p : CollPacket), p.slot = n.val → let x := s.slot n.val
      let i : Instr := .collectivePacketArrive ⟨port, p⟩
      let Held := ∃ t, exec i s = .next t ∧ (t.slot n.val).held = x.held ++ [p] ∧ t.ports = s.ports ∧ SameBytes s t
      let Withheld := ∃ t, exec i s = .next t ∧ t.slots = s.slots ∧ SameBytes s t
        ∧ (t.ports.get port).withheld = (s.ports.get port).withheld ++ [.msg (.data p)]
      ((s.ports.get port).withheld ≠ [] → Withheld)
      ∧ ((s.ports.get port).withheld = [] →
        (x.assigned = false → ∃ t, exec i s = .next t ∧ t.linkErrors = s.linkErrors + 1 ∧ t.slots = s.slots ∧ SameBytes s t
          ∧ (Reaches s p.src → LeavesNext s t p.src (.refusal n.val p.gen)))
        ∧ (x.assigned = true → p.gen ∈ x.active →
          (p.gen ≠ x.gen ∨ x.ownDone = true → Reaches s p.src → ∃ t, exec i s = .next t ∧ t.slots = s.slots ∧ SameBytes s t
            ∧ LeavesNext s t p.src (.ack (.block n.val p.gen s.devId (s.ownId p))))
          ∧ (p.gen = x.gen → x.ownDone = false →
            (s.collCmd x = none → Withheld)
            ∧ (s.collCmd x ≠ none → s.collLive x = false → Held)
            ∧ (s.collLive x = true → (∀ q ∈ x.held, q.gen ≠ p.gen) → p.coded ≠ none →
              (s.lighters.length < 64 → ∃ t, exec i s = .next t ∧ t.lighters = s.lighters ++ [p] ∧ t.slots = s.slots
                ∧ SameBytes s t)
              ∧ (64 ≤ s.lighters.length → Withheld))))
        ∧ (x.assigned = true → p.gen ∉ x.active → x.gen < 16 →
          (p.gen = (x.gen + 1) % 16 → x.nextHeld < 16 → Held)
          ∧ ((p.gen = (x.gen + 1) % 16 ∧ 16 ≤ x.nextHeld) ∨ p.gen = (x.gen + 2) % 16 → Withheld)))
      ∧ (∀ r, (∀ m : Fin 64, s.collLive (s.slot m.val) = false) → (s.ports.get port).withheld = .msg (.data p) :: r →
          x.assigned = true → p.gen ∉ x.active → p.gen = (x.gen + 1) % 16 →
          (x.nextHeld < 16 → ∃ t, exec (.credit port) s = .next t ∧ (t.ports.get port).withheld = r
            ∧ (t.slot n.val).held = x.held ++ [p])
          ∧ (16 ≤ x.nextHeld → ∃ t, exec (.credit port) s = .next t ∧ (t.ports.get port).withheld = (s.ports.get port).withheld)))
  ∧ (
    ∀ (s : State) (n : Fin 64), let x := s.slot n.val
      let Takes := fun (i : Instr) (c : FaultCode) =>
        (s.collCmd x ≠ none → ∃ t, exec i s = .next t ∧ (t.slot n.val).st = .halted ∧ (t.slot n.val).fcode = c.code)
        ∧ (s.collCmd x = none → ∃ t, exec i s = .next t ∧ (t.slot n.val).owed = some c ∧ (t.slot n.val).st = x.st)
      (∀ src first count tr, ∃ t, exec (.holdingsArrive n src first count tr) s = .next t
          ∧ (Reaches s src → LeavesNext s t src (.ack (.holdings n.val s.devId)))
          ∧ ∀ e, e ∈ (t.slot n.val).holdings ↔
              (e ∈ x.holdings ∧ ¬(e.1 = src ∧ first ≤ e.2.1 ∧ e.2.1 < first + count)) ∨ (e.1 = src ∧ e.2 ∈ tr))
      ∧ (∀ src g w, (g ∉ x.active ∧ (g = (x.gen + 1) % 16 ∨ g = (x.gen + 2) % 16) →
            ∃ t, exec (.digestArrive n src g w) s = .next t ∧ (t.slot n.val).digests = x.digests ++ [(src, g, w)])
          ∧ (g = x.gen → g ∈ x.active → src ∈ x.participants s.devId →
              (w = descDigest x.desc → exec (.digestArrive n src g w) s = .next s)
              ∧ (w ≠ descDigest x.desc → x.ownDone = false → Takes (.digestArrive n src g w) .layoutPair)))
      ∧ (∀ src g, (g ≠ x.gen ∨ x.ownDone = true) → (∀ d ∈ x.participants s.devId, d = src ∨ (g, d) ∈ x.reports) →
          ∃ t, exec (.completionReportArrive n src g) s = .next t ∧ g ∉ (t.slot n.val).active)
      ∧ (∀ src g, g ∈ x.active → ∃ t, exec (.cancelArrive n src g) s = .next t
          ∧ (Reaches s src → Leaves s t src (.ack (.cancel n.val g s.devId)))
          ∧ g ∉ (t.slot n.val).active ∧ (t.slot n.val).st = (if g = x.gen ∨ x.st = .active ∧ ∀ y ∈ x.active, y = g then .defined else x.st)
          ∧ (∀ p ∈ (t.slot n.val).held, p.gen ≠ g)
          ∧ (g = x.gen → (t.slot n.val).fork = [] ∧ (t.slot n.val).unacked = [] ∧ (t.slot n.val).localLeft = []))
      ∧ (∀ src, src ∈ x.participants s.devId → x.gen ∈ x.active → x.ownDone = false →
          Takes (.collectiveRefusal n src x.gen) .permission)
      ∧ (x.gen ∈ x.active → x.ownDone = false → Takes (.linkDown (.collective n.val)) .linkDown)
      ∧ (∀ q id, ∃ t, exec (.acknowledgementArrive (.block n.val x.gen q id)) s = .next t
          ∧ (∀ b, b ∈ (t.slot n.val).unacked ↔ b ∈ x.unacked ∧ ¬(b.recv = q ∧ b.id = id))
          ∧ ∀ b, b ∈ (t.slot n.val).fork ↔ b ∈ x.fork ∧ ¬(b.recv = q ∧ b.id = id)))

/-- R383 to R386, R431: flits, ports and packets on their way; only a port that is READY comes up. R385, R386, R402,
R403: what is sent end to end is sent again after 65,536 cycles, and a reduction is applied once; a command that meets
an unusable trunk halts. R16, R17, R342: the first beat of a landing decides its receiving crew, or its refusal:
PERMISSION without a crew there, SCRATCH_RANGE beyond the crew's range. Every beat of an accepted landing is written
to the range of that crew, on the quay where it stands now, and acknowledged; the last one to come raises the arrival.
Of a refused landing nothing is written, and it is refused once. A beat for a saved crew waits, and so does one behind
an earlier beat. That the first beat decides for all, that a refusal returns once and that a beat waits behind an
earlier one is the model's reading of R17 (log 55). R16, R17, R183: an arrival's handler starts in a DORMANT context
of its crew, or becomes a mooring record; a refused command faults at its first element, and a refused SENDH is an
asynchronous fault of its strand. What a command sends after its resume is a new landing (log 55). -/
def Obligations.LinksAndLandings : Prop :=
  (
    ∀ (s : State) (p : Fin 18), let x := s.ports.get p
      (∀ (h : Word) (d : BitVec 512),
        (flitOk h d = false → ∃ t, exec (.flitReceive p.val h d) s = .next t ∧ (t.ports.get p).received = x.received
          ∧ (t.ports.get p).errors = x.errors + 1)
        ∧ (flitOk h d = true → hdrLast h = false → ∃ t, exec (.flitReceive p.val h d) s = .next t
          ∧ (t.ports.get p).received = x.received ++ [(h, d)] ∧ (t.ports.get p).errors = x.errors)
        ∧ (flitOk h d = true → hdrLast h = true →
          let f := (x.received.filter fun g => samePacket h g.1) ++ [(h, d)]
          (onDataChannel f = true → x.withheld ≠ [] → ∃ t, exec (.flitReceive p.val h d) s = .next t
            ∧ (t.ports.get p).withheld = x.withheld ++ [.transit f]
            ∧ (t.ports.get p).received = x.received.filter fun g => !samePacket h g.1)
          ∧ (∀ h0 d0 r, f = (h0, d0) :: r → onDataChannel f = false ∨ x.withheld = [] →
            hdrType h0 ≠ 4 → hdrDst h0 ≠ s.devId →
            (∀ q, s.portOf (hdrSrc h0) (hdrDst h0) (hdrSeq h0) = some q → ∃ t, exec (.flitReceive p.val h d) s = .next t
              ∧ t.outbox = s.outbox ++ [.flits q (f.map (readdress (hdrDst h0)))] ∧ t.slots = s.slots)
            ∧ (s.portOf (hdrSrc h0) (hdrDst h0) (hdrSeq h0) = none → Reaches s (hdrSrc h0) → ∃ t,
              exec (.flitReceive p.val h d) s = .next t ∧ LeavesNext s t (hdrSrc h0) (.undeliverable h0)))))
      ∧ (∀ st l, st = .down ∨ s.portUsed p.val = true → (st = .up ∨ st = .degraded → x.ready = true) → ∃ t, exec (.portStateChange p.val st l) s = .next t
          ∧ (t.ports.get p).st = st ∧ (t.ports.get p).lanes = (if st = .up ∨ st = .degraded then min 4 l else 0)
          ∧ (¬(st = .up ∨ st = .degraded) → x.inFlight ≠ [] → (t.trunkPorts (p.val / 3)) ≠ [] → ∃ q f,
              .flits q f ∈ t.outbox ∧ q ∈ t.trunkPorts (p.val / 3) ∧ (∀ g ∈ x.inFlight, g ∈ f) ∧ (t.ports.get p).inFlight = []
              ∧ t.resentFlits = s.resentFlits + BitVec.ofNat 64 f.length))
      ∧ (∀ st l, (st ≠ .down ∧ s.portUsed p.val = false) ∨ ((st = .up ∨ st = .degraded) ∧ x.ready = false) → exec (.portStateChange p.val st l) s = .next s))
  ∧ (
    ∀ (s : State) (k : Nat),
      (∀ n o r, s.quay.unacked[k]? = some (n, o, r) →
        (s.quay.cycle.toNat < r.sentAt + 65536 → exec (.endToEndReplay k) s = .next s)
        ∧ (r.sentAt + 65536 ≤ s.quay.cycle.toNat → ∃ t, exec (.endToEndReplay k) s = .next t
            ∧ t.replaysSent = s.replaysSent + 1
            ∧ t.wire = s.wire ++ [.memoryReductionApply { r with sentAt := s.quay.cycle.toNat }]))
      ∧ (∀ c i l, s.quay.unacked[k]? = none → s.peerLoads[k - s.quay.unacked.length]? = some (c, i) →
          (s.quay.ctx c).loads[i]? = some l →
          (s.quay.cycle.toNat < l.sentAt + 65536 → exec (.endToEndReplay k) s = .next s)
          ∧ (l.sentAt + 65536 ≤ s.quay.cycle.toNat → ∃ t, exec (.endToEndReplay k) s = .next t
              ∧ t.replaysSent = s.replaysSent + 1
              ∧ (∀ d ∈ s.peersOf (physAddrs l.locs), Reaches s d → Leaves s t d
                  (.memRead s.here c.val l.age ((physAddrs l.locs).filter fun a => s.homeDev a == d)))))
      ∧ (∀ r, s.quay.unacked[k]? = none → s.peerLoads[k - s.quay.unacked.length]? = none →
          s.quay.requests[k - s.quay.unacked.length - s.peerLoads.length]? = some r →
          (s.quay.cycle.toNat < r.sentAt + 65536 → exec (.endToEndReplay k) s = .next s)
          ∧ (r.sentAt + 65536 ≤ s.quay.cycle.toNat → ∃ t, exec (.endToEndReplay k) s = .next t
              ∧ t.replaysSent = s.replaysSent + 1 ∧ (Reaches s r.dev → LeavesNext s t r.dev r.msg)))
      ∧ (∀ r : Reduction, r.dev = s.devId → (∀ u ∈ (s.quayAt r.quay).unacked, u.1 ≠ r.seq) →
          exec (.memoryReductionApply r) s = .next s)
      ∧ (∀ r : Reduction, (r.dev = s.devId → ∃ u ∈ (s.quayAt r.quay).unacked, u.1 = r.seq) →
          (r.det = true → s.redAhead r = true → exec (.memoryReductionApply r) s = .next (s.send (.memoryReductionApply r)))
          ∧ (r.det = false ∨ s.redAhead r = false → ∀ e : FilterEntry,
            (s.filter.find? fun e => e.stack == s.filterStack r.elems && e.dev == r.dev && e.quay == r.quay) = some e →
            let Acked := fun (t : State) (f : FpFlags) =>
              (r.dev = s.devId → t.wire = s.wire ++ [.acknowledgementArrive (.reduction r.quay r.seq f)])
              ∧ (r.dev ≠ s.devId → Reaches s r.dev → LeavesNext s t r.dev (.ack (.reduction r.quay r.seq f)))
            (e.has r.seq = true → ∃ t, exec (.memoryReductionApply r) s = .next t ∧ SameBytes s t
              ∧ t.replaysFound = s.replaysFound + 1 ∧ Acked t 0)
            ∧ (e.has r.seq = false → ∃ t, exec (.memoryReductionApply r) s = .next t ∧ t.replaysFound = s.replaysFound
              ∧ t.mem = (s.applyAs r).1.mem ∧ Acked t (s.applyAs r).2)))
      ∧ (∀ q n d, ({ s with here := q } : State).cmd? n = some d → d.phase = .running → ∃ t,
          exec (.linkDown (.command q n)) s = .next t ∧ ∃ e, ({ t with here := q } : State).cmd? n = some e
            ∧ e.phase = .halted ∧ e.fcode = FaultCode.linkDown.code))
  ∧ (
    ∀ (s : State) (l : Landing), let i : Instr := .arrivalLanding l
      let fresh : Inbound := ⟨l.kind, l.srcDev, l.ident.1, l.ident.2, l.attempt, none, 0, none⟩
      let First := (∀ b ∈ s.landings, b.of l = false)
      let Refused := fun (f : FaultCode) => ∃ t, exec i s = .next t ∧ SameBytes s t
        ∧ t = { s.refuseLanding l f with landings := t.landings } ∧ (l.last = false → { fresh with crew := none } ∈ t.landings)
      (∀ p, l.via = some p →
        (l.kind = .routed → (s.ports.get p).withheld ≠ [] → ∃ t, exec i s = .next t ∧ SameBytes s t ∧ t.wire = s.wire
          ∧ (t.ports.get p).withheld = (s.ports.get p).withheld ++ [.msg (.landing l)])
        ∧ (l.kind ≠ .routed ∨ (s.ports.get p).withheld = [] →
          exec i s = .next (s.send (.arrivalLanding { l with via := none }))))
      ∧ (l.via = none → s.earlierBeat l = true → exec i s = .next (s.send i))
      ∧ (l.via = none → s.earlierBeat l = false →
        (First → s.receiver l = none → Refused .permission)
        ∧ (∀ c, First → s.receiver l = some c → l.addr < l.low ∨ c.spSize < l.addr + l.extent → Refused .scratchRange)
        ∧ (∀ b, (s.landings.find? fun b => b.of l) = some b → b.crew = none → ∃ t, exec i s = .next t ∧ SameBytes s t
            ∧ t.wire = s.wire ∧ t.outbox = s.outbox)
        ∧ (∀ b id pos c,
            (s.landings.find? fun b => b.of l) = some b ∧ b.crew = some (id, pos)
              ∨ First ∧ (∃ r, s.receiver l = some r ∧ l.low ≤ l.addr ∧ l.addr + l.extent ≤ r.spSize ∧ id = r.id
                  ∧ pos = r.pos l.quay) ∧ b = { fresh with crew := some (id, pos) } →
            s.crew id = some c →
            (c.st = .saved → ∃ t, exec i s = .next t ∧ SameBytes s t ∧ t.wire = s.wire ++ [i])
            ∧ (c.st ≠ .saved → s.sound = true → let q := c.quays.getD pos 0
              ∃ t, exec i s = .next t ∧ (∀ a, t.readByte a = s.readByte a)
              ∧ (∀ off, (t.quayAt q).spByte off = lastAt
                  (l.cells.map fun p => (.sp (spStore (c.baseOn q) l.swizzled ((l.addr : Int) + p.1).toNat), p.2)) (IsSp off)
                  ((s.quayAt q).spByte off))
              ∧ (∀ n, n ≠ q → ∀ off, (t.quayAt n).spByte off = (s.quayAt n).spByte off)
              ∧ (l.srcDev = s.devId → l.kind ≠ .sendh →
                  t.wire = s.wire ++ [.acknowledgementArrive (.beat l.srcQuay l.srcSeq l.upto)])
              ∧ (∀ pc, b.next l = none → l.handler = some pc → ∃ a, (t.quayAt q).arrivals = (s.quayAt q).arrivals ++ [a]
                  ∧ a.crew = c.id ∧ a.pc = BitVec.ofNat 32 pc ∧ a.x.get 0 = BitVec.ofNat 64 l.addr
                  ∧ a.x.get 1 = BitVec.ofNat 64 l.bytes ∧ a.x.get 2 = BitVec.ofNat 64 (l.srcDev % 64 + l.srcQuay % 512 * 64)
                  ∧ a.x.get 3 = l.x3 ∧ a.x.get 4 = l.x4 ∧ a.x.get 5 = l.x5)
              ∧ (b.next l ≠ none ∨ l.handler = none → (t.quayAt q).arrivals = (s.quayAt q).arrivals)
              ∧ (∀ n, b.next l = some n → n ∈ t.landings)))))
  ∧ (
    ∀ (s : State),
      (∀ k a c, s.quay.arrivals[k]? = some a → s.crew a.crew = some c → c.st = .placed →
          (∀ n, s.dormantOf s.here c.id = some n → ∃ t, exec (.arrivalHandlerStart k) s = .next t
            ∧ t.quay.arrivals = listErase s.quay.arrivals k ∧ (t.quay.ctx n).st = .ready ∧ (t.quay.ctx n).pc = a.pc
            ∧ (∀ i, i < 6 → vget 0 (t.quay.ctx n).regs.x i = vget 0 a.x i) ∧ (t.quay.ctx n).crew = some c.id)
          ∧ (s.dormantOf s.here c.id = none → s.quay.deque.length < 1024 → ∃ t m, exec (.arrivalHandlerStart k) s = .next t
            ∧ t.quay.arrivals = listErase s.quay.arrivals k ∧ t.quay.deque = s.quay.deque ++ [m] ∧ m.resume = a.pc ∧ m.x = a.x
            ∧ m.flags.toNat % 4 = 2 ∧ m.hint = BitVec.ofNat 32 s.here))
      ∧ (∀ q n f d, CmdAt s q n d → d.phase ≠ .halted → ∃ t, exec (.arrivalRefusalReturn (.command q n f)) s = .next t
          ∧ SameBytes s t ∧ ∃ e, CmdAt t q n e ∧ e.phase = .halted ∧ e.fcode = f.code ∧ e.findex = 0 ∧ e.count = 0
            ∧ e.attempt = d.attempt + 1)
      ∧ (∀ q k c b pc f p n, s.strandAt b = .ctx p n → ∃ t, exec (.arrivalRefusalReturn (.sendh q k c b pc f)) s = .next t
          ∧ ((t.quayAt p).ctx n).asyncs = ((s.quayAt p).ctx n).asyncs ++ [⟨f, 0, BitVec.ofNat 32 pc, 0, 2⟩]))

/-! ### Harbourmaster, pager and host -/

/-- R334, R335, R346 to R348: counters count down to zero and make their waiters ready; futures give their value to
the waiters, once. The number of a counter is taken modulo 4,096 (log 85), and a future's reserved bits keep what they
hold (log 98): the model's choices. R320, R321, R323, R324: the next record of an enabled queue enters its window; one
that is malformed goes to the error log; the queue waits while the window is full or nothing is published. -/
def Obligations.CountersFuturesQueues : Prop :=
  (
    ∀ (s : State) (k : Nat),
      (∀ q n sl c v, s.depOps[k]? = some (.set q n sl c v) → v ≠ 0 → ∃ t,
        exec (.depCounterApply k) s = .next t ∧ (sparseGet 0 t.counters (4096 * sl + c % 4096) : BitVec 32) = v
        ∧ t.depOps = listErase s.depOps k ∧ t.depWait = s.depWait ∧ ∀ d, CmdAt s q n d → ∀ e ∈ (t.quayAt q).dock, e.seq ≠ n)
      ∧ (∀ q n sl c, s.depOps[k]? = some (.dec q n sl c) → (sparseGet 0 s.counters (4096 * sl + c % 4096) : BitVec 32) = 0 →
          ∀ d, CmdAt s q n d → ∃ t e, exec (.depCounterApply k) s = .next t ∧ CmdAt t q n e ∧ e.phase = .halted
            ∧ e.fcode = FaultCode.depUnderflow.code ∧ t.counters = s.counters)
      ∧ (∀ q n sl c v, s.depOps[k]? = some (.dec q n sl c) → v = (sparseGet 0 s.counters (4096 * sl + c % 4096) : BitVec 32) →
          1 < v.toNat → ∃ t, exec (.depCounterApply k) s = .next t
            ∧ (sparseGet 0 t.counters (4096 * sl + c % 4096) : BitVec 32) = v - 1 ∧ t.depWait = s.depWait)
      ∧ (∀ q n sl c p m, s.depOps[k]? = some (.dec q n sl c) → (sparseGet 0 s.counters (4096 * sl + c % 4096) : BitVec 32) = 1 →
          s.depWait = [(4096 * sl + c % 4096, .record p false m)] → (s.quayAt p).deque.length < 1024 → ∃ t r,
            exec (.depCounterApply k) s = .next t ∧ t.depWait = [] ∧ (t.quayAt p).deque = (s.quayAt p).deque ++ m :: r)
      ∧ (∀ q n sl c w, s.depOps[k]? = some (.bind q n sl c w) →
          (sparseGet 0 s.counters (4096 * sl + c % 4096) : BitVec 32) ≠ 0 → ∃ t, exec (.depCounterApply k) s = .next t
            ∧ t.depWait = s.depWait ++ [(4096 * sl + c % 4096, w)] ∧ t.counters = s.counters)
      ∧ (∀ q n sl va v ls, s.futOps[k]? = some (.resolve q n sl va v) → s.futRunning q n = true →
          s.futureLocs sl va = .ok ls → (∀ d, CmdAt s q n d → ∀ i, s.strandAt d.owner ≠ .image i) →
          let f := ofLeBytes (ls.map s.readLoc)
          (f % 2 = 1 → ∃ t, exec (.futureOpApply k) s = .next t ∧ SameBytes s t ∧ t.futWait = s.futWait
            ∧ t.futOps = listErase s.futOps k)
          ∧ (f % 2 = 0 → ∃ t, exec (.futureOpApply k) s = .next t ∧ t.mem = (s.putFuture ls 0 true f v).mem
              ∧ t.futWait = s.futWait.filter fun w => w.1 != s.futureKey ls))
      ∧ (∀ q n sl va m ls, s.futOps[k]? = some (.wait q n sl va m) → s.futRunning q n = true →
          s.futureLocs sl va = .ok ls → (∀ d, CmdAt s q n d → ∀ i, s.strandAt d.owner ≠ .image i) →
          let f := ofLeBytes (ls.map s.readLoc)
          (f % 2 = 1 → (s.quayAt q).deque.length < 1024 → ∃ t m' r, exec (.futureOpApply k) s = .next t ∧ SameBytes s t
              ∧ (t.quayAt q).deque = (s.quayAt q).deque ++ m' :: r ∧ m'.x.get 5 = BitVec.ofNat 64 (f / 2 ^ 64 % 2 ^ 64)
              ∧ m'.resume = m.resume)
          ∧ (f % 2 = 0 → ∃ t, exec (.futureOpApply k) s = .next t ∧ t.futWait = s.futWait ++ [(s.futureKey ls, m)]
              ∧ t.mem = (s.putFuture ls (min (f / 2 ^ 32 % 2 ^ 32 + 1) (2 ^ 32 - 1)) false f
                  (BitVec.ofNat 64 (f / 2 ^ 64 % 2 ^ 64))).mem)))
  ∧ (
    ∀ (s : State) (q : Fin 64), let x := s.queueAt q.val
      let ahead := ((BitVec.ofNat 32 (sparseGet {} s.gtms (x.doorbell % 4096)).value) - x.head).toNat
      (x.weight = 0 ∨ x.stopped = true ∨ ahead = 0 ∨ 16 ≤ x.window.length → exec (.queueTakeRecord q) s = .next s)
      ∧ (x.weight ≠ 0 → x.stopped = false → x.window.length < 16 → s.pagerHolds (.ring q.val) = false →
          (x.size.toNat < ahead → ∃ t, exec (.queueTakeRecord q) s = .next t ∧ (t.queueAt q.val).stopped = true
            ∧ (t.queueAt q.val).errs = x.errs + 1 ∧ (t.queueAt q.val).head = x.head)
          ∧ (0 < ahead → ahead ≤ x.size.toNat → ∀ raw, let va := x.ring.toNat + 128 * (x.head.toNat % x.size.toNat)
              s.readAt (sliceReacher x.slice) false false (va : Int) 128 128 = .ok raw →
              let l : LaunchRec := { raw := BitVec.ofNat 1024 raw, addr := va }
              (∀ f, s.recordFaultOf x.slice l = some f → ∃ t, exec (.queueTakeRecord q) s = .next t
                ∧ (t.queueAt q.val).head = x.head + 1 ∧ (t.queueAt q.val).errs = x.errs + 1
                ∧ (t.queueAt q.val).shipments = x.shipments)
              ∧ (s.recordFaultOf x.slice l = none → ∃ t y, exec (.queueTakeRecord q) s = .next t
                ∧ (t.queueAt q.val).head = x.head + 1 ∧ (t.queueAt q.val).errs = x.errs ∧ SameBytes s t
                ∧ (t.queueAt q.val).shipments = x.shipments ++ [y] ∧ y.lr = l ∧ y.key = s.nextShip
                ∧ y.index = x.head.toNat ∧ y.ready = (l.depctr == 0xFFFF)))))

/-- R35, R326 to R328, R330, R340, R341: a crew whose conditions hold and that fits is placed and starts, after the
acquire of its trigger bits; one that has ended retires; one that the system context ends leaves the error log's
entry. R322, R331, R332, R336, R337, R342: stopping, saving and restoring crews, taking records, energy accounts and
quanta. A request to stop stands until the crew is saved, and its arrivals become mooring records then (log 97); what
a crew has saved is kept as data (log 90): the model's readings. -/
def Obligations.CrewsComeAndGo : Prop :=
  (
    ∀ (s : State),
      (∀ (q : Fin 64) ship crew x, s.ship? q.val ship = some x →
        (x.failed = true ∨ x.lr.ncrew ≤ crew ∨ crew ∈ x.started → exec (.crewPlace q ship crew) s = .next s)
        ∧ (x.failed = false → crew < x.lr.ncrew → crew ∉ x.started → (s.queueAt q.val).weight ≠ 0 →
            s.pagerHolds (.placement q.val ship crew) = false → s.crewOf q.val ship crew = none →
            (s.triggered (s.queueAt q.val).slice x crew = false → exec (.crewPlace q ship crew) s = .next s)
            ∧ (s.canPlace q.val x.lr crew = none → exec (.crewPlace q ship crew) s = .next s)
            ∧ (∀ xs im, (∀ k ∈ s.crews, k.id ≠ s.nextCrew) → s.triggered (s.queueAt q.val).slice x crew = true → s.givesWay q.val = false →
                s.lowestFirst q.val x crew = true → s.canPlace q.val x.lr crew = some xs →
                let u := (s.acquireBits (s.queueAt q.val).slice x.lr).reserve (newCrew s q.val x crew xs)
                u.readImage (s.queueAt q.val).slice x.lr = .ok im →
                ∃ t, exec (.crewPlace q ship crew) s = .next t ∧ t = u.startCrew (newCrew s q.val x crew xs) im
                  ∧ ∃ k ∈ t.crews, k.id = s.nextCrew ∧ k.st = .placed ∧ k.live = x.lr.quays * x.lr.ctxs
                      ∧ k.quays = xs.map Share.quay))
        ∧ (∀ c, x.failed = false → crew < x.lr.ncrew → crew ∉ x.started → (s.queueAt q.val).weight ≠ 0 →
            s.pagerHolds (.placement q.val ship crew) = false → s.crewOf q.val ship crew = some c →
            (s.bandAllows q.val c.lr c.quays = false → exec (.crewPlace q ship crew) s = .next s)
            ∧ (∀ im, s.bandAllows q.val c.lr c.quays = true → s.readImage c.slice c.lr = .ok im →
                exec (.crewPlace q ship crew) s = .next (s.startCrew c im))))
      ∧ (∀ id c, s.crew id = some c → c.st ≠ .retiring → s.retires c = false → exec (.crewRetire id) s = .next s)
      ∧ (∀ id c, s.crew id = some c → c.st = .placed → s.retires c = true → c.lr.cbmp = 0 → c.lr.byJetty = false →
          c.id = id → ∃ t, exec (.crewRetire id) s = .next t ∧ SameBytes s t ∧ (∀ k ∈ t.crews, k.id ≠ id)
            ∧ (∀ k, k ∈ t.crews ↔ k ∈ s.crews ∧ k.id ≠ id))
      ∧ (∀ id c, s.crew id = some c → c.id = id → c.st ≠ .retiring → ∃ t, exec (.crewEnd id) s = .next t
          ∧ (∀ k ∈ t.crews, k.id ≠ id) ∧ (t.queueAt c.queue).errs = (s.queueAt c.queue).errs + (if c.queue < 64 then 1 else 0))
      ∧ (∀ id, s.crew id = none → exec (.crewRetire id) s = .next s ∧ exec (.crewEnd id) s = .next s))
  ∧ (
    ∀ (s : State),
      (∀ id c, s.crew id = some c →
        (c.stop = false → s.system = false ∨ c.st ≠ .placed → exec (.crewPreempt id) s = .next s)
        ∧ (c.stop = false → s.system = true → c.st = .placed → ∃ t k, exec (.crewPreempt id) s = .next t ∧ t.crew id = some k
            ∧ k = { c with stop := true })
        ∧ (c.stop = true → s.canStop c = false → exec (.crewPreempt id) s = .next s)
        ∧ (c.stop = true → s.canStop c = true → let u := c.quays.foldl (fun s q => s.moorArrivals c q) (s.landCrew c)
            ∃ t, exec (.crewPreempt id) s = .next t ∧ ∃ k ∈ t.crews, k.id = id ∧ k.st = .saved ∧ k.stop = false
              ∧ k.saved = (List.range c.quays.length).map (u.saveQuay c))
        ∧ (c.restoring = false → c.st ≠ .saved → exec (.crewRestore id) s = .next s)
        ∧ (c.restoring = false → c.st = .saved → s.givesWay c.queue = true ∨ s.canPlace c.queue c.lr c.index = none →
            exec (.crewRestore id) s = .next s)
        ∧ (∀ xs, c.restoring = false → c.st = .saved → s.givesWay c.queue = false → s.canPlace c.queue c.lr c.index = some xs →
            exec (.crewRestore id) s = .next (s.comeBack c xs))
        ∧ (c.restoring = true → ∃ t, exec (.crewRestore id) s = .next t ∧ t.quays = s.quays
            ∧ t.crew id = some { c with restoring := false }))
      ∧ (s.nextPickup = none → exec .recordPickup s = .next s)
      ∧ (∀ q k m c n, s.nextPickup = some (q, k, m, c, n) → m.reserved = false → m.fr = false → ∃ t,
          exec .recordPickup s = .next t ∧ (t.quay.ctx n).st = .ready ∧ (t.quay.ctx n).pc = m.resume
          ∧ (∀ i, i < 6 → vget 0 (t.quay.ctx n).regs.x i = vget 0 m.x i) ∧ (t.quay.ctx n).crew = some c.id ∧ SameBytes s t)
      ∧ (∀ l : List (Nat × Nat), ∃ t, exec (.energyWindow l) s = .next t ∧ t.energyWin = s.refTime / 100000
          ∧ ∀ q, q < 64 →
            let all := ((s.roundOf (s.queueAt q).slice).map fun p => (s.queueAt p).weight).sum
            let ebud := (vget {} s.slices (s.queueAt q).slice).ebud.toNat
            (t.queueAt q).energy = (if s.refTime / 100000 = s.energyWin then (s.queueAt q).energy else 0)
                + ((l.filter fun p => p.1 == q).map Prod.snd).sum
              ∧ (0 < all → (t.queueAt q).share = ebud * (s.queueAt q).weight / all))
      ∧ (∀ sl : Fin 16, let d := s.slices.get sl
          (d.turn < 64 → s.queueBusy d.turn = true → s.refTime < d.quantumStart + 5000 * (s.queueAt d.turn).weight →
            exec (.quantumExpiry sl) s = .next s)
          ∧ (∀ q, d.turn < 64 → d.quantumStart + 5000 * (s.queueAt d.turn).weight ≤ s.refTime →
              s.nextTurn sl.val = some q → ∃ t, exec (.quantumExpiry sl) s = .next t ∧ (t.slices.get sl).turn = q
                ∧ (t.slices.get sl).quantumStart = s.refTime ∧ t.queues = s.queues ∧ t.crews.map Crew.id = s.crews.map Crew.id
                ∧ ∀ c, c.id ∈ s.redCrews q → s.crew c.id = some c → c.st = .placed → ∃ k ∈ t.crews, k.id = c.id ∧ k.stop = true)))

/-- R176, R177, R432: a batch that is old enough or full closes into merged ranges, which take their tickets in order
and go to the log with MSI-X 0 while the log has room. That tickets count up (log 28) and what WAITERS counts (log 41)
are the model's readings. R176, R177: what a merge makes: faults of one page or of neighbouring pages of a slice and a
GiB form one range, which counts them and their waiters and joins their access bits. R178, R432: the answer to a
delivered ticket ends the waits of the faults of its range, not of other faults on its pages: contexts that are still
PARKED go on or, when denied, become FAULTED with PERMISSION; the answer to a ticket that is not outstanding ends no
wait, and leaves the page mappings that system software has made before it. -/
def Obligations.PagerServesFaults : Prop :=
  (
    ∀ (s : State), let p := s.pager
      (p.batch = [] ∨ (p.batch.length < 256 ∧ s.refTime < p.batchTime + 2000) → exec .pagerBatchClose s = .next s)
      ∧ (∀ f, p.batch = [f] → p.batchTime + 2000 ≤ s.refTime → p.closed = [] →
          let r : FaultRange :=
            { ticket := p.nextTicket, slice := f.slice, page := f.page, pages := 1
              waiters := f.waiter.strand + s.strandsBehind (FaultRange.one f p.batchTime), access := f.access, faults := 1
              time := p.batchTime, members := [f] }
          ∃ t, exec .pagerBatchClose s = .next t ∧ t.pager.batch = [] ∧ t.pager.nextTicket = p.nextTicket + 1
            ∧ ((p.pidx - p.cidx).toNat < p.logSize.toNat → t.pager.closed = [] ∧ t.pager.delivered = p.delivered ++ [r]
                ∧ t.pager.pidx = p.pidx + 1 ∧ t.outbox = s.outbox ++ [.msix 0]
                ∧ t.mem = (s.writeBytes (hostPhys (p.logBase.toNat + 32 * (p.pidx.toNat % p.logSize.toNat))) r.entry).mem)
            ∧ (p.logSize.toNat ≤ (p.pidx - p.cidx).toNat → t.pager.closed = [r] ∧ t.pager.delivered = p.delivered
                ∧ t.mem = s.mem))
      ∧ (p.closed = [] ∨ p.logSize.toNat ≤ (p.pidx - p.cidx).toNat → exec .pagerLogDeliver s = .next s)
      ∧ (∀ r, p.closed = [r] → (p.pidx - p.cidx).toNat < p.logSize.toNat → ∃ t, exec .pagerLogDeliver s = .next t
          ∧ t.pager.closed = [] ∧ t.pager.delivered = p.delivered ++ [r] ∧ t.pager.pidx = p.pidx + 1
          ∧ t.outbox = s.outbox ++ [.msix 0]))
  ∧ (
    ∀ (f g : PageFault) (time : Nat),
      (g.slice = f.slice → (g.page = f.page ∨ g.page = f.page + 1) → f.page / 2 ^ 14 = g.page / 2 ^ 14 →
        ∃ r, mergeFaults time [f, g] [] = [r] ∧ r.slice = f.slice ∧ r.page = f.page ∧ r.pages = g.page + 1 - f.page
          ∧ r.faults = 2 ∧ r.waiters = f.waiter.strand + g.waiter.strand ∧ r.access = f.access ||| g.access
          ∧ r.members = [f, g] ∧ r.time = time)
      ∧ (g.slice ≠ f.slice ∨ f.page + 1 < g.page ∨ f.page / 2 ^ 14 ≠ g.page / 2 ^ 14 →
          (mergeFaults time [f, g] []).map FaultRange.members = [[f], [g]])
      ∧ (∀ (r : FaultRange), r.entry.length = 32))
  ∧ (
    ∀ (s : State) (maps : List Mapping), s.host.ucie = true → s.host.fwok = true → s.host.busy = false →
      let n := s.pager.answerTicket.toNat % 2 ^ 32
      (∀ v : Word, 1 < v.toNat → exec (.faultAnswerWrite v maps) s = .next s)
      ∧ ((∀ r ∈ s.pager.delivered, r.ticket ≠ n) → exec (.faultAnswerWrite 1 maps) s = .next s
          ∧ ∃ t, exec (.faultAnswerWrite 0 maps) s = .next t ∧ t.pages = maps ++ s.pages ∧ t.quays = s.quays)
      ∧ (∀ r q c x f, s.pager.delivered = [r] → r.ticket = n → r.members = [f] → f.waiter = .context q c.val → s.images = [] →
          x = (s.quayAt q).ctx c → x.st = .parked → x.waitOn = .page f.slice f.page f.id → (∀ k ∈ s.crews, k.saved = []) →
          (∃ t, exec (.faultAnswerWrite 0 maps) s = .next t ∧ ((t.quayAt q).ctx c).st = .parked
            ∧ ((t.quayAt q).ctx c).waitOn = .nothing ∧ t.pages = maps ++ s.pages ∧ t.pager.delivered = [] ∧ SameBytes s t)
          ∧ (∀ p d : Nat, d ≠ f.id → p ≠ q →
              ((s.quayAt p).ctx c).waitOn = .page f.slice f.page d → ∃ t, exec (.faultAnswerWrite 0 maps) s = .next t
              ∧ ((t.quayAt p).ctx c).waitOn = .page f.slice f.page d)
          ∧ ∃ t, exec (.faultAnswerWrite 1 maps) s = .next t ∧ ((t.quayAt q).ctx c).st = .faulted
            ∧ ((t.quayAt q).ctx c).fault.toNat % 256 = FaultCode.permission.code ∧ t.pages = s.pages
            ∧ t.sysInbox.length = s.sysInbox.length + 1 ∧ t.pager.delivered = [] ∧ SameBytes s t))

/-- R429, R433: accesses to BAR0 of other than 4 or 8 bytes, naturally aligned, read all ones and write nothing; then
the writes of the haven, of doorbells, of the clamp and of the bands; firmware lowers the clamp and never raises it.
The haven's one write (log 64), when a doorbell acts (log 66) and the kept half of a 4-byte write (log 68) are the
model's choices; that firmware lowers the clamp by a deed of its own is log 133. R428, R430, R431, R433 to R436:
bring-up, the check of the firmware's key, signature and version, the loss of host modules, power and heat. Where the
key, the signature and the version stand in the image, and the order of their checks, is log 132; what an undervoltage
keeps is log 63, the steps of a band log 69 and what fails a port log 118: the model's choices. R50, R428, R431, R435
to R437: the attestation mailbox, whose report is signed with the fused device secret, and the host's and the
firmware's accesses to HBM: firmware writes pass only into its own window of 256 MiB. The report's index is log 70;
that an access which is not allowed has no effect is log 72, and where the window lies is log 133: the model's
choices. -/
def Obligations.HostAndBringUp : Prop :=
  (
    ∀ (s : State) (v : Word), HostRuns s →
      (∀ off size : Nat, (size ≠ 4 ∧ size ≠ 8) ∨ (0 < size ∧ off % size ≠ 0) →
          exec (.bar0RegisterWrite off size v) s = .next s ∧ s.bar0Read off size = BitVec.allOnes 64)
      ∧ (∀ w : Nat, s.bar0Read (8 * w) 8 = s.bar0 (8 * w))
      ∧ (∃ t, exec (.bar0RegisterWrite 0x3200 8 v) s = .next t ∧ t.pager = { s.pager with logBase := v } ∧ SameBytes s t
          ∧ t.bar0 0x3200 = v)
      ∧ (∃ t, exec (.bar0RegisterWrite 0x3218 8 v) s = .next t ∧ t.pager = { s.pager with cidx := v } ∧ t.bar0 0x3218 = v)
      ∧ (∃ t, exec (.bar0RegisterWrite 0x3204 4 v) s = .next t
          ∧ t.pager.logBase = (s.pager.logBase &&& 0xFFFFFFFF) ||| (v <<< 32))
      ∧ exec (.bar0RegisterWrite 0x3210 8 v) s = .next s ∧ exec (.bar0RegisterWrite 0 8 v) s = .next s
      ∧ (∀ i w : Nat, i < 16 → w < 8 → w ≠ 1 → ∃ t,
          exec (.bar0RegisterWrite (0x1000 + 64 * i + 8 * w) 8 v) s = .next t ∧ t.bar0 (0x1000 + 64 * i + 8 * w) = v
          ∧ ∀ j, j ≠ i → vget {} t.slices j = vget {} s.slices j)
      ∧ (∀ g : Fin 4096, let m : GlobalMark := sparseGet {} s.gtms g.val
          let n := v.toNat % 2 ^ 32
          let named := ∃ q : Fin 64, (s.queues.get q).weight ≠ 0 ∧ (s.queues.get q).doorbell = g.val
          (named → m.value < n → ∃ t, exec (.doorbellWrite g v) s = .next t
            ∧ (sparseGet ({} : GlobalMark) t.gtms g.val).value = n ∧ SameBytes s t
            ∧ ∀ j, j ≠ g.val → sparseGet ({} : GlobalMark) t.gtms j = sparseGet {} s.gtms j)
          ∧ (¬ named ∨ n ≤ m.value → exec (.doorbellWrite g v) s = .next s))
      ∧ (s.host.havenSet = true → exec (.havenMaskWrite v) s = .next s)
      ∧ (s.host.havenSet = false → ∃ t, exec (.havenMaskWrite v) s = .next t ∧ t.members = v ∧ t.host.havenSet = true
          ∧ t.devId = s.host.ownIdReg.toNat % 64 ∧ t.mem = s.mem ∧ t.quays = s.quays)
      ∧ (∃ t, exec (.clampWrite v) s = .next t ∧ t.host = { s.host with clamp := min 3600 (v.toNat % 2 ^ 12) } ∧ SameBytes s t)
      ∧ (let a := v.toNat % 256
         let r := v.toNat / 256 % 256
         (a + 5 < r → r < 115 → ∃ t, exec (.bandThresholdWrite v) s = .next t ∧ t.host = { s.host with amber := a, red := r })
         ∧ (r ≤ a + 5 ∨ 115 ≤ r → exec (.bandThresholdWrite v) s = .next s))
      ∧ (∀ n : Nat, (Deed.firmwareClamp n).act s = { s with host := { s.host with clamp := min s.host.clamp n } })
      ∧ exec (.fwlenWrite v) s = .next s)
  ∧ (
    ∀ (s : State), let h := s.host
      (h.power = false → ∃ t, exec .powerWake s = .next t ∧ t.host.power = true ∧ t.host.rom = true
        ∧ (t.host.ucie = true ↔ ∃ m : Fin 4, h.modules.get m = true) ∧ SameBytes s t)
      ∧ (h.power = true → exec .powerWake s = .next s)
      ∧ (∀ v : Word, h.ucie = true → h.fwok = false → h.busy = false → ∃ t, exec (.fwlenWrite v) s = .next t
          ∧ t.host.fwlen.toNat = v.toNat % 2 ^ 32 ∧ (t.host.fetching = true ↔ h.fwerr = 0))
      ∧ (h.fetching = false → ∀ e, exec (.firmwareCheck e) s = .next s)
      ∧ (h.fetching = true → let image := s.readBytes (hostPhys h.fwaddr.toNat) h.fwlen.toNat
          let key := Config.imageKey image
          let signed : Bool := Config.shake256 (leBytes 68 key.toNat) == Config.fusedKeyDigest
            && Config.xmssVerify key image (Config.imageSignature image)
          (∃ t, exec (.firmwareCheck false) s = .next t ∧ t.host = { h with fetching := false, fwerr := 3 } ∧ SameBytes s t)
          ∧ ∃ t, exec (.firmwareCheck true) s = .next t ∧ SameBytes s t
            ∧ t.host = if signed = false then { h with fetching := false, fwerr := 1 }
              else if Config.imageVersion image < Config.firmwareFloor then { h with fetching := false, fwerr := 2 }
              else { h with fetching := false, fwok := true, fwDigest := Config.shake256 image })
      ∧ (h.fwok = false → ∀ f k, exec (.functionReady f k) s = .next s)
      ∧ (h.fwok = true → ∀ n k, n < 320 → (s.quayAt n).ready = false → (s.quayAt n).failed = false → ∃ t,
          exec (.functionReady (.quay n) k) s = .next t ∧ (t.quayAt n).ready = k ∧ (t.quayAt n).failed = !k)
      ∧ (h.fwok = true → ∀ n k, n < 8 → (h.hbmReady ||| h.hbmFail).getLsbD n = false → ∃ t,
          exec (.functionReady (.stack n) k) s = .next t
          ∧ t.host.hbmReady = (if k then h.hbmReady ||| BitVec.twoPow 8 n else h.hbmReady)
          ∧ t.host.hbmFail = (if k then h.hbmFail else h.hbmFail ||| BitVec.twoPow 8 n))
      ∧ (∀ (p : Fin 18) l k, let x := s.ports.get p
          h.fwok = true → h.havenSet = true → s.portUsed p.val = true → x.ready = false → x.failed = false →
          ∃ t, exec (.functionReady (.port p.val l) k) s = .next t ∧ let y := t.ports.get p
            if k = true ∧ 0 < l then
              y = { x with ready := true, lanes := min 4 l, st := if 4 ≤ l then .up else .degraded }
            else y = { x with failed := true, lanes := 0, st := .down } ∧ t.status.getLsbD 3 = true)
      ∧ (∀ m : Fin 4, ∃ t, exec (.ucieModuleFail m) s = .next t ∧ t.host.modules.get m = false
          ∧ (∀ j, j ≠ m → t.host.modules.get j = h.modules.get j)
          ∧ (t.host.ucie = true ↔ h.ucie = true ∧ ∃ j, j ≠ m ∧ h.modules.get j = true) ∧ SameBytes s t)
      ∧ (∀ a b : Nat, (115 ≤ a ∨ 115 ≤ b → ∃ t, exec (.thermalSample a b) s = .next t ∧ t.host.power = false
            ∧ t.host.signIndex = h.signIndex ∧ (∀ n, t.quayAt n = {}) ∧ t.mem = s.mem.filter fun c => decide (0xC000000000 ≤ c.1))
          ∧ (a < 115 → b < 115 → ∃ t, exec (.thermalSample a b) s = .next t ∧ t.host.temp0 = a ∧ t.host.temp1 = b
              ∧ t.host.actBand0 = h.band0 ∧ t.host.actBand1 = h.band1
              ∧ (h.band0 = 0 → t.host.band0 = if h.amber ≤ a then 1 else 0)
              ∧ (h.band0 = 1 → t.host.band0 = if h.red ≤ a then 2 else if a + 5 < h.amber then 0 else 1)
              ∧ (h.band0 = 2 → t.host.band0 = if a + 5 < h.red then 1 else 2)
              ∧ (t.host.band0 ≠ h.band0 → t.outbox = s.outbox ++ [.msix 2]) ∧ SameBytes s t))
      ∧ (∃ t, exec .clockStretch s = .next t ∧ t.host = { h with stretch := h.stretch + 1 } ∧ SameBytes s t)
      ∧ (∃ t, exec .railUndervoltage s = .next t ∧ t.host.hbmReady = 0 ∧ (∀ n, t.quayAt n = {}) ∧ t.crews = []
          ∧ t.host.clamp = h.clamp ∧ t.status.getLsbD 3 = false ∧ t.mem = s.mem.filter fun c => decide (0xC000000000 ≤ c.1)))
  ∧ (
    ∀ (s : State), let h := s.host
      (h.ucie = true → h.fwok = true → ∀ v : Word,
        (v.getLsbD 0 = false → exec (.attestReqWrite v) s = .next s)
        ∧ (v.getLsbD 0 = true →
            (h.busy = true → ∃ t, exec (.attestReqWrite v) s = .next t ∧ t.host = { h with overrun := true })
            ∧ (h.busy = false → 2 ^ 20 ≤ h.signIndex → ∃ t, exec (.attestReqWrite v) s = .next t
                ∧ t.host = { h with exhausted := true })
            ∧ (h.busy = false → h.signIndex < 2 ^ 20 → ∃ t, exec (.attestReqWrite v) s = .next t
                ∧ t.host = { h with busy := true, signIndex := h.signIndex + 1 }))
        ∧ (h.busy = true → ∀ off, off % 8 = 0 → off ≠ 0x3828 → ∃ t, exec (.bar0RegisterWrite off 8 v) s = .next t
            ∧ t.host.held = h.held ++ [(off, 8, v, [])] ∧ t.pager = s.pager ∧ t.slices = s.slices))
      ∧ (h.busy = false → exec .attestReportDone s = .next s)
      ∧ (h.busy = true → h.held = [] → ∃ t, exec .attestReportDone s = .next t ∧ t.host = { h with busy := false, done := true }
          ∧ t.outbox = s.outbox ++ [.msix 1]
          ∧ t.mem = (s.writeBytes (hostPhys h.repAddr.toNat) (s.reportHead (h.signIndex - 1)
              ++ leBytes 2820 (Config.xmssSign Config.deviceSecret (h.signIndex - 1) (s.reportHead (h.signIndex - 1))).toNat)).mem)
      ∧ (∀ a (d : List Byte), h.ucie = true → h.hbmFail = 0 → h.hbmReady = 0xFF → a + d.length ≤ 0xC000000000 →
          (∃ t, exec (.cxlMemAccess true a d) s = .next t ∧ t.mem = (s.writeBytes a d).mem ∧ t.quays = s.quays)
          ∧ exec (.cxlMemAccess false a d) s = .next (s.emit (.readData a (s.readBytes a d.length))))
      ∧ (∀ w a (d : List Byte), h.ucie = false ∨ h.hbmReady ≠ 0xFF ∨ 0xC000000000 < a + d.length →
          exec (.cxlMemAccess w a d) s = .next s)
      ∧ (∀ a (d : List Byte), h.fwok = true → h.hbmFail = 0 → h.hbmReady = 0xFF →
          ((∀ i, i < d.length → plidonWindow (a + i) = true) → (Deed.firmwareWrite a d).act s = s.writeBytes a d)
          ∧ (∀ i, i < d.length → plidonWindow (a + i) = false → (Deed.firmwareWrite a d).act s = s)))

/-! ### Decoding and the step -/

/-- Words of every slot, written out from the field layouts and opcode maps (R91 to R106), decode to the instructions
they stand for. -/
def Obligations.DecodesSpecWords : Prop :=
  slotInstr .s0 0x00001C407A01 = some (.add { g := .on true 2, d := 3, a := .reg 4, b := .reg 7 })
  ∧ slotInstr .s1 0x008000100042 = some (.statw { second := true, a := .reg 1, imm := 0x80 })
  ∧ slotInstr .m 0x000800400007 = some (.ldD { base := 1, imm := 8 })
  ∧ slotInstr .v0 0x01400205040020 = some (.vfadd { d := 2, a := .reg 5, b := .reg 8, ety := .fp32 })
  ∧ slotInstr .v1 0x2080010102002C = some (.vicmp { second := true, d := 1, a := .reg 1, b := .reg 4, ety := .i32, func := 2 })
  ∧ slotInstr .e 0x00040120C0A00001 = some (.cp { da := 5, db := 6, tm := 9, tag := 2 })
  ∧ slotInstr .b 0x00001003 = some (.go { t := 1 })

/-- R90: an all-zero slot is a NOP of every slot, which a bundle's queues do not hold; OPC 0 with another one bit is
RESERVED_FIELD; the all-zero bundle is valid and queues nothing. -/
def Obligations.ZeroSlotsAreNops : Prop :=
  (∀ k, decodeSlot k 0 = .ok none ∧ ∀ w, w ≠ 0 → field w 0 k.opcWidth = 0 → decodeSlot k w = .error .reservedField)
  ∧ (∀ raw b, decodeBundle raw = .ok b → ∀ k w i, (k, w, i) ∈ b.ops → w ≠ 0)
  ∧ ∃ b, decodeBundle 0 = .ok b ∧ b.ops = [] ∧ bundleItems b = []

/-- Decoding what the encoder writes gives every well-formed instruction back, with every operand. -/
def Obligations.DecodeEncode : Prop :=
  ∀ i k, i.wf = true → i.slot? = some k → encode i < 2 ^ k.width ∧ decodeSlot k (encode i) = .ok (some i)

/-- Every word that decodes is the one word of its instruction, which is well formed and stands in that slot. -/
def Obligations.EncodeDecode : Prop :=
  ∀ k w i, w < 2 ^ k.width → decodeSlot k w = .ok (some i) → encode i = w ∧ i.wf = true ∧ i.slot? = some k

/-- A step whose turn is a core's runs the instruction that the first entry of the slot queues that may begin decodes
to: the entry leaves its queue and its bundle is the one at hand. An entry that is alone in the queues may begin. A
step whose turn is an event runs that event. What a step adds: the turn is taken from the agenda, its quay is the
acting one, the reference clock counts one, the decisions of a lock-step are compared (R187), and results that have
become due land (R116). The agenda and its turns (log 4), the clock that counts steps (log 6) and which entry may
begin within R159's bounds (log 115) are the model's choices. -/
def Obligations.StepRunsDecoded : Prop :=
  ∀ (s : State) (t : Turn) (rest : List Turn),
    s.agenda = t :: rest → s.host.power = true → t.deed = none →
      let s1 : State := { s with agenda := rest, here := t.quay, system := t.system, refTime := s.refTime + 1 }
      (t.event = none → s1.ctx.st = .active → s1.comingBack = false →
        s1.judgeNext.ctx.st = .active → let u := s1.judgeNext.settleOldest
        u.ctx.wdCount < u.ctx.wdMax → u.deciding = true ∨ u.ctx.takesAsync = false →
        (∀ e i, u.candidate = some e → (e.what = .event i ∨ ∃ k w, e.what = .slot k w ∧ slotInstr k w = some i) →
          step s = exec i (u.updCtx fun c =>
            { c with
              queue := c.queue.erase e, ran := e.lane :: c.ran
              bidx := e.idx, curPos := e.pos, curPc := e.pc, curLit := e.lit, curBases := e.bases }))
        ∧ (∀ e, u.ctx.queue = [e] → u.ctx.ran = [] → u.ctx.loads = [] → u.ctx.realigns = [] → e.idx < u.ctx.lastIdx →
          u.candidate = some e))
      ∧ ∀ i, t.event = some i → turnInstr t.system i = true → s1.arrives i = true →
        step s = exec i (s1.takeWire i)

/-- The state after reset is sound: nothing listed in memory or a scratchpad, the device off, every context with the
watchdog limit 0x0100_0000 and skew 1 (R158, R152). -/
def Obligations.ResetIsSound : Prop :=
  State.reset.sound = true ∧ State.reset.mem = [] ∧ State.reset.host.power = false
  ∧ ∀ q c, ((State.reset.quayAt q).ctx c).wdlimit = 0x01000000 ∧ ((State.reset.quayAt q).ctx c).tcqskew = 1

/-- Every step keeps a state sound: memory and every scratchpad stay in their canonical form. -/
def Obligations.StepKeepsSound : Prop :=
  ∀ s t, s.sound = true → step s = .next t → t.sound = true
end

