-- ==== Sys2Proof/Laws/Dispatch.lean ====
section
/-! SUPPORT. `exec` of each constructor is its meaning. -/

namespace Sys2Proof.Machine

@[simp] theorem exec_bundleDispatch (s : State) :
    exec .bundleDispatch s = execBundleDispatch s := rfl
@[simp] theorem exec_codeFetch (line : Nat) (s : State) :
    exec (.codeFetch line) s = execCodeFetch line s := rfl
@[simp] theorem exec_headerWait (bol : Fin 64) (n : Nat) (s : State) :
    exec (.headerWait bol n) s = execHeaderWait bol n s := rfl
@[simp] theorem exec_headerPost (bol : Fin 64) (n : Nat) (s : State) :
    exec (.headerPost bol n) s = execHeaderPost bol n s := rfl
@[simp] theorem exec_yieldLeg (s : State) :
    exec .yieldLeg s = execYieldLeg s := rfl
@[simp] theorem exec_decouple (s : State) :
    exec .decouple s = execDecouple s := rfl
@[simp] theorem exec_rejoin (s : State) :
    exec .rejoin s = execRejoin s := rfl
@[simp] theorem exec_storePerform (k : Nat) (s : State) :
    exec (.storePerform k) s = execStorePerform k s := rfl
@[simp] theorem exec_loadDataLand (ctx : Fin 8) (k : Nat) (s : State) :
    exec (.loadDataLand ctx k) s = execLoadDataLand ctx k s := rfl
@[simp] theorem exec_xlateResult (ctx : Fin 8) (k : Nat) (s : State) :
    exec (.xlateResult ctx k) s = execXlateResult ctx k s := rfl
@[simp] theorem exec_pagerWaiterImageWrite (ctx : Fin 8) (s : State) :
    exec (.pagerWaiterImageWrite ctx) s = execPagerWaiterImageWrite ctx s := rfl
@[simp] theorem exec_asyncFaultTaken (s : State) :
    exec .asyncFaultTaken s = execAsyncFaultTaken s := rfl
@[simp] theorem exec_watchdog (s : State) :
    exec .watchdog s = execWatchdog s := rfl
@[simp] theorem exec_headerWaitHaltTimeout (s : State) :
    exec .headerWaitHaltTimeout s = execHeaderWaitHaltTimeout s := rfl
@[simp] theorem exec_add (o : SOp) (s : State) :
    exec (.add o) s = execAdd o s := rfl
@[simp] theorem exec_sub (o : SOp) (s : State) :
    exec (.sub o) s = execSub o s := rfl
@[simp] theorem exec_addi (o : SOp) (s : State) :
    exec (.addi o) s = execAddi o s := rfl
@[simp] theorem exec_mul (o : SOp) (s : State) :
    exec (.mul o) s = execMul o s := rfl
@[simp] theorem exec_mulh (o : SOp) (s : State) :
    exec (.mulh o) s = execMulh o s := rfl
@[simp] theorem exec_mulhu (o : SOp) (s : State) :
    exec (.mulhu o) s = execMulhu o s := rfl
@[simp] theorem exec_div (o : SOp) (s : State) :
    exec (.div o) s = execDiv o s := rfl
@[simp] theorem exec_divu (o : SOp) (s : State) :
    exec (.divu o) s = execDivu o s := rfl
@[simp] theorem exec_rem (o : SOp) (s : State) :
    exec (.rem o) s = execRem o s := rfl
@[simp] theorem exec_remu (o : SOp) (s : State) :
    exec (.remu o) s = execRemu o s := rfl
@[simp] theorem exec_and (o : SOp) (s : State) :
    exec (.and o) s = execAnd o s := rfl
@[simp] theorem exec_or (o : SOp) (s : State) :
    exec (.or o) s = execOr o s := rfl
@[simp] theorem exec_xor (o : SOp) (s : State) :
    exec (.xor o) s = execXor o s := rfl
@[simp] theorem exec_andi (o : SOp) (s : State) :
    exec (.andi o) s = execAndi o s := rfl
@[simp] theorem exec_ori (o : SOp) (s : State) :
    exec (.ori o) s = execOri o s := rfl
@[simp] theorem exec_xori (o : SOp) (s : State) :
    exec (.xori o) s = execXori o s := rfl
@[simp] theorem exec_shl (o : SOp) (s : State) :
    exec (.shl o) s = execShl o s := rfl
@[simp] theorem exec_shr (o : SOp) (s : State) :
    exec (.shr o) s = execShr o s := rfl
@[simp] theorem exec_sha (o : SOp) (s : State) :
    exec (.sha o) s = execSha o s := rfl
@[simp] theorem exec_shli (o : SOp) (s : State) :
    exec (.shli o) s = execShli o s := rfl
@[simp] theorem exec_shri (o : SOp) (s : State) :
    exec (.shri o) s = execShri o s := rfl
@[simp] theorem exec_shai (o : SOp) (s : State) :
    exec (.shai o) s = execShai o s := rfl
@[simp] theorem exec_min (o : SOp) (s : State) :
    exec (.min o) s = execMin o s := rfl
@[simp] theorem exec_max (o : SOp) (s : State) :
    exec (.max o) s = execMax o s := rfl
@[simp] theorem exec_minu (o : SOp) (s : State) :
    exec (.minu o) s = execMinu o s := rfl
@[simp] theorem exec_maxu (o : SOp) (s : State) :
    exec (.maxu o) s = execMaxu o s := rfl
@[simp] theorem exec_sel (o : SOp) (s : State) :
    exec (.sel o) s = execSel o s := rfl
@[simp] theorem exec_clz (o : SOp) (s : State) :
    exec (.clz o) s = execClz o s := rfl
@[simp] theorem exec_ctz (o : SOp) (s : State) :
    exec (.ctz o) s = execCtz o s := rfl
@[simp] theorem exec_popc (o : SOp) (s : State) :
    exec (.popc o) s = execPopc o s := rfl
@[simp] theorem exec_bext (o : SOp) (s : State) :
    exec (.bext o) s = execBext o s := rfl
@[simp] theorem exec_bins (o : SOp) (s : State) :
    exec (.bins o) s = execBins o s := rfl
@[simp] theorem exec_clmul (o : SOp) (s : State) :
    exec (.clmul o) s = execClmul o s := rfl
@[simp] theorem exec_clmulh (o : SOp) (s : State) :
    exec (.clmulh o) s = execClmulh o s := rfl
@[simp] theorem exec_li (o : SOp) (s : State) :
    exec (.li o) s = execLi o s := rfl
@[simp] theorem exec_lih (o : SOp) (s : State) :
    exec (.lih o) s = execLih o s := rfl
@[simp] theorem exec_lix (o : SOp) (s : State) :
    exec (.lix o) s = execLix o s := rfl
@[simp] theorem exec_cmp (o : SOp) (s : State) :
    exec (.cmp o) s = execCmp o s := rfl
@[simp] theorem exec_cmpi (o : SOp) (s : State) :
    exec (.cmpi o) s = execCmpi o s := rfl
@[simp] theorem exec_copy (o : SOp) (s : State) :
    exec (.copy o) s = execCopy o s := rfl
@[simp] theorem exec_stat (o : SOp) (s : State) :
    exec (.stat o) s = execStat o s := rfl
@[simp] theorem exec_statw (o : SOp) (s : State) :
    exec (.statw o) s = execStatw o s := rfl
@[simp] theorem exec_ldB (o : MOp) (s : State) :
    exec (.ldB o) s = execLdB o s := rfl
@[simp] theorem exec_ldBu (o : MOp) (s : State) :
    exec (.ldBu o) s = execLdBu o s := rfl
@[simp] theorem exec_ldH (o : MOp) (s : State) :
    exec (.ldH o) s = execLdH o s := rfl
@[simp] theorem exec_ldHu (o : MOp) (s : State) :
    exec (.ldHu o) s = execLdHu o s := rfl
@[simp] theorem exec_ldW (o : MOp) (s : State) :
    exec (.ldW o) s = execLdW o s := rfl
@[simp] theorem exec_ldWu (o : MOp) (s : State) :
    exec (.ldWu o) s = execLdWu o s := rfl
@[simp] theorem exec_ldD (o : MOp) (s : State) :
    exec (.ldD o) s = execLdD o s := rfl
@[simp] theorem exec_stB (o : MOp) (s : State) :
    exec (.stB o) s = execStB o s := rfl
@[simp] theorem exec_stH (o : MOp) (s : State) :
    exec (.stH o) s = execStH o s := rfl
@[simp] theorem exec_stW (o : MOp) (s : State) :
    exec (.stW o) s = execStW o s := rfl
@[simp] theorem exec_stD (o : MOp) (s : State) :
    exec (.stD o) s = execStD o s := rfl
@[simp] theorem exec_vld (o : MOp) (s : State) :
    exec (.vld o) s = execVld o s := rfl
@[simp] theorem exec_vst (o : MOp) (s : State) :
    exec (.vst o) s = execVst o s := rfl
@[simp] theorem exec_vlds (o : MOp) (s : State) :
    exec (.vlds o) s = execVlds o s := rfl
@[simp] theorem exec_vsts (o : MOp) (s : State) :
    exec (.vsts o) s = execVsts o s := rfl
@[simp] theorem exec_vldb (o : MOp) (s : State) :
    exec (.vldb o) s = execVldb o s := rfl
@[simp] theorem exec_xlate (o : MOp) (s : State) :
    exec (.xlate o) s = execXlate o s := rfl
@[simp] theorem exec_hrel (o : MOp) (s : State) :
    exec (.hrel o) s = execHrel o s := rfl
@[simp] theorem exec_hstat (o : MOp) (s : State) :
    exec (.hstat o) s = execHstat o s := rfl
@[simp] theorem exec_amo (o : MOp) (s : State) :
    exec (.amo o) s = execAmo o s := rfl
@[simp] theorem exec_cas (o : MOp) (s : State) :
    exec (.cas o) s = execCas o s := rfl
@[simp] theorem exec_red (o : MOp) (s : State) :
    exec (.red o) s = execRed o s := rfl
@[simp] theorem exec_vred (o : MOp) (s : State) :
    exec (.vred o) s = execVred o s := rfl
@[simp] theorem exec_fence (o : MOp) (s : State) :
    exec (.fence o) s = execFence o s := rfl
@[simp] theorem exec_rinv (o : MOp) (s : State) :
    exec (.rinv o) s = execRinv o s := rfl
@[simp] theorem exec_lrfence (o : MOp) (s : State) :
    exec (.lrfence o) s = execLrfence o s := rfl
@[simp] theorem exec_dictld (o : MOp) (s : State) :
    exec (.dictld o) s = execDictld o s := rfl
@[simp] theorem exec_bmwait (o : MOp) (s : State) :
    exec (.bmwait o) s = execBmwait o s := rfl
@[simp] theorem exec_bmset (o : MOp) (s : State) :
    exec (.bmset o) s = execBmset o s := rfl
@[simp] theorem exec_bldset (o : MOp) (s : State) :
    exec (.bldset o) s = execBldset o s := rfl
@[simp] theorem exec_bldrd (o : MOp) (s : State) :
    exec (.bldrd o) s = execBldrd o s := rfl
@[simp] theorem exec_bpost (o : MOp) (s : State) :
    exec (.bpost o) s = execBpost o s := rfl
@[simp] theorem exec_tmw (o : MOp) (s : State) :
    exec (.tmw o) s = execTmw o s := rfl
@[simp] theorem exec_sendh (o : MOp) (s : State) :
    exec (.sendh o) s = execSendh o s := rfl
@[simp] theorem exec_prep (o : BOp) (s : State) :
    exec (.prep o) s = execPrep o s := rfl
@[simp] theorem exec_prepi (o : BOp) (s : State) :
    exec (.prepi o) s = execPrepi o s := rfl
@[simp] theorem exec_go (o : BOp) (s : State) :
    exec (.go o) s = execGo o s := rfl
@[simp] theorem exec_call (o : BOp) (s : State) :
    exec (.call o) s = execCall o s := rfl
@[simp] theorem exec_ret (o : BOp) (s : State) :
    exec (.ret o) s = execRet o s := rfl
@[simp] theorem exec_loop (o : BOp) (s : State) :
    exec (.loop o) s = execLoop o s := rfl
@[simp] theorem exec_lpset (o : BOp) (s : State) :
    exec (.lpset o) s = execLpset o s := rfl
@[simp] theorem exec_lpsetReg (o : BOp) (s : State) :
    exec (.lpsetReg o) s = execLpsetReg o s := rfl
@[simp] theorem exec_trap (o : BOp) (s : State) :
    exec (.trap o) s = execTrap o s := rfl
@[simp] theorem exec_halt (o : BOp) (s : State) :
    exec (.halt o) s = execHalt o s := rfl
@[simp] theorem exec_susp (o : BOp) (s : State) :
    exec (.susp o) s = execSusp o s := rfl
@[simp] theorem exec_tcqgo (o : BOp) (s : State) :
    exec (.tcqgo o) s = execTcqgo o s := rfl
@[simp] theorem exec_rrb (o : BOp) (s : State) :
    exec (.rrb o) s = execRrb o s := rfl
@[simp] theorem exec_faultret (o : BOp) (s : State) :
    exec (.faultret o) s = execFaultret o s := rfl
@[simp] theorem exec_vadd (o : VOp) (s : State) :
    exec (.vadd o) s = execVadd o s := rfl
@[simp] theorem exec_vsub (o : VOp) (s : State) :
    exec (.vsub o) s = execVsub o s := rfl
@[simp] theorem exec_vmul (o : VOp) (s : State) :
    exec (.vmul o) s = execVmul o s := rfl
@[simp] theorem exec_vmulh (o : VOp) (s : State) :
    exec (.vmulh o) s = execVmulh o s := rfl
@[simp] theorem exec_vmac (o : VOp) (s : State) :
    exec (.vmac o) s = execVmac o s := rfl
@[simp] theorem exec_vmacw (o : VOp) (s : State) :
    exec (.vmacw o) s = execVmacw o s := rfl
@[simp] theorem exec_vabs (o : VOp) (s : State) :
    exec (.vabs o) s = execVabs o s := rfl
@[simp] theorem exec_vneg (o : VOp) (s : State) :
    exec (.vneg o) s = execVneg o s := rfl
@[simp] theorem exec_vmin (o : VOp) (s : State) :
    exec (.vmin o) s = execVmin o s := rfl
@[simp] theorem exec_vmax (o : VOp) (s : State) :
    exec (.vmax o) s = execVmax o s := rfl
@[simp] theorem exec_vadds (o : VOp) (s : State) :
    exec (.vadds o) s = execVadds o s := rfl
@[simp] theorem exec_vsubs (o : VOp) (s : State) :
    exec (.vsubs o) s = execVsubs o s := rfl
@[simp] theorem exec_vavg (o : VOp) (s : State) :
    exec (.vavg o) s = execVavg o s := rfl
@[simp] theorem exec_vand (o : VOp) (s : State) :
    exec (.vand o) s = execVand o s := rfl
@[simp] theorem exec_vor (o : VOp) (s : State) :
    exec (.vor o) s = execVor o s := rfl
@[simp] theorem exec_vxor (o : VOp) (s : State) :
    exec (.vxor o) s = execVxor o s := rfl
@[simp] theorem exec_vnot (o : VOp) (s : State) :
    exec (.vnot o) s = execVnot o s := rfl
@[simp] theorem exec_vshl (o : VOp) (s : State) :
    exec (.vshl o) s = execVshl o s := rfl
@[simp] theorem exec_vshr (o : VOp) (s : State) :
    exec (.vshr o) s = execVshr o s := rfl
@[simp] theorem exec_vsha (o : VOp) (s : State) :
    exec (.vsha o) s = execVsha o s := rfl
@[simp] theorem exec_vshli (o : VOp) (s : State) :
    exec (.vshli o) s = execVshli o s := rfl
@[simp] theorem exec_vclmul (o : VOp) (s : State) :
    exec (.vclmul o) s = execVclmul o s := rfl
@[simp] theorem exec_vclmulh (o : VOp) (s : State) :
    exec (.vclmulh o) s = execVclmulh o s := rfl
@[simp] theorem exec_vpopc (o : VOp) (s : State) :
    exec (.vpopc o) s = execVpopc o s := rfl
@[simp] theorem exec_vclz (o : VOp) (s : State) :
    exec (.vclz o) s = execVclz o s := rfl
@[simp] theorem exec_vfadd (o : VOp) (s : State) :
    exec (.vfadd o) s = execVfadd o s := rfl
@[simp] theorem exec_vfsub (o : VOp) (s : State) :
    exec (.vfsub o) s = execVfsub o s := rfl
@[simp] theorem exec_vfmul (o : VOp) (s : State) :
    exec (.vfmul o) s = execVfmul o s := rfl
@[simp] theorem exec_vfma (o : VOp) (s : State) :
    exec (.vfma o) s = execVfma o s := rfl
@[simp] theorem exec_vfmin (o : VOp) (s : State) :
    exec (.vfmin o) s = execVfmin o s := rfl
@[simp] theorem exec_vfmax (o : VOp) (s : State) :
    exec (.vfmax o) s = execVfmax o s := rfl
@[simp] theorem exec_vfabs (o : VOp) (s : State) :
    exec (.vfabs o) s = execVfabs o s := rfl
@[simp] theorem exec_vfneg (o : VOp) (s : State) :
    exec (.vfneg o) s = execVfneg o s := rfl
@[simp] theorem exec_vexp2 (o : VOp) (s : State) :
    exec (.vexp2 o) s = execVexp2 o s := rfl
@[simp] theorem exec_vrcp (o : VOp) (s : State) :
    exec (.vrcp o) s = execVrcp o s := rfl
@[simp] theorem exec_vrsq (o : VOp) (s : State) :
    exec (.vrsq o) s = execVrsq o s := rfl
@[simp] theorem exec_vfcmp (o : VOp) (s : State) :
    exec (.vfcmp o) s = execVfcmp o s := rfl
@[simp] theorem exec_vicmp (o : VOp) (s : State) :
    exec (.vicmp o) s = execVicmp o s := rfl
@[simp] theorem exec_vcvt (o : VOp) (s : State) :
    exec (.vcvt o) s = execVcvt o s := rfl
@[simp] theorem exec_vpackp (o : VOp) (s : State) :
    exec (.vpackp o) s = execVpackp o s := rfl
@[simp] theorem exec_vunpkp (o : VOp) (s : State) :
    exec (.vunpkp o) s = execVunpkp o s := rfl
@[simp] theorem exec_vscale (o : VOp) (s : State) :
    exec (.vscale o) s = execVscale o s := rfl
@[simp] theorem exec_vamax (o : VOp) (s : State) :
    exec (.vamax o) s = execVamax o s := rfl
@[simp] theorem exec_vrsum (o : VOp) (s : State) :
    exec (.vrsum o) s = execVrsum o s := rfl
@[simp] theorem exec_vrmax (o : VOp) (s : State) :
    exec (.vrmax o) s = execVrmax o s := rfl
@[simp] theorem exec_vperm (o : VOp) (s : State) :
    exec (.vperm o) s = execVperm o s := rfl
@[simp] theorem exec_vshuf (o : VOp) (s : State) :
    exec (.vshuf o) s = execVshuf o s := rfl
@[simp] theorem exec_vbcast (o : VOp) (s : State) :
    exec (.vbcast o) s = execVbcast o s := rfl
@[simp] theorem exec_vslide (o : VOp) (s : State) :
    exec (.vslide o) s = execVslide o s := rfl
@[simp] theorem exec_vscan (o : VOp) (s : State) :
    exec (.vscan o) s = execVscan o s := rfl
@[simp] theorem exec_vcomp (o : VOp) (s : State) :
    exec (.vcomp o) s = execVcomp o s := rfl
@[simp] theorem exec_vsel (o : VOp) (s : State) :
    exec (.vsel o) s = execVsel o s := rfl
@[simp] theorem exec_mand (o : VOp) (s : State) :
    exec (.mand o) s = execMand o s := rfl
@[simp] theorem exec_mpopc (o : VOp) (s : State) :
    exec (.mpopc o) s = execMpopc o s := rfl
@[simp] theorem exec_many (o : VOp) (s : State) :
    exec (.many o) s = execMany o s := rfl
@[simp] theorem exec_acrd (o : VOp) (s : State) :
    exec (.acrd o) s = execAcrd o s := rfl
@[simp] theorem exec_acwr (o : VOp) (s : State) :
    exec (.acwr o) s = execAcwr o s := rfl
@[simp] theorem exec_acrdc (o : VOp) (s : State) :
    exec (.acrdc o) s = execAcrdc o s := rfl
@[simp] theorem exec_tcqw (o : VOp) (s : State) :
    exec (.tcqw o) s = execTcqw o s := rfl
@[simp] theorem exec_vmov (o : VOp) (s : State) :
    exec (.vmov o) s = execVmov o s := rfl
@[simp] theorem exec_vli (o : VOp) (s : State) :
    exec (.vli o) s = execVli o s := rfl
@[simp] theorem exec_vcopyx (o : VOp) (s : State) :
    exec (.vcopyx o) s = execVcopyx o s := rfl
@[simp] theorem exec_vidx (o : VOp) (s : State) :
    exec (.vidx o) s = execVidx o s := rfl
@[simp] theorem exec_streamReadElement (ctx : Fin 8) (k : Fin 8) (s : State) :
    exec (.streamReadElement ctx k) s = execStreamReadElement ctx k s := rfl
@[simp] theorem exec_streamWriteElement (ctx : Fin 8) (k : Fin 8) (s : State) :
    exec (.streamWriteElement ctx k) s = execStreamWriteElement ctx k s := rfl
@[simp] theorem exec_commandDockEntry (seq : Nat) (s : State) :
    exec (.commandDockEntry seq) s = execCommandDockEntry seq s := rfl
@[simp] theorem exec_commandStart (seq : Nat) (s : State) :
    exec (.commandStart seq) s = execCommandStart seq s := rfl
@[simp] theorem exec_commandComplete (seq : Nat) (s : State) :
    exec (.commandComplete seq) s = execCommandComplete seq s := rfl
@[simp] theorem exec_craneBeatCommit (seq : Nat) (s : State) :
    exec (.craneBeatCommit seq) s = execCraneBeatCommit seq s := rfl
@[simp] theorem exec_chaseCycleWalk (seq : Nat) (s : State) :
    exec (.chaseCycleWalk seq) s = execChaseCycleWalk seq s := rfl
@[simp] theorem exec_haltWaitRelease (seq : Nat) (s : State) :
    exec (.haltWaitRelease seq) s = execHaltWaitRelease seq s := rfl
@[simp] theorem exec_globalFollowerUpdate (tm : Fin 64) (remote : Option RemoteMark) (s : State) :
    exec (.globalFollowerUpdate tm remote) s = execGlobalFollowerUpdate tm remote s := rfl
@[simp] theorem exec_cp (o : EOp) (s : State) :
    exec (.cp o) s = execCp o s := rfl
@[simp] theorem exec_cpmm (o : EOp) (s : State) :
    exec (.cpmm o) s = execCpmm o s := rfl
@[simp] theorem exec_cpg (o : EOp) (s : State) :
    exec (.cpg o) s = execCpg o s := rfl
@[simp] theorem exec_cps (o : EOp) (s : State) :
    exec (.cps o) s = execCps o s := rfl
@[simp] theorem exec_cpf (o : EOp) (s : State) :
    exec (.cpf o) s = execCpf o s := rfl
@[simp] theorem exec_cph (o : EOp) (s : State) :
    exec (.cph o) s = execCph o s := rfl
@[simp] theorem exec_cpr (o : EOp) (s : State) :
    exec (.cpr o) s = execCpr o s := rfl
@[simp] theorem exec_cpt (o : EOp) (s : State) :
    exec (.cpt o) s = execCpt o s := rfl
@[simp] theorem exec_tmsetAdv (o : EOp) (s : State) :
    exec (.tmsetAdv o) s = execTmsetAdv o s := rfl
@[simp] theorem exec_tmsetAbandon (o : EOp) (s : State) :
    exec (.tmsetAbandon o) s = execTmsetAbandon o s := rfl
@[simp] theorem exec_tmrst (o : EOp) (s : State) :
    exec (.tmrst o) s = execTmrst o s := rfl
@[simp] theorem exec_tmglbPub (o : EOp) (s : State) :
    exec (.tmglbPub o) s = execTmglbPub o s := rfl
@[simp] theorem exec_tmglbFol (o : EOp) (s : State) :
    exec (.tmglbFol o) s = execTmglbFol o s := rfl
@[simp] theorem exec_tmglbUnb (o : EOp) (s : State) :
    exec (.tmglbUnb o) s = execTmglbUnb o s := rfl
@[simp] theorem exec_tmq (o : EOp) (s : State) :
    exec (.tmq o) s = execTmq o s := rfl
@[simp] theorem exec_tmqGlb (o : EOp) (s : State) :
    exec (.tmqGlb o) s = execTmqGlb o s := rfl
@[simp] theorem exec_sbind (o : EOp) (s : State) :
    exec (.sbind o) s = execSbind o s := rfl
@[simp] theorem exec_sunb (o : EOp) (s : State) :
    exec (.sunb o) s = execSunb o s := rfl
@[simp] theorem exec_sidx (o : EOp) (s : State) :
    exec (.sidx o) s = execSidx o s := rfl
@[simp] theorem exec_mma (o : EOp) (s : State) :
    exec (.mma o) s = execMma o s := rfl
@[simp] theorem exec_mmas (o : EOp) (s : State) :
    exec (.mmas o) s = execMmas o s := rfl
@[simp] theorem exec_mmaGroupStart (seq : Nat) (s : State) :
    exec (.mmaGroupStart seq) s = execMmaGroupStart seq s := rfl
@[simp] theorem exec_mmaKtileRetire (seq : Nat) (s : State) :
    exec (.mmaKtileRetire seq) s = execMmaKtileRetire seq s := rfl
@[simp] theorem exec_acz (o : EOp) (s : State) :
    exec (.acz o) s = execAcz o s := rfl
@[simp] theorem exec_epi (o : EOp) (s : State) :
    exec (.epi o) s = execEpi o s := rfl
@[simp] theorem exec_epiBeatCommit (seq : Nat) (s : State) :
    exec (.epiBeatCommit seq) s = execEpiBeatCommit seq s := rfl
@[simp] theorem exec_pjld (o : EOp) (s : State) :
    exec (.pjld o) s = execPjld o s := rfl
@[simp] theorem exec_rteset (o : EOp) (s : State) :
    exec (.rteset o) s = execRteset o s := rfl
@[simp] theorem exec_rtesetClr (o : EOp) (s : State) :
    exec (.rtesetClr o) s = execRtesetClr o s := rfl
@[simp] theorem exec_bthset (o : EOp) (s : State) :
    exec (.bthset o) s = execBthset o s := rfl
@[simp] theorem exec_bthsetRel (o : EOp) (s : State) :
    exec (.bthsetRel o) s = execBthsetRel o s := rfl
@[simp] theorem exec_bthpop (o : EOp) (s : State) :
    exec (.bthpop o) s = execBthpop o s := rfl
@[simp] theorem exec_tbld (o : EOp) (s : State) :
    exec (.tbld o) s = execTbld o s := rfl
@[simp] theorem exec_tlk (o : EOp) (s : State) :
    exec (.tlk o) s = execTlk o s := rfl
@[simp] theorem exec_tspl (o : EOp) (s : State) :
    exec (.tspl o) s = execTspl o s := rfl
@[simp] theorem exec_tfil (o : EOp) (s : State) :
    exec (.tfil o) s = execTfil o s := rfl
@[simp] theorem exec_tinv (o : EOp) (s : State) :
    exec (.tinv o) s = execTinv o s := rfl
@[simp] theorem exec_tstat (o : EOp) (s : State) :
    exec (.tstat o) s = execTstat o s := rfl
@[simp] theorem exec_pfxh (o : EOp) (s : State) :
    exec (.pfxh o) s = execPfxh o s := rfl
@[simp] theorem exec_pfxm (o : EOp) (s : State) :
    exec (.pfxm o) s = execPfxm o s := rfl
@[simp] theorem exec_pfxi (o : EOp) (s : State) :
    exec (.pfxi o) s = execPfxi o s := rfl
@[simp] theorem exec_pgpin (o : EOp) (s : State) :
    exec (.pgpin o) s = execPgpin o s := rfl
@[simp] theorem exec_pgunp (o : EOp) (s : State) :
    exec (.pgunp o) s = execPgunp o s := rfl
@[simp] theorem exec_pgfork (o : EOp) (s : State) :
    exec (.pgfork o) s = execPgfork o s := rfl
@[simp] theorem exec_pgmaskClr (o : EOp) (s : State) :
    exec (.pgmaskClr o) s = execPgmaskClr o s := rfl
@[simp] theorem exec_pgmaskSet (o : EOp) (s : State) :
    exec (.pgmaskSet o) s = execPgmaskSet o s := rfl
@[simp] theorem exec_pgmaskExport (o : EOp) (s : State) :
    exec (.pgmaskExport o) s = execPgmaskExport o s := rfl
@[simp] theorem exec_pgcmp (o : EOp) (s : State) :
    exec (.pgcmp o) s = execPgcmp o s := rfl
@[simp] theorem exec_pgalloc (o : EOp) (s : State) :
    exec (.pgalloc o) s = execPgalloc o s := rfl
@[simp] theorem exec_pgfree (o : EOp) (s : State) :
    exec (.pgfree o) s = execPgfree o s := rfl
@[simp] theorem exec_pgfreeReclaim (o : EOp) (s : State) :
    exec (.pgfreeReclaim o) s = execPgfreeReclaim o s := rfl
@[simp] theorem exec_kvHomeStep (quay : Nat) (seq : Nat) (s : State) :
    exec (.kvHomeStep quay seq) s = execKvHomeStep quay seq s := rfl
@[simp] theorem exec_cldef (o : EOp) (s : State) :
    exec (.cldef o) s = execCldef o s := rfl
@[simp] theorem exec_clgo (o : EOp) (s : State) :
    exec (.clgo o) s = execClgo o s := rfl
@[simp] theorem exec_clarm (o : EOp) (s : State) :
    exec (.clarm o) s = execClarm o s := rfl
@[simp] theorem exec_cldis (o : EOp) (s : State) :
    exec (.cldis o) s = execCldis o s := rfl
@[simp] theorem exec_mfpub (o : EOp) (s : State) :
    exec (.mfpub o) s = execMfpub o s := rfl
@[simp] theorem exec_clstat (o : EOp) (s : State) :
    exec (.clstat o) s = execClstat o s := rfl
@[simp] theorem exec_clstatLink (o : EOp) (s : State) :
    exec (.clstatLink o) s = execClstatLink o s := rfl
@[simp] theorem exec_clcan (o : EOp) (s : State) :
    exec (.clcan o) s = execClcan o s := rfl
@[simp] theorem exec_clarmFiring (bol : Fin 64) (s : State) :
    exec (.clarmFiring bol) s = execClarmFiring bol s := rfl
@[simp] theorem exec_coderPacket (slot : Fin 64) (s : State) :
    exec (.coderPacket slot) s = execCoderPacket slot s := rfl
@[simp] theorem exec_collectivePacketArrive (p : PacketAt) (s : State) :
    exec (.collectivePacketArrive p) s = execCollectivePacketArrive p s := rfl
@[simp] theorem exec_lighterDecode (k : Nat) (s : State) :
    exec (.lighterDecode k) s = execLighterDecode k s := rfl
@[simp] theorem exec_nackArrive (slot : Fin 64) (receiver : Nat) (id : BlockId) (s : State) :
    exec (.nackArrive slot receiver id) s = execNackArrive slot receiver id s := rfl
@[simp] theorem exec_holdingsArrive (slot : Fin 64) (src : Nat) (first count : Nat) (triples : List (Nat × BlockId × Nat)) (s : State) :
    exec (.holdingsArrive slot src first count triples) s = execHoldingsArrive slot src first count triples s := rfl
@[simp] theorem exec_digestArrive (slot : Fin 64) (src : Nat) (gen : Nat) (digest : Word) (s : State) :
    exec (.digestArrive slot src gen digest) s = execDigestArrive slot src gen digest s := rfl
@[simp] theorem exec_completionReportArrive (slot : Fin 64) (src : Nat) (gen : Nat) (s : State) :
    exec (.completionReportArrive slot src gen) s = execCompletionReportArrive slot src gen s := rfl
@[simp] theorem exec_cancelArrive (slot : Fin 64) (src : Nat) (gen : Nat) (s : State) :
    exec (.cancelArrive slot src gen) s = execCancelArrive slot src gen s := rfl
@[simp] theorem exec_collectiveRefusal (slot : Fin 64) (src : Nat) (gen : Nat) (s : State) :
    exec (.collectiveRefusal slot src gen) s = execCollectiveRefusal slot src gen s := rfl
@[simp] theorem exec_credit (port : Fin 18) (s : State) :
    exec (.credit port) s = execCredit port s := rfl
@[simp] theorem exec_flitReceive (port : Nat) (header : Word) (payload : BitVec 512) (s : State) :
    exec (.flitReceive port header payload) s = execFlitReceive port header payload s := rfl
@[simp] theorem exec_portStateChange (port : Nat) (st : PortState) (lanes : Nat) (s : State) :
    exec (.portStateChange port st lanes) s = execPortStateChange port st lanes s := rfl
@[simp] theorem exec_linkDown (u : LinkUser) (s : State) :
    exec (.linkDown u) s = execLinkDown u s := rfl
@[simp] theorem exec_endToEndReplay (k : Nat) (s : State) :
    exec (.endToEndReplay k) s = execEndToEndReplay k s := rfl
@[simp] theorem exec_memoryReductionApply (r : Reduction) (s : State) :
    exec (.memoryReductionApply r) s = execMemoryReductionApply r s := rfl
@[simp] theorem exec_arrivalLanding (l : Landing) (s : State) :
    exec (.arrivalLanding l) s = execArrivalLanding l s := rfl
@[simp] theorem exec_arrivalHandlerStart (k : Nat) (s : State) :
    exec (.arrivalHandlerStart k) s = execArrivalHandlerStart k s := rfl
@[simp] theorem exec_arrivalRefusalReturn (r : Refused) (s : State) :
    exec (.arrivalRefusalReturn r) s = execArrivalRefusalReturn r s := rfl
@[simp] theorem exec_spawn (o : EOp) (s : State) :
    exec (.spawn o) s = execSpawn o s := rfl
@[simp] theorem exec_depset (o : EOp) (s : State) :
    exec (.depset o) s = execDepset o s := rfl
@[simp] theorem exec_depdec (o : EOp) (s : State) :
    exec (.depdec o) s = execDepdec o s := rfl
@[simp] theorem exec_depCounterApply (k : Nat) (s : State) :
    exec (.depCounterApply k) s = execDepCounterApply k s := rfl
@[simp] theorem exec_futw (o : EOp) (s : State) :
    exec (.futw o) s = execFutw o s := rfl
@[simp] theorem exec_futr (o : EOp) (s : State) :
    exec (.futr o) s = execFutr o s := rfl
@[simp] theorem exec_futureOpApply (k : Nat) (s : State) :
    exec (.futureOpApply k) s = execFutureOpApply k s := rfl
@[simp] theorem exec_launch (o : EOp) (s : State) :
    exec (.launch o) s = execLaunch o s := rfl
@[simp] theorem exec_pilot (o : EOp) (s : State) :
    exec (.pilot o) s = execPilot o s := rfl
@[simp] theorem exec_pnext (o : EOp) (s : State) :
    exec (.pnext o) s = execPnext o s := rfl
@[simp] theorem exec_dqpush (o : EOp) (s : State) :
    exec (.dqpush o) s = execDqpush o s := rfl
@[simp] theorem exec_queueTakeRecord (q : Fin 64) (s : State) :
    exec (.queueTakeRecord q) s = execQueueTakeRecord q s := rfl
@[simp] theorem exec_crewPlace (q : Fin 64) (ship : Nat) (crew : Nat) (s : State) :
    exec (.crewPlace q ship crew) s = execCrewPlace q ship crew s := rfl
@[simp] theorem exec_crewRetire (id : Nat) (s : State) :
    exec (.crewRetire id) s = execCrewRetire id s := rfl
@[simp] theorem exec_crewEnd (id : Nat) (s : State) :
    exec (.crewEnd id) s = execCrewEnd id s := rfl
@[simp] theorem exec_crewPreempt (id : Nat) (s : State) :
    exec (.crewPreempt id) s = execCrewPreempt id s := rfl
@[simp] theorem exec_crewRestore (id : Nat) (s : State) :
    exec (.crewRestore id) s = execCrewRestore id s := rfl
@[simp] theorem exec_recordPickup (s : State) :
    exec .recordPickup s = execRecordPickup s := rfl
@[simp] theorem exec_quantumExpiry (slice : Fin 16) (s : State) :
    exec (.quantumExpiry slice) s = execQuantumExpiry slice s := rfl
@[simp] theorem exec_energyWindow (spent : List (Nat × Nat)) (s : State) :
    exec (.energyWindow spent) s = execEnergyWindow spent s := rfl
@[simp] theorem exec_systemEndStrand (ctx : Fin 8) (s : State) :
    exec (.systemEndStrand ctx) s = execSystemEndStrand ctx s := rfl
@[simp] theorem exec_systemResumeStrand (ctx : Fin 8) (s : State) :
    exec (.systemResumeStrand ctx) s = execSystemResumeStrand ctx s := rfl
@[simp] theorem exec_systemResumeCommand (seq : Nat) (s : State) :
    exec (.systemResumeCommand seq) s = execSystemResumeCommand seq s := rfl
@[simp] theorem exec_pagerBatchClose (s : State) :
    exec .pagerBatchClose s = execPagerBatchClose s := rfl
@[simp] theorem exec_pagerLogDeliver (s : State) :
    exec .pagerLogDeliver s = execPagerLogDeliver s := rfl
@[simp] theorem exec_faultAnswerWrite (v : Word) (maps : List Mapping) (s : State) :
    exec (.faultAnswerWrite v maps) s = execFaultAnswerWrite v maps s := rfl
@[simp] theorem exec_doorbellWrite (g : Fin 4096) (v : Word) (s : State) :
    exec (.doorbellWrite g v) s = execDoorbellWrite g v s := rfl
@[simp] theorem exec_havenMaskWrite (v : Word) (s : State) :
    exec (.havenMaskWrite v) s = execHavenMaskWrite v s := rfl
@[simp] theorem exec_fwlenWrite (v : Word) (s : State) :
    exec (.fwlenWrite v) s = execFwlenWrite v s := rfl
@[simp] theorem exec_firmwareCheck (fetched : Bool) (s : State) :
    exec (.firmwareCheck fetched) s = execFirmwareCheck fetched s := rfl
@[simp] theorem exec_functionReady (f : DevFunction) (ok : Bool) (s : State) :
    exec (.functionReady f ok) s = execFunctionReady f ok s := rfl
@[simp] theorem exec_powerWake (s : State) :
    exec .powerWake s = execPowerWake s := rfl
@[simp] theorem exec_clampWrite (v : Word) (s : State) :
    exec (.clampWrite v) s = execClampWrite v s := rfl
@[simp] theorem exec_bandThresholdWrite (v : Word) (s : State) :
    exec (.bandThresholdWrite v) s = execBandThresholdWrite v s := rfl
@[simp] theorem exec_thermalSample (t0 t1 : Nat) (s : State) :
    exec (.thermalSample t0 t1) s = execThermalSample t0 t1 s := rfl
@[simp] theorem exec_clockStretch (s : State) :
    exec .clockStretch s = execClockStretch s := rfl
@[simp] theorem exec_railUndervoltage (s : State) :
    exec .railUndervoltage s = execRailUndervoltage s := rfl
@[simp] theorem exec_ucieModuleFail (m : Fin 4) (s : State) :
    exec (.ucieModuleFail m) s = execUcieModuleFail m s := rfl
@[simp] theorem exec_attestReqWrite (v : Word) (s : State) :
    exec (.attestReqWrite v) s = execAttestReqWrite v s := rfl
@[simp] theorem exec_attestReportDone (s : State) :
    exec .attestReportDone s = execAttestReportDone s := rfl
@[simp] theorem exec_bar0RegisterWrite (off : Nat) (size : Nat) (v : Word) (s : State) :
    exec (.bar0RegisterWrite off size v) s = execBar0RegisterWrite off size v s := rfl
@[simp] theorem exec_acknowledgementArrive (a : Ack) (s : State) :
    exec (.acknowledgementArrive a) s = execAcknowledgementArrive a s := rfl
@[simp] theorem exec_forkBlockSend (slot : Fin 64) (s : State) :
    exec (.forkBlockSend slot) s = execForkBlockSend slot s := rfl
@[simp] theorem exec_localCopyWrite (slot : Fin 64) (s : State) :
    exec (.localCopyWrite slot) s = execLocalCopyWrite slot s := rfl
@[simp] theorem exec_cxlMemAccess (write : Bool) (addr : Nat) (data : List Byte) (s : State) :
    exec (.cxlMemAccess write addr data) s = execCxlMemAccess write addr data s := rfl
@[simp] theorem exec_poolEnable (slice : Fin 16) (pool : Fin 4) (s : State) :
    exec (.poolEnable slice pool) s = execPoolEnable slice pool s := rfl
@[simp] theorem exec_recordCacheRefill (d : Fin 256) (w : Fin 8) (s : State) :
    exec (.recordCacheRefill d w) s = execRecordCacheRefill d w s := rfl

end Sys2Proof.Machine
end

