-- ==== Sys2Proof/Laws/Sparse.lean ====
section
/-! SUPPORT. Sorted sparse stores: what a key reads after a write, and that writes keep the canonical form. -/

namespace Sys2Proof.Machine

open Sys2Proof

variable {α : Type}

@[simp] theorem sparseGet_put_self (d v : α) (l : Sparse α) (n : Nat) : sparseGet d (sparsePut l n v) n = v := by
  induction l with
  | nil => simp [sparsePut, sparseGet]
  | cons e t ih =>
    obtain ⟨k, w⟩ := e
    by_cases h : n = k
    · simp [sparsePut, sparseGet, h]
    · by_cases g : n < k
      · simp [sparsePut, sparseGet, h, g]
      · simp [sparsePut, sparseGet, h, g, ih]

theorem sparseGet_put_ne (d v : α) (l : Sparse α) {n m : Nat} (h : m ≠ n) :
    sparseGet d (sparsePut l n v) m = sparseGet d l m := by
  induction l with
  | nil =>
    simp only [sparsePut, sparseGet, h, if_false]
    split <;> rfl
  | cons e t ih =>
    obtain ⟨k, w⟩ := e
    by_cases hk : n = k
    · subst hk; simp [sparsePut, sparseGet, h]
    · by_cases g : n < k
      · simp only [sparsePut, hk, g, if_true, if_false, sparseGet, h]
        split
        · split
          · omega
          · split <;> first | rfl | omega
        · rfl
      · simp only [sparsePut, hk, g, if_false, sparseGet, ih]

/-- The keys of a canonical store are at least its lower bound. -/
theorem sparseGet_lt [DecidableEq α] (d : α) {l : Sparse α} {lo n : Nat} (h : sparseWfFrom d lo l = true) (g : n < lo) :
    sparseGet d l n = d := by
  cases l with
  | nil => rfl
  | cons e t =>
    obtain ⟨k, v⟩ := e
    simp only [sparseWfFrom, Bool.and_eq_true, decide_eq_true_eq] at h
    have h1 : n ≠ k := by omega
    have h2 : n < k := by omega
    simp [sparseGet, h1, h2]

theorem sparseWfFrom_mono [DecidableEq α] (d : α) {l : Sparse α} {a b : Nat} (h : sparseWfFrom d b l = true) (g : a ≤ b) :
    sparseWfFrom d a l = true := by
  cases l with
  | nil => rfl
  | cons e t =>
    simp only [sparseWfFrom, Bool.and_eq_true, decide_eq_true_eq] at h ⊢
    exact ⟨⟨by omega, h.1.2⟩, h.2⟩

theorem sparsePut_wfFrom [DecidableEq α] (d : α) {l : Sparse α} {lo n : Nat} {v : α} (h : sparseWfFrom d lo l = true)
    (g : lo ≤ n) (hv : v ≠ d) : sparseWfFrom d lo (sparsePut l n v) = true := by
  induction l generalizing lo with
  | nil => simp [sparsePut, sparseWfFrom, g, hv]
  | cons e t ih =>
    obtain ⟨k, w⟩ := e
    simp only [sparseWfFrom, Bool.and_eq_true, decide_eq_true_eq] at h
    by_cases hk : n = k
    · subst hk; simp [sparsePut, sparseWfFrom, g, hv, h.2]
    · by_cases hl : n < k
      · simp [sparsePut, hk, hl, sparseWfFrom, g, hv, h.1.2, h.2, Nat.succ_le_of_lt hl]
      · simp only [sparsePut, hk, hl, if_false, sparseWfFrom, Bool.and_eq_true, decide_eq_true_eq]
        exact ⟨h.1, ih h.2 (by omega)⟩

theorem sparseDel_wfFrom [DecidableEq α] (d : α) {l : Sparse α} {lo n : Nat} (h : sparseWfFrom d lo l = true) :
    sparseWfFrom d lo (sparseDel l n) = true := by
  induction l generalizing lo with
  | nil => rfl
  | cons e t ih =>
    obtain ⟨k, w⟩ := e
    have h' := h
    simp only [sparseWfFrom, Bool.and_eq_true, decide_eq_true_eq] at h'
    by_cases hk : n = k
    · simp only [sparseDel, hk, if_true]; exact sparseWfFrom_mono d h'.2 (by omega)
    · by_cases hl : n < k
      · simp only [sparseDel, hk, hl, if_true, if_false]; exact h
      · simp only [sparseDel, hk, hl, if_false, sparseWfFrom, Bool.and_eq_true, decide_eq_true_eq]
        exact ⟨h'.1, ih h'.2⟩

theorem sparseSet_wf [DecidableEq α] (d : α) {l : Sparse α} (n : Nat) (v : α) (h : sparseWf d l = true) :
    sparseWf d (sparseSet d l n v) = true := by
  unfold sparseSet
  split
  · exact sparseDel_wfFrom d h
  · exact sparsePut_wfFrom d h (Nat.zero_le n) ‹_›

theorem sparseSetAll_wf [DecidableEq α] (d : α) {l : Sparse α} (t : List (Nat × α)) (h : sparseWf d l = true) :
    sparseWf d (sparseSetAll d l t) = true := by
  induction t generalizing l with
  | nil => exact h
  | cons e t ih => exact ih (sparseSet_wf d e.1 e.2 h)

theorem sparse_filter_wfFrom [DecidableEq α] (d : α) (p : Nat × α → Bool) {l : Sparse α} {lo : Nat}
    (h : sparseWfFrom d lo l = true) : sparseWfFrom d lo (l.filter p) = true := by
  induction l generalizing lo with
  | nil => rfl
  | cons e t ih =>
    have h' := h
    simp only [sparseWfFrom, Bool.and_eq_true, decide_eq_true_eq] at h'
    rw [List.filter_cons]
    split
    · simp only [sparseWfFrom, Bool.and_eq_true, decide_eq_true_eq]
      exact ⟨h'.1, ih h'.2⟩
    · exact sparseWfFrom_mono d (ih h'.2) (by omega)

theorem sparse_filter_wf [DecidableEq α] (d : α) (p : Nat × α → Bool) {l : Sparse α} (h : sparseWf d l = true) :
    sparseWf d (l.filter p) = true := sparse_filter_wfFrom d p h

theorem sparseGet_del [DecidableEq α] (d : α) {l : Sparse α} {lo : Nat} (h : sparseWfFrom d lo l = true) (n m : Nat) :
    sparseGet d (sparseDel l n) m = if m = n then d else sparseGet d l m := by
  induction l generalizing lo with
  | nil => simp [sparseDel, sparseGet]
  | cons e t ih =>
    obtain ⟨k, w⟩ := e
    simp only [sparseWfFrom, Bool.and_eq_true, decide_eq_true_eq] at h
    by_cases hk : n = k
    · subst hk
      simp only [sparseDel, if_true, sparseGet]
      split
      · next hm => subst hm; exact sparseGet_lt d h.2 (by omega)
      · split
        · next hl => exact sparseGet_lt d h.2 (by omega)
        · rfl
    · by_cases hl : n < k
      · simp only [sparseDel, hk, hl, if_true, if_false]
        split
        · next hm => subst hm; simp [sparseGet, hk, hl]
        · rfl
      · simp only [sparseDel, hk, hl, if_false, sparseGet, ih h.2]
        by_cases hm : m = n
        · subst hm; simp [hk, hl]
        · simp [hm]

/-- Reading a key of a canonical store after a write. -/
theorem sparseGet_set [DecidableEq α] (d : α) {l : Sparse α} (h : sparseWf d l = true) (n m : Nat) (v : α) :
    sparseGet d (sparseSet d l n v) m = if m = n then v else sparseGet d l m := by
  unfold sparseSet
  split
  · next hv => rw [sparseGet_del d h]; split <;> simp [hv]
  · split
    · next hm => subst hm; simp
    · next hm => exact sparseGet_put_ne d v l hm

end Sys2Proof.Machine
end

