-- ==== Sys2Proof/Laws/State.lean ====
section
/-! SUPPORT. What the accessors of the state read after each update. -/

namespace Sys2Proof.Machine

@[simp] theorem State.setQuay_agenda (s : State) (q : Quay) : (s.setQuay q).agenda = s.agenda := rfl
@[simp] theorem State.setQuay_here (s : State) (q : Quay) : (s.setQuay q).here = s.here := rfl
@[simp] theorem State.setQuay_system (s : State) (q : Quay) : (s.setQuay q).system = s.system := rfl
@[simp] theorem State.setQuay_fresh (s : State) (q : Quay) : (s.setQuay q).fresh = s.fresh := rfl
@[simp] theorem State.setQuay_refTime (s : State) (q : Quay) : (s.setQuay q).refTime = s.refTime := rfl
@[simp] theorem State.setQuay_mem (s : State) (q : Quay) : (s.setQuay q).mem = s.mem := rfl
@[simp] theorem State.setQuay_l2 (s : State) (q : Quay) : (s.setQuay q).l2 = s.l2 := rfl
@[simp] theorem State.setQuay_pages (s : State) (q : Quay) : (s.setQuay q).pages = s.pages := rfl
@[simp] theorem State.setQuay_jetties (s : State) (q : Quay) : (s.setQuay q).jetties = s.jetties := rfl
@[simp] theorem State.setQuay_gtms (s : State) (q : Quay) : (s.setQuay q).gtms = s.gtms := rfl
@[simp] theorem State.setQuay_devId (s : State) (q : Quay) : (s.setQuay q).devId = s.devId := rfl
@[simp] theorem State.setQuay_members (s : State) (q : Quay) : (s.setQuay q).members = s.members := rfl
@[simp] theorem State.setQuay_slices (s : State) (q : Quay) : (s.setQuay q).slices = s.slices := rfl
@[simp] theorem State.setQuay_queues (s : State) (q : Quay) : (s.setQuay q).queues = s.queues := rfl
@[simp] theorem State.setQuay_pools (s : State) (q : Quay) : (s.setQuay q).pools = s.pools := rfl
@[simp] theorem State.setQuay_nextShip (s : State) (q : Quay) : (s.setQuay q).nextShip = s.nextShip := rfl
@[simp] theorem State.setQuay_crews (s : State) (q : Quay) : (s.setQuay q).crews = s.crews := rfl
@[simp] theorem State.setQuay_nextCrew (s : State) (q : Quay) : (s.setQuay q).nextCrew = s.nextCrew := rfl
@[simp] theorem State.setQuay_counters (s : State) (q : Quay) : (s.setQuay q).counters = s.counters := rfl
@[simp] theorem State.setQuay_depWait (s : State) (q : Quay) : (s.setQuay q).depWait = s.depWait := rfl
@[simp] theorem State.setQuay_depOps (s : State) (q : Quay) : (s.setQuay q).depOps = s.depOps := rfl
@[simp] theorem State.setQuay_futWait (s : State) (q : Quay) : (s.setQuay q).futWait = s.futWait := rfl
@[simp] theorem State.setQuay_futOps (s : State) (q : Quay) : (s.setQuay q).futOps = s.futOps := rfl
@[simp] theorem State.setQuay_landings (s : State) (q : Quay) : (s.setQuay q).landings = s.landings := rfl
@[simp] theorem State.setQuay_pilots (s : State) (q : Quay) : (s.setQuay q).pilots = s.pilots := rfl
@[simp] theorem State.setQuay_pager (s : State) (q : Quay) : (s.setQuay q).pager = s.pager := rfl
@[simp] theorem State.setQuay_images (s : State) (q : Quay) : (s.setQuay q).images = s.images := rfl
@[simp] theorem State.setQuay_pfx (s : State) (q : Quay) : (s.setQuay q).pfx = s.pfx := rfl
@[simp] theorem State.setQuay_slots (s : State) (q : Quay) : (s.setQuay q).slots = s.slots := rfl
@[simp] theorem State.setQuay_lighters (s : State) (q : Quay) : (s.setQuay q).lighters = s.lighters := rfl
@[simp] theorem State.setQuay_ports (s : State) (q : Quay) : (s.setQuay q).ports = s.ports := rfl
@[simp] theorem State.setQuay_resentFlits (s : State) (q : Quay) : (s.setQuay q).resentFlits = s.resentFlits := rfl
@[simp] theorem State.setQuay_replaysSent (s : State) (q : Quay) : (s.setQuay q).replaysSent = s.replaysSent := rfl
@[simp] theorem State.setQuay_replaysFound (s : State) (q : Quay) : (s.setQuay q).replaysFound = s.replaysFound := rfl
@[simp] theorem State.setQuay_linkErrors (s : State) (q : Quay) : (s.setQuay q).linkErrors = s.linkErrors := rfl
@[simp] theorem State.setQuay_packetSeq (s : State) (q : Quay) : (s.setQuay q).packetSeq = s.packetSeq := rfl
@[simp] theorem State.setQuay_energyWin (s : State) (q : Quay) : (s.setQuay q).energyWin = s.energyWin := rfl
@[simp] theorem State.setQuay_filter (s : State) (q : Quay) : (s.setQuay q).filter = s.filter := rfl
@[simp] theorem State.setQuay_sysInbox (s : State) (q : Quay) : (s.setQuay q).sysInbox = s.sysInbox := rfl
@[simp] theorem State.setQuay_wire (s : State) (q : Quay) : (s.setQuay q).wire = s.wire := rfl
@[simp] theorem State.setQuay_outbox (s : State) (q : Quay) : (s.setQuay q).outbox = s.outbox := rfl
@[simp] theorem State.setQuay_host (s : State) (q : Quay) : (s.setQuay q).host = s.host := rfl
@[simp] theorem State.setQuay_ages (s : State) (q : Quay) : (s.setQuay q).ages = s.ages := rfl

@[simp] theorem State.putQuay_agenda (s : State) (n : Nat) (q : Quay) : (s.putQuay n q).agenda = s.agenda := rfl
@[simp] theorem State.putQuay_here (s : State) (n : Nat) (q : Quay) : (s.putQuay n q).here = s.here := rfl
@[simp] theorem State.putQuay_system (s : State) (n : Nat) (q : Quay) : (s.putQuay n q).system = s.system := rfl
@[simp] theorem State.putQuay_fresh (s : State) (n : Nat) (q : Quay) : (s.putQuay n q).fresh = s.fresh := rfl
@[simp] theorem State.putQuay_refTime (s : State) (n : Nat) (q : Quay) : (s.putQuay n q).refTime = s.refTime := rfl
@[simp] theorem State.putQuay_mem (s : State) (n : Nat) (q : Quay) : (s.putQuay n q).mem = s.mem := rfl
@[simp] theorem State.putQuay_l2 (s : State) (n : Nat) (q : Quay) : (s.putQuay n q).l2 = s.l2 := rfl
@[simp] theorem State.putQuay_pages (s : State) (n : Nat) (q : Quay) : (s.putQuay n q).pages = s.pages := rfl
@[simp] theorem State.putQuay_jetties (s : State) (n : Nat) (q : Quay) : (s.putQuay n q).jetties = s.jetties := rfl
@[simp] theorem State.putQuay_gtms (s : State) (n : Nat) (q : Quay) : (s.putQuay n q).gtms = s.gtms := rfl
@[simp] theorem State.putQuay_devId (s : State) (n : Nat) (q : Quay) : (s.putQuay n q).devId = s.devId := rfl
@[simp] theorem State.putQuay_members (s : State) (n : Nat) (q : Quay) : (s.putQuay n q).members = s.members := rfl
@[simp] theorem State.putQuay_slices (s : State) (n : Nat) (q : Quay) : (s.putQuay n q).slices = s.slices := rfl
@[simp] theorem State.putQuay_queues (s : State) (n : Nat) (q : Quay) : (s.putQuay n q).queues = s.queues := rfl
@[simp] theorem State.putQuay_pools (s : State) (n : Nat) (q : Quay) : (s.putQuay n q).pools = s.pools := rfl
@[simp] theorem State.putQuay_nextShip (s : State) (n : Nat) (q : Quay) : (s.putQuay n q).nextShip = s.nextShip := rfl
@[simp] theorem State.putQuay_crews (s : State) (n : Nat) (q : Quay) : (s.putQuay n q).crews = s.crews := rfl
@[simp] theorem State.putQuay_nextCrew (s : State) (n : Nat) (q : Quay) : (s.putQuay n q).nextCrew = s.nextCrew := rfl
@[simp] theorem State.putQuay_counters (s : State) (n : Nat) (q : Quay) : (s.putQuay n q).counters = s.counters := rfl
@[simp] theorem State.putQuay_depWait (s : State) (n : Nat) (q : Quay) : (s.putQuay n q).depWait = s.depWait := rfl
@[simp] theorem State.putQuay_depOps (s : State) (n : Nat) (q : Quay) : (s.putQuay n q).depOps = s.depOps := rfl
@[simp] theorem State.putQuay_futWait (s : State) (n : Nat) (q : Quay) : (s.putQuay n q).futWait = s.futWait := rfl
@[simp] theorem State.putQuay_futOps (s : State) (n : Nat) (q : Quay) : (s.putQuay n q).futOps = s.futOps := rfl
@[simp] theorem State.putQuay_landings (s : State) (n : Nat) (q : Quay) : (s.putQuay n q).landings = s.landings := rfl
@[simp] theorem State.putQuay_pilots (s : State) (n : Nat) (q : Quay) : (s.putQuay n q).pilots = s.pilots := rfl
@[simp] theorem State.putQuay_pager (s : State) (n : Nat) (q : Quay) : (s.putQuay n q).pager = s.pager := rfl
@[simp] theorem State.putQuay_images (s : State) (n : Nat) (q : Quay) : (s.putQuay n q).images = s.images := rfl
@[simp] theorem State.putQuay_pfx (s : State) (n : Nat) (q : Quay) : (s.putQuay n q).pfx = s.pfx := rfl
@[simp] theorem State.putQuay_slots (s : State) (n : Nat) (q : Quay) : (s.putQuay n q).slots = s.slots := rfl
@[simp] theorem State.putQuay_lighters (s : State) (n : Nat) (q : Quay) : (s.putQuay n q).lighters = s.lighters := rfl
@[simp] theorem State.putQuay_ports (s : State) (n : Nat) (q : Quay) : (s.putQuay n q).ports = s.ports := rfl
@[simp] theorem State.putQuay_resentFlits (s : State) (n : Nat) (q : Quay) : (s.putQuay n q).resentFlits = s.resentFlits := rfl
@[simp] theorem State.putQuay_replaysSent (s : State) (n : Nat) (q : Quay) : (s.putQuay n q).replaysSent = s.replaysSent := rfl
@[simp] theorem State.putQuay_replaysFound (s : State) (n : Nat) (q : Quay) : (s.putQuay n q).replaysFound = s.replaysFound := rfl
@[simp] theorem State.putQuay_linkErrors (s : State) (n : Nat) (q : Quay) : (s.putQuay n q).linkErrors = s.linkErrors := rfl
@[simp] theorem State.putQuay_packetSeq (s : State) (n : Nat) (q : Quay) : (s.putQuay n q).packetSeq = s.packetSeq := rfl
@[simp] theorem State.putQuay_energyWin (s : State) (n : Nat) (q : Quay) : (s.putQuay n q).energyWin = s.energyWin := rfl
@[simp] theorem State.putQuay_filter (s : State) (n : Nat) (q : Quay) : (s.putQuay n q).filter = s.filter := rfl
@[simp] theorem State.putQuay_sysInbox (s : State) (n : Nat) (q : Quay) : (s.putQuay n q).sysInbox = s.sysInbox := rfl
@[simp] theorem State.putQuay_wire (s : State) (n : Nat) (q : Quay) : (s.putQuay n q).wire = s.wire := rfl
@[simp] theorem State.putQuay_outbox (s : State) (n : Nat) (q : Quay) : (s.putQuay n q).outbox = s.outbox := rfl
@[simp] theorem State.putQuay_host (s : State) (n : Nat) (q : Quay) : (s.putQuay n q).host = s.host := rfl
@[simp] theorem State.putQuay_ages (s : State) (n : Nat) (q : Quay) : (s.putQuay n q).ages = s.ages := rfl

@[simp] theorem State.setCtx_agenda (s : State) (x : Context) : (s.setCtx x).agenda = s.agenda := rfl
@[simp] theorem State.setCtx_here (s : State) (x : Context) : (s.setCtx x).here = s.here := rfl
@[simp] theorem State.setCtx_system (s : State) (x : Context) : (s.setCtx x).system = s.system := rfl
@[simp] theorem State.setCtx_fresh (s : State) (x : Context) : (s.setCtx x).fresh = s.fresh := rfl
@[simp] theorem State.setCtx_refTime (s : State) (x : Context) : (s.setCtx x).refTime = s.refTime := rfl
@[simp] theorem State.setCtx_mem (s : State) (x : Context) : (s.setCtx x).mem = s.mem := rfl
@[simp] theorem State.setCtx_l2 (s : State) (x : Context) : (s.setCtx x).l2 = s.l2 := rfl
@[simp] theorem State.setCtx_pages (s : State) (x : Context) : (s.setCtx x).pages = s.pages := rfl
@[simp] theorem State.setCtx_jetties (s : State) (x : Context) : (s.setCtx x).jetties = s.jetties := rfl
@[simp] theorem State.setCtx_gtms (s : State) (x : Context) : (s.setCtx x).gtms = s.gtms := rfl
@[simp] theorem State.setCtx_devId (s : State) (x : Context) : (s.setCtx x).devId = s.devId := rfl
@[simp] theorem State.setCtx_members (s : State) (x : Context) : (s.setCtx x).members = s.members := rfl
@[simp] theorem State.setCtx_slices (s : State) (x : Context) : (s.setCtx x).slices = s.slices := rfl
@[simp] theorem State.setCtx_queues (s : State) (x : Context) : (s.setCtx x).queues = s.queues := rfl
@[simp] theorem State.setCtx_pools (s : State) (x : Context) : (s.setCtx x).pools = s.pools := rfl
@[simp] theorem State.setCtx_nextShip (s : State) (x : Context) : (s.setCtx x).nextShip = s.nextShip := rfl
@[simp] theorem State.setCtx_crews (s : State) (x : Context) : (s.setCtx x).crews = s.crews := rfl
@[simp] theorem State.setCtx_nextCrew (s : State) (x : Context) : (s.setCtx x).nextCrew = s.nextCrew := rfl
@[simp] theorem State.setCtx_counters (s : State) (x : Context) : (s.setCtx x).counters = s.counters := rfl
@[simp] theorem State.setCtx_depWait (s : State) (x : Context) : (s.setCtx x).depWait = s.depWait := rfl
@[simp] theorem State.setCtx_depOps (s : State) (x : Context) : (s.setCtx x).depOps = s.depOps := rfl
@[simp] theorem State.setCtx_futWait (s : State) (x : Context) : (s.setCtx x).futWait = s.futWait := rfl
@[simp] theorem State.setCtx_futOps (s : State) (x : Context) : (s.setCtx x).futOps = s.futOps := rfl
@[simp] theorem State.setCtx_landings (s : State) (x : Context) : (s.setCtx x).landings = s.landings := rfl
@[simp] theorem State.setCtx_pilots (s : State) (x : Context) : (s.setCtx x).pilots = s.pilots := rfl
@[simp] theorem State.setCtx_pager (s : State) (x : Context) : (s.setCtx x).pager = s.pager := rfl
@[simp] theorem State.setCtx_images (s : State) (x : Context) : (s.setCtx x).images = s.images := rfl
@[simp] theorem State.setCtx_pfx (s : State) (x : Context) : (s.setCtx x).pfx = s.pfx := rfl
@[simp] theorem State.setCtx_slots (s : State) (x : Context) : (s.setCtx x).slots = s.slots := rfl
@[simp] theorem State.setCtx_lighters (s : State) (x : Context) : (s.setCtx x).lighters = s.lighters := rfl
@[simp] theorem State.setCtx_ports (s : State) (x : Context) : (s.setCtx x).ports = s.ports := rfl
@[simp] theorem State.setCtx_resentFlits (s : State) (x : Context) : (s.setCtx x).resentFlits = s.resentFlits := rfl
@[simp] theorem State.setCtx_replaysSent (s : State) (x : Context) : (s.setCtx x).replaysSent = s.replaysSent := rfl
@[simp] theorem State.setCtx_replaysFound (s : State) (x : Context) : (s.setCtx x).replaysFound = s.replaysFound := rfl
@[simp] theorem State.setCtx_linkErrors (s : State) (x : Context) : (s.setCtx x).linkErrors = s.linkErrors := rfl
@[simp] theorem State.setCtx_packetSeq (s : State) (x : Context) : (s.setCtx x).packetSeq = s.packetSeq := rfl
@[simp] theorem State.setCtx_energyWin (s : State) (x : Context) : (s.setCtx x).energyWin = s.energyWin := rfl
@[simp] theorem State.setCtx_filter (s : State) (x : Context) : (s.setCtx x).filter = s.filter := rfl
@[simp] theorem State.setCtx_sysInbox (s : State) (x : Context) : (s.setCtx x).sysInbox = s.sysInbox := rfl
@[simp] theorem State.setCtx_wire (s : State) (x : Context) : (s.setCtx x).wire = s.wire := rfl
@[simp] theorem State.setCtx_outbox (s : State) (x : Context) : (s.setCtx x).outbox = s.outbox := rfl
@[simp] theorem State.setCtx_host (s : State) (x : Context) : (s.setCtx x).host = s.host := rfl
@[simp] theorem State.setCtx_ages (s : State) (x : Context) : (s.setCtx x).ages = s.ages := rfl

@[simp] theorem State.updCtx_agenda (s : State) (f : Context → Context) : (s.updCtx f).agenda = s.agenda := rfl
@[simp] theorem State.updCtx_here (s : State) (f : Context → Context) : (s.updCtx f).here = s.here := rfl
@[simp] theorem State.updCtx_system (s : State) (f : Context → Context) : (s.updCtx f).system = s.system := rfl
@[simp] theorem State.updCtx_fresh (s : State) (f : Context → Context) : (s.updCtx f).fresh = s.fresh := rfl
@[simp] theorem State.updCtx_refTime (s : State) (f : Context → Context) : (s.updCtx f).refTime = s.refTime := rfl
@[simp] theorem State.updCtx_mem (s : State) (f : Context → Context) : (s.updCtx f).mem = s.mem := rfl
@[simp] theorem State.updCtx_l2 (s : State) (f : Context → Context) : (s.updCtx f).l2 = s.l2 := rfl
@[simp] theorem State.updCtx_pages (s : State) (f : Context → Context) : (s.updCtx f).pages = s.pages := rfl
@[simp] theorem State.updCtx_jetties (s : State) (f : Context → Context) : (s.updCtx f).jetties = s.jetties := rfl
@[simp] theorem State.updCtx_gtms (s : State) (f : Context → Context) : (s.updCtx f).gtms = s.gtms := rfl
@[simp] theorem State.updCtx_devId (s : State) (f : Context → Context) : (s.updCtx f).devId = s.devId := rfl
@[simp] theorem State.updCtx_members (s : State) (f : Context → Context) : (s.updCtx f).members = s.members := rfl
@[simp] theorem State.updCtx_slices (s : State) (f : Context → Context) : (s.updCtx f).slices = s.slices := rfl
@[simp] theorem State.updCtx_queues (s : State) (f : Context → Context) : (s.updCtx f).queues = s.queues := rfl
@[simp] theorem State.updCtx_pools (s : State) (f : Context → Context) : (s.updCtx f).pools = s.pools := rfl
@[simp] theorem State.updCtx_nextShip (s : State) (f : Context → Context) : (s.updCtx f).nextShip = s.nextShip := rfl
@[simp] theorem State.updCtx_crews (s : State) (f : Context → Context) : (s.updCtx f).crews = s.crews := rfl
@[simp] theorem State.updCtx_nextCrew (s : State) (f : Context → Context) : (s.updCtx f).nextCrew = s.nextCrew := rfl
@[simp] theorem State.updCtx_counters (s : State) (f : Context → Context) : (s.updCtx f).counters = s.counters := rfl
@[simp] theorem State.updCtx_depWait (s : State) (f : Context → Context) : (s.updCtx f).depWait = s.depWait := rfl
@[simp] theorem State.updCtx_depOps (s : State) (f : Context → Context) : (s.updCtx f).depOps = s.depOps := rfl
@[simp] theorem State.updCtx_futWait (s : State) (f : Context → Context) : (s.updCtx f).futWait = s.futWait := rfl
@[simp] theorem State.updCtx_futOps (s : State) (f : Context → Context) : (s.updCtx f).futOps = s.futOps := rfl
@[simp] theorem State.updCtx_landings (s : State) (f : Context → Context) : (s.updCtx f).landings = s.landings := rfl
@[simp] theorem State.updCtx_pilots (s : State) (f : Context → Context) : (s.updCtx f).pilots = s.pilots := rfl
@[simp] theorem State.updCtx_pager (s : State) (f : Context → Context) : (s.updCtx f).pager = s.pager := rfl
@[simp] theorem State.updCtx_images (s : State) (f : Context → Context) : (s.updCtx f).images = s.images := rfl
@[simp] theorem State.updCtx_pfx (s : State) (f : Context → Context) : (s.updCtx f).pfx = s.pfx := rfl
@[simp] theorem State.updCtx_slots (s : State) (f : Context → Context) : (s.updCtx f).slots = s.slots := rfl
@[simp] theorem State.updCtx_lighters (s : State) (f : Context → Context) : (s.updCtx f).lighters = s.lighters := rfl
@[simp] theorem State.updCtx_ports (s : State) (f : Context → Context) : (s.updCtx f).ports = s.ports := rfl
@[simp] theorem State.updCtx_resentFlits (s : State) (f : Context → Context) : (s.updCtx f).resentFlits = s.resentFlits := rfl
@[simp] theorem State.updCtx_replaysSent (s : State) (f : Context → Context) : (s.updCtx f).replaysSent = s.replaysSent := rfl
@[simp] theorem State.updCtx_replaysFound (s : State) (f : Context → Context) : (s.updCtx f).replaysFound = s.replaysFound := rfl
@[simp] theorem State.updCtx_linkErrors (s : State) (f : Context → Context) : (s.updCtx f).linkErrors = s.linkErrors := rfl
@[simp] theorem State.updCtx_packetSeq (s : State) (f : Context → Context) : (s.updCtx f).packetSeq = s.packetSeq := rfl
@[simp] theorem State.updCtx_energyWin (s : State) (f : Context → Context) : (s.updCtx f).energyWin = s.energyWin := rfl
@[simp] theorem State.updCtx_filter (s : State) (f : Context → Context) : (s.updCtx f).filter = s.filter := rfl
@[simp] theorem State.updCtx_sysInbox (s : State) (f : Context → Context) : (s.updCtx f).sysInbox = s.sysInbox := rfl
@[simp] theorem State.updCtx_wire (s : State) (f : Context → Context) : (s.updCtx f).wire = s.wire := rfl
@[simp] theorem State.updCtx_outbox (s : State) (f : Context → Context) : (s.updCtx f).outbox = s.outbox := rfl
@[simp] theorem State.updCtx_host (s : State) (f : Context → Context) : (s.updCtx f).host = s.host := rfl
@[simp] theorem State.updCtx_ages (s : State) (f : Context → Context) : (s.updCtx f).ages = s.ages := rfl

@[simp] theorem State.updQuay_agenda (s : State) (f : Quay → Quay) : (s.updQuay f).agenda = s.agenda := rfl
@[simp] theorem State.updQuay_here (s : State) (f : Quay → Quay) : (s.updQuay f).here = s.here := rfl
@[simp] theorem State.updQuay_system (s : State) (f : Quay → Quay) : (s.updQuay f).system = s.system := rfl
@[simp] theorem State.updQuay_fresh (s : State) (f : Quay → Quay) : (s.updQuay f).fresh = s.fresh := rfl
@[simp] theorem State.updQuay_refTime (s : State) (f : Quay → Quay) : (s.updQuay f).refTime = s.refTime := rfl
@[simp] theorem State.updQuay_mem (s : State) (f : Quay → Quay) : (s.updQuay f).mem = s.mem := rfl
@[simp] theorem State.updQuay_l2 (s : State) (f : Quay → Quay) : (s.updQuay f).l2 = s.l2 := rfl
@[simp] theorem State.updQuay_pages (s : State) (f : Quay → Quay) : (s.updQuay f).pages = s.pages := rfl
@[simp] theorem State.updQuay_jetties (s : State) (f : Quay → Quay) : (s.updQuay f).jetties = s.jetties := rfl
@[simp] theorem State.updQuay_gtms (s : State) (f : Quay → Quay) : (s.updQuay f).gtms = s.gtms := rfl
@[simp] theorem State.updQuay_devId (s : State) (f : Quay → Quay) : (s.updQuay f).devId = s.devId := rfl
@[simp] theorem State.updQuay_members (s : State) (f : Quay → Quay) : (s.updQuay f).members = s.members := rfl
@[simp] theorem State.updQuay_slices (s : State) (f : Quay → Quay) : (s.updQuay f).slices = s.slices := rfl
@[simp] theorem State.updQuay_queues (s : State) (f : Quay → Quay) : (s.updQuay f).queues = s.queues := rfl
@[simp] theorem State.updQuay_pools (s : State) (f : Quay → Quay) : (s.updQuay f).pools = s.pools := rfl
@[simp] theorem State.updQuay_nextShip (s : State) (f : Quay → Quay) : (s.updQuay f).nextShip = s.nextShip := rfl
@[simp] theorem State.updQuay_crews (s : State) (f : Quay → Quay) : (s.updQuay f).crews = s.crews := rfl
@[simp] theorem State.updQuay_nextCrew (s : State) (f : Quay → Quay) : (s.updQuay f).nextCrew = s.nextCrew := rfl
@[simp] theorem State.updQuay_counters (s : State) (f : Quay → Quay) : (s.updQuay f).counters = s.counters := rfl
@[simp] theorem State.updQuay_depWait (s : State) (f : Quay → Quay) : (s.updQuay f).depWait = s.depWait := rfl
@[simp] theorem State.updQuay_depOps (s : State) (f : Quay → Quay) : (s.updQuay f).depOps = s.depOps := rfl
@[simp] theorem State.updQuay_futWait (s : State) (f : Quay → Quay) : (s.updQuay f).futWait = s.futWait := rfl
@[simp] theorem State.updQuay_futOps (s : State) (f : Quay → Quay) : (s.updQuay f).futOps = s.futOps := rfl
@[simp] theorem State.updQuay_landings (s : State) (f : Quay → Quay) : (s.updQuay f).landings = s.landings := rfl
@[simp] theorem State.updQuay_pilots (s : State) (f : Quay → Quay) : (s.updQuay f).pilots = s.pilots := rfl
@[simp] theorem State.updQuay_pager (s : State) (f : Quay → Quay) : (s.updQuay f).pager = s.pager := rfl
@[simp] theorem State.updQuay_images (s : State) (f : Quay → Quay) : (s.updQuay f).images = s.images := rfl
@[simp] theorem State.updQuay_pfx (s : State) (f : Quay → Quay) : (s.updQuay f).pfx = s.pfx := rfl
@[simp] theorem State.updQuay_slots (s : State) (f : Quay → Quay) : (s.updQuay f).slots = s.slots := rfl
@[simp] theorem State.updQuay_lighters (s : State) (f : Quay → Quay) : (s.updQuay f).lighters = s.lighters := rfl
@[simp] theorem State.updQuay_ports (s : State) (f : Quay → Quay) : (s.updQuay f).ports = s.ports := rfl
@[simp] theorem State.updQuay_resentFlits (s : State) (f : Quay → Quay) : (s.updQuay f).resentFlits = s.resentFlits := rfl
@[simp] theorem State.updQuay_replaysSent (s : State) (f : Quay → Quay) : (s.updQuay f).replaysSent = s.replaysSent := rfl
@[simp] theorem State.updQuay_replaysFound (s : State) (f : Quay → Quay) : (s.updQuay f).replaysFound = s.replaysFound := rfl
@[simp] theorem State.updQuay_linkErrors (s : State) (f : Quay → Quay) : (s.updQuay f).linkErrors = s.linkErrors := rfl
@[simp] theorem State.updQuay_packetSeq (s : State) (f : Quay → Quay) : (s.updQuay f).packetSeq = s.packetSeq := rfl
@[simp] theorem State.updQuay_energyWin (s : State) (f : Quay → Quay) : (s.updQuay f).energyWin = s.energyWin := rfl
@[simp] theorem State.updQuay_filter (s : State) (f : Quay → Quay) : (s.updQuay f).filter = s.filter := rfl
@[simp] theorem State.updQuay_sysInbox (s : State) (f : Quay → Quay) : (s.updQuay f).sysInbox = s.sysInbox := rfl
@[simp] theorem State.updQuay_wire (s : State) (f : Quay → Quay) : (s.updQuay f).wire = s.wire := rfl
@[simp] theorem State.updQuay_outbox (s : State) (f : Quay → Quay) : (s.updQuay f).outbox = s.outbox := rfl
@[simp] theorem State.updQuay_host (s : State) (f : Quay → Quay) : (s.updQuay f).host = s.host := rfl
@[simp] theorem State.updQuay_ages (s : State) (f : Quay → Quay) : (s.updQuay f).ages = s.ages := rfl

@[simp] theorem State.updCtxAt_agenda (s : State) (q : Nat) (c : Fin 8) (f : Context → Context) : (s.updCtxAt q c f).agenda = s.agenda := rfl
@[simp] theorem State.updCtxAt_here (s : State) (q : Nat) (c : Fin 8) (f : Context → Context) : (s.updCtxAt q c f).here = s.here := rfl
@[simp] theorem State.updCtxAt_system (s : State) (q : Nat) (c : Fin 8) (f : Context → Context) : (s.updCtxAt q c f).system = s.system := rfl
@[simp] theorem State.updCtxAt_fresh (s : State) (q : Nat) (c : Fin 8) (f : Context → Context) : (s.updCtxAt q c f).fresh = s.fresh := rfl
@[simp] theorem State.updCtxAt_refTime (s : State) (q : Nat) (c : Fin 8) (f : Context → Context) : (s.updCtxAt q c f).refTime = s.refTime := rfl
@[simp] theorem State.updCtxAt_mem (s : State) (q : Nat) (c : Fin 8) (f : Context → Context) : (s.updCtxAt q c f).mem = s.mem := rfl
@[simp] theorem State.updCtxAt_l2 (s : State) (q : Nat) (c : Fin 8) (f : Context → Context) : (s.updCtxAt q c f).l2 = s.l2 := rfl
@[simp] theorem State.updCtxAt_pages (s : State) (q : Nat) (c : Fin 8) (f : Context → Context) : (s.updCtxAt q c f).pages = s.pages := rfl
@[simp] theorem State.updCtxAt_jetties (s : State) (q : Nat) (c : Fin 8) (f : Context → Context) : (s.updCtxAt q c f).jetties = s.jetties := rfl
@[simp] theorem State.updCtxAt_gtms (s : State) (q : Nat) (c : Fin 8) (f : Context → Context) : (s.updCtxAt q c f).gtms = s.gtms := rfl
@[simp] theorem State.updCtxAt_devId (s : State) (q : Nat) (c : Fin 8) (f : Context → Context) : (s.updCtxAt q c f).devId = s.devId := rfl
@[simp] theorem State.updCtxAt_members (s : State) (q : Nat) (c : Fin 8) (f : Context → Context) : (s.updCtxAt q c f).members = s.members := rfl
@[simp] theorem State.updCtxAt_slices (s : State) (q : Nat) (c : Fin 8) (f : Context → Context) : (s.updCtxAt q c f).slices = s.slices := rfl
@[simp] theorem State.updCtxAt_queues (s : State) (q : Nat) (c : Fin 8) (f : Context → Context) : (s.updCtxAt q c f).queues = s.queues := rfl
@[simp] theorem State.updCtxAt_pools (s : State) (q : Nat) (c : Fin 8) (f : Context → Context) : (s.updCtxAt q c f).pools = s.pools := rfl
@[simp] theorem State.updCtxAt_nextShip (s : State) (q : Nat) (c : Fin 8) (f : Context → Context) : (s.updCtxAt q c f).nextShip = s.nextShip := rfl
@[simp] theorem State.updCtxAt_crews (s : State) (q : Nat) (c : Fin 8) (f : Context → Context) : (s.updCtxAt q c f).crews = s.crews := rfl
@[simp] theorem State.updCtxAt_nextCrew (s : State) (q : Nat) (c : Fin 8) (f : Context → Context) : (s.updCtxAt q c f).nextCrew = s.nextCrew := rfl
@[simp] theorem State.updCtxAt_counters (s : State) (q : Nat) (c : Fin 8) (f : Context → Context) : (s.updCtxAt q c f).counters = s.counters := rfl
@[simp] theorem State.updCtxAt_depWait (s : State) (q : Nat) (c : Fin 8) (f : Context → Context) : (s.updCtxAt q c f).depWait = s.depWait := rfl
@[simp] theorem State.updCtxAt_depOps (s : State) (q : Nat) (c : Fin 8) (f : Context → Context) : (s.updCtxAt q c f).depOps = s.depOps := rfl
@[simp] theorem State.updCtxAt_futWait (s : State) (q : Nat) (c : Fin 8) (f : Context → Context) : (s.updCtxAt q c f).futWait = s.futWait := rfl
@[simp] theorem State.updCtxAt_futOps (s : State) (q : Nat) (c : Fin 8) (f : Context → Context) : (s.updCtxAt q c f).futOps = s.futOps := rfl
@[simp] theorem State.updCtxAt_landings (s : State) (q : Nat) (c : Fin 8) (f : Context → Context) : (s.updCtxAt q c f).landings = s.landings := rfl
@[simp] theorem State.updCtxAt_pilots (s : State) (q : Nat) (c : Fin 8) (f : Context → Context) : (s.updCtxAt q c f).pilots = s.pilots := rfl
@[simp] theorem State.updCtxAt_pager (s : State) (q : Nat) (c : Fin 8) (f : Context → Context) : (s.updCtxAt q c f).pager = s.pager := rfl
@[simp] theorem State.updCtxAt_images (s : State) (q : Nat) (c : Fin 8) (f : Context → Context) : (s.updCtxAt q c f).images = s.images := rfl
@[simp] theorem State.updCtxAt_pfx (s : State) (q : Nat) (c : Fin 8) (f : Context → Context) : (s.updCtxAt q c f).pfx = s.pfx := rfl
@[simp] theorem State.updCtxAt_slots (s : State) (q : Nat) (c : Fin 8) (f : Context → Context) : (s.updCtxAt q c f).slots = s.slots := rfl
@[simp] theorem State.updCtxAt_lighters (s : State) (q : Nat) (c : Fin 8) (f : Context → Context) : (s.updCtxAt q c f).lighters = s.lighters := rfl
@[simp] theorem State.updCtxAt_ports (s : State) (q : Nat) (c : Fin 8) (f : Context → Context) : (s.updCtxAt q c f).ports = s.ports := rfl
@[simp] theorem State.updCtxAt_resentFlits (s : State) (q : Nat) (c : Fin 8) (f : Context → Context) : (s.updCtxAt q c f).resentFlits = s.resentFlits := rfl
@[simp] theorem State.updCtxAt_replaysSent (s : State) (q : Nat) (c : Fin 8) (f : Context → Context) : (s.updCtxAt q c f).replaysSent = s.replaysSent := rfl
@[simp] theorem State.updCtxAt_replaysFound (s : State) (q : Nat) (c : Fin 8) (f : Context → Context) : (s.updCtxAt q c f).replaysFound = s.replaysFound := rfl
@[simp] theorem State.updCtxAt_linkErrors (s : State) (q : Nat) (c : Fin 8) (f : Context → Context) : (s.updCtxAt q c f).linkErrors = s.linkErrors := rfl
@[simp] theorem State.updCtxAt_packetSeq (s : State) (q : Nat) (c : Fin 8) (f : Context → Context) : (s.updCtxAt q c f).packetSeq = s.packetSeq := rfl
@[simp] theorem State.updCtxAt_energyWin (s : State) (q : Nat) (c : Fin 8) (f : Context → Context) : (s.updCtxAt q c f).energyWin = s.energyWin := rfl
@[simp] theorem State.updCtxAt_filter (s : State) (q : Nat) (c : Fin 8) (f : Context → Context) : (s.updCtxAt q c f).filter = s.filter := rfl
@[simp] theorem State.updCtxAt_sysInbox (s : State) (q : Nat) (c : Fin 8) (f : Context → Context) : (s.updCtxAt q c f).sysInbox = s.sysInbox := rfl
@[simp] theorem State.updCtxAt_wire (s : State) (q : Nat) (c : Fin 8) (f : Context → Context) : (s.updCtxAt q c f).wire = s.wire := rfl
@[simp] theorem State.updCtxAt_outbox (s : State) (q : Nat) (c : Fin 8) (f : Context → Context) : (s.updCtxAt q c f).outbox = s.outbox := rfl
@[simp] theorem State.updCtxAt_host (s : State) (q : Nat) (c : Fin 8) (f : Context → Context) : (s.updCtxAt q c f).host = s.host := rfl
@[simp] theorem State.updCtxAt_ages (s : State) (q : Nat) (c : Fin 8) (f : Context → Context) : (s.updCtxAt q c f).ages = s.ages := rfl

@[simp] theorem State.setJetty_agenda (s : State) (j : Jetty) : (s.setJetty j).agenda = s.agenda := rfl
@[simp] theorem State.setJetty_here (s : State) (j : Jetty) : (s.setJetty j).here = s.here := rfl
@[simp] theorem State.setJetty_system (s : State) (j : Jetty) : (s.setJetty j).system = s.system := rfl
@[simp] theorem State.setJetty_fresh (s : State) (j : Jetty) : (s.setJetty j).fresh = s.fresh := rfl
@[simp] theorem State.setJetty_refTime (s : State) (j : Jetty) : (s.setJetty j).refTime = s.refTime := rfl
@[simp] theorem State.setJetty_mem (s : State) (j : Jetty) : (s.setJetty j).mem = s.mem := rfl
@[simp] theorem State.setJetty_l2 (s : State) (j : Jetty) : (s.setJetty j).l2 = s.l2 := rfl
@[simp] theorem State.setJetty_pages (s : State) (j : Jetty) : (s.setJetty j).pages = s.pages := rfl
@[simp] theorem State.setJetty_quays (s : State) (j : Jetty) : (s.setJetty j).quays = s.quays := rfl
@[simp] theorem State.setJetty_gtms (s : State) (j : Jetty) : (s.setJetty j).gtms = s.gtms := rfl
@[simp] theorem State.setJetty_devId (s : State) (j : Jetty) : (s.setJetty j).devId = s.devId := rfl
@[simp] theorem State.setJetty_members (s : State) (j : Jetty) : (s.setJetty j).members = s.members := rfl
@[simp] theorem State.setJetty_slices (s : State) (j : Jetty) : (s.setJetty j).slices = s.slices := rfl
@[simp] theorem State.setJetty_queues (s : State) (j : Jetty) : (s.setJetty j).queues = s.queues := rfl
@[simp] theorem State.setJetty_pools (s : State) (j : Jetty) : (s.setJetty j).pools = s.pools := rfl
@[simp] theorem State.setJetty_nextShip (s : State) (j : Jetty) : (s.setJetty j).nextShip = s.nextShip := rfl
@[simp] theorem State.setJetty_crews (s : State) (j : Jetty) : (s.setJetty j).crews = s.crews := rfl
@[simp] theorem State.setJetty_nextCrew (s : State) (j : Jetty) : (s.setJetty j).nextCrew = s.nextCrew := rfl
@[simp] theorem State.setJetty_counters (s : State) (j : Jetty) : (s.setJetty j).counters = s.counters := rfl
@[simp] theorem State.setJetty_depWait (s : State) (j : Jetty) : (s.setJetty j).depWait = s.depWait := rfl
@[simp] theorem State.setJetty_depOps (s : State) (j : Jetty) : (s.setJetty j).depOps = s.depOps := rfl
@[simp] theorem State.setJetty_futWait (s : State) (j : Jetty) : (s.setJetty j).futWait = s.futWait := rfl
@[simp] theorem State.setJetty_futOps (s : State) (j : Jetty) : (s.setJetty j).futOps = s.futOps := rfl
@[simp] theorem State.setJetty_landings (s : State) (j : Jetty) : (s.setJetty j).landings = s.landings := rfl
@[simp] theorem State.setJetty_pilots (s : State) (j : Jetty) : (s.setJetty j).pilots = s.pilots := rfl
@[simp] theorem State.setJetty_pager (s : State) (j : Jetty) : (s.setJetty j).pager = s.pager := rfl
@[simp] theorem State.setJetty_images (s : State) (j : Jetty) : (s.setJetty j).images = s.images := rfl
@[simp] theorem State.setJetty_pfx (s : State) (j : Jetty) : (s.setJetty j).pfx = s.pfx := rfl
@[simp] theorem State.setJetty_slots (s : State) (j : Jetty) : (s.setJetty j).slots = s.slots := rfl
@[simp] theorem State.setJetty_lighters (s : State) (j : Jetty) : (s.setJetty j).lighters = s.lighters := rfl
@[simp] theorem State.setJetty_ports (s : State) (j : Jetty) : (s.setJetty j).ports = s.ports := rfl
@[simp] theorem State.setJetty_resentFlits (s : State) (j : Jetty) : (s.setJetty j).resentFlits = s.resentFlits := rfl
@[simp] theorem State.setJetty_replaysSent (s : State) (j : Jetty) : (s.setJetty j).replaysSent = s.replaysSent := rfl
@[simp] theorem State.setJetty_replaysFound (s : State) (j : Jetty) : (s.setJetty j).replaysFound = s.replaysFound := rfl
@[simp] theorem State.setJetty_linkErrors (s : State) (j : Jetty) : (s.setJetty j).linkErrors = s.linkErrors := rfl
@[simp] theorem State.setJetty_packetSeq (s : State) (j : Jetty) : (s.setJetty j).packetSeq = s.packetSeq := rfl
@[simp] theorem State.setJetty_energyWin (s : State) (j : Jetty) : (s.setJetty j).energyWin = s.energyWin := rfl
@[simp] theorem State.setJetty_filter (s : State) (j : Jetty) : (s.setJetty j).filter = s.filter := rfl
@[simp] theorem State.setJetty_sysInbox (s : State) (j : Jetty) : (s.setJetty j).sysInbox = s.sysInbox := rfl
@[simp] theorem State.setJetty_wire (s : State) (j : Jetty) : (s.setJetty j).wire = s.wire := rfl
@[simp] theorem State.setJetty_outbox (s : State) (j : Jetty) : (s.setJetty j).outbox = s.outbox := rfl
@[simp] theorem State.setJetty_host (s : State) (j : Jetty) : (s.setJetty j).host = s.host := rfl
@[simp] theorem State.setJetty_ages (s : State) (j : Jetty) : (s.setJetty j).ages = s.ages := rfl

@[simp] theorem State.send_agenda (s : State) (i : Instr) : (s.send i).agenda = s.agenda := rfl
@[simp] theorem State.send_here (s : State) (i : Instr) : (s.send i).here = s.here := rfl
@[simp] theorem State.send_system (s : State) (i : Instr) : (s.send i).system = s.system := rfl
@[simp] theorem State.send_fresh (s : State) (i : Instr) : (s.send i).fresh = s.fresh := rfl
@[simp] theorem State.send_refTime (s : State) (i : Instr) : (s.send i).refTime = s.refTime := rfl
@[simp] theorem State.send_mem (s : State) (i : Instr) : (s.send i).mem = s.mem := rfl
@[simp] theorem State.send_l2 (s : State) (i : Instr) : (s.send i).l2 = s.l2 := rfl
@[simp] theorem State.send_pages (s : State) (i : Instr) : (s.send i).pages = s.pages := rfl
@[simp] theorem State.send_quays (s : State) (i : Instr) : (s.send i).quays = s.quays := rfl
@[simp] theorem State.send_jetties (s : State) (i : Instr) : (s.send i).jetties = s.jetties := rfl
@[simp] theorem State.send_gtms (s : State) (i : Instr) : (s.send i).gtms = s.gtms := rfl
@[simp] theorem State.send_devId (s : State) (i : Instr) : (s.send i).devId = s.devId := rfl
@[simp] theorem State.send_members (s : State) (i : Instr) : (s.send i).members = s.members := rfl
@[simp] theorem State.send_slices (s : State) (i : Instr) : (s.send i).slices = s.slices := rfl
@[simp] theorem State.send_queues (s : State) (i : Instr) : (s.send i).queues = s.queues := rfl
@[simp] theorem State.send_pools (s : State) (i : Instr) : (s.send i).pools = s.pools := rfl
@[simp] theorem State.send_nextShip (s : State) (i : Instr) : (s.send i).nextShip = s.nextShip := rfl
@[simp] theorem State.send_crews (s : State) (i : Instr) : (s.send i).crews = s.crews := rfl
@[simp] theorem State.send_nextCrew (s : State) (i : Instr) : (s.send i).nextCrew = s.nextCrew := rfl
@[simp] theorem State.send_counters (s : State) (i : Instr) : (s.send i).counters = s.counters := rfl
@[simp] theorem State.send_depWait (s : State) (i : Instr) : (s.send i).depWait = s.depWait := rfl
@[simp] theorem State.send_depOps (s : State) (i : Instr) : (s.send i).depOps = s.depOps := rfl
@[simp] theorem State.send_futWait (s : State) (i : Instr) : (s.send i).futWait = s.futWait := rfl
@[simp] theorem State.send_futOps (s : State) (i : Instr) : (s.send i).futOps = s.futOps := rfl
@[simp] theorem State.send_landings (s : State) (i : Instr) : (s.send i).landings = s.landings := rfl
@[simp] theorem State.send_pilots (s : State) (i : Instr) : (s.send i).pilots = s.pilots := rfl
@[simp] theorem State.send_pager (s : State) (i : Instr) : (s.send i).pager = s.pager := rfl
@[simp] theorem State.send_images (s : State) (i : Instr) : (s.send i).images = s.images := rfl
@[simp] theorem State.send_pfx (s : State) (i : Instr) : (s.send i).pfx = s.pfx := rfl
@[simp] theorem State.send_slots (s : State) (i : Instr) : (s.send i).slots = s.slots := rfl
@[simp] theorem State.send_lighters (s : State) (i : Instr) : (s.send i).lighters = s.lighters := rfl
@[simp] theorem State.send_ports (s : State) (i : Instr) : (s.send i).ports = s.ports := rfl
@[simp] theorem State.send_resentFlits (s : State) (i : Instr) : (s.send i).resentFlits = s.resentFlits := rfl
@[simp] theorem State.send_replaysSent (s : State) (i : Instr) : (s.send i).replaysSent = s.replaysSent := rfl
@[simp] theorem State.send_replaysFound (s : State) (i : Instr) : (s.send i).replaysFound = s.replaysFound := rfl
@[simp] theorem State.send_linkErrors (s : State) (i : Instr) : (s.send i).linkErrors = s.linkErrors := rfl
@[simp] theorem State.send_packetSeq (s : State) (i : Instr) : (s.send i).packetSeq = s.packetSeq := rfl
@[simp] theorem State.send_energyWin (s : State) (i : Instr) : (s.send i).energyWin = s.energyWin := rfl
@[simp] theorem State.send_filter (s : State) (i : Instr) : (s.send i).filter = s.filter := rfl
@[simp] theorem State.send_sysInbox (s : State) (i : Instr) : (s.send i).sysInbox = s.sysInbox := rfl
@[simp] theorem State.send_outbox (s : State) (i : Instr) : (s.send i).outbox = s.outbox := rfl
@[simp] theorem State.send_host (s : State) (i : Instr) : (s.send i).host = s.host := rfl
@[simp] theorem State.send_ages (s : State) (i : Instr) : (s.send i).ages = s.ages := rfl

@[simp] theorem State.emit_agenda (s : State) (m : OutMsg) : (s.emit m).agenda = s.agenda := rfl
@[simp] theorem State.emit_here (s : State) (m : OutMsg) : (s.emit m).here = s.here := rfl
@[simp] theorem State.emit_system (s : State) (m : OutMsg) : (s.emit m).system = s.system := rfl
@[simp] theorem State.emit_fresh (s : State) (m : OutMsg) : (s.emit m).fresh = s.fresh := rfl
@[simp] theorem State.emit_refTime (s : State) (m : OutMsg) : (s.emit m).refTime = s.refTime := rfl
@[simp] theorem State.emit_mem (s : State) (m : OutMsg) : (s.emit m).mem = s.mem := rfl
@[simp] theorem State.emit_l2 (s : State) (m : OutMsg) : (s.emit m).l2 = s.l2 := rfl
@[simp] theorem State.emit_pages (s : State) (m : OutMsg) : (s.emit m).pages = s.pages := rfl
@[simp] theorem State.emit_quays (s : State) (m : OutMsg) : (s.emit m).quays = s.quays := rfl
@[simp] theorem State.emit_jetties (s : State) (m : OutMsg) : (s.emit m).jetties = s.jetties := rfl
@[simp] theorem State.emit_gtms (s : State) (m : OutMsg) : (s.emit m).gtms = s.gtms := rfl
@[simp] theorem State.emit_devId (s : State) (m : OutMsg) : (s.emit m).devId = s.devId := rfl
@[simp] theorem State.emit_members (s : State) (m : OutMsg) : (s.emit m).members = s.members := rfl
@[simp] theorem State.emit_slices (s : State) (m : OutMsg) : (s.emit m).slices = s.slices := rfl
@[simp] theorem State.emit_queues (s : State) (m : OutMsg) : (s.emit m).queues = s.queues := rfl
@[simp] theorem State.emit_pools (s : State) (m : OutMsg) : (s.emit m).pools = s.pools := rfl
@[simp] theorem State.emit_nextShip (s : State) (m : OutMsg) : (s.emit m).nextShip = s.nextShip := rfl
@[simp] theorem State.emit_crews (s : State) (m : OutMsg) : (s.emit m).crews = s.crews := rfl
@[simp] theorem State.emit_nextCrew (s : State) (m : OutMsg) : (s.emit m).nextCrew = s.nextCrew := rfl
@[simp] theorem State.emit_counters (s : State) (m : OutMsg) : (s.emit m).counters = s.counters := rfl
@[simp] theorem State.emit_depWait (s : State) (m : OutMsg) : (s.emit m).depWait = s.depWait := rfl
@[simp] theorem State.emit_depOps (s : State) (m : OutMsg) : (s.emit m).depOps = s.depOps := rfl
@[simp] theorem State.emit_futWait (s : State) (m : OutMsg) : (s.emit m).futWait = s.futWait := rfl
@[simp] theorem State.emit_futOps (s : State) (m : OutMsg) : (s.emit m).futOps = s.futOps := rfl
@[simp] theorem State.emit_landings (s : State) (m : OutMsg) : (s.emit m).landings = s.landings := rfl
@[simp] theorem State.emit_pilots (s : State) (m : OutMsg) : (s.emit m).pilots = s.pilots := rfl
@[simp] theorem State.emit_pager (s : State) (m : OutMsg) : (s.emit m).pager = s.pager := rfl
@[simp] theorem State.emit_images (s : State) (m : OutMsg) : (s.emit m).images = s.images := rfl
@[simp] theorem State.emit_pfx (s : State) (m : OutMsg) : (s.emit m).pfx = s.pfx := rfl
@[simp] theorem State.emit_slots (s : State) (m : OutMsg) : (s.emit m).slots = s.slots := rfl
@[simp] theorem State.emit_lighters (s : State) (m : OutMsg) : (s.emit m).lighters = s.lighters := rfl
@[simp] theorem State.emit_ports (s : State) (m : OutMsg) : (s.emit m).ports = s.ports := rfl
@[simp] theorem State.emit_resentFlits (s : State) (m : OutMsg) : (s.emit m).resentFlits = s.resentFlits := rfl
@[simp] theorem State.emit_replaysSent (s : State) (m : OutMsg) : (s.emit m).replaysSent = s.replaysSent := rfl
@[simp] theorem State.emit_replaysFound (s : State) (m : OutMsg) : (s.emit m).replaysFound = s.replaysFound := rfl
@[simp] theorem State.emit_linkErrors (s : State) (m : OutMsg) : (s.emit m).linkErrors = s.linkErrors := rfl
@[simp] theorem State.emit_packetSeq (s : State) (m : OutMsg) : (s.emit m).packetSeq = s.packetSeq := rfl
@[simp] theorem State.emit_energyWin (s : State) (m : OutMsg) : (s.emit m).energyWin = s.energyWin := rfl
@[simp] theorem State.emit_filter (s : State) (m : OutMsg) : (s.emit m).filter = s.filter := rfl
@[simp] theorem State.emit_sysInbox (s : State) (m : OutMsg) : (s.emit m).sysInbox = s.sysInbox := rfl
@[simp] theorem State.emit_wire (s : State) (m : OutMsg) : (s.emit m).wire = s.wire := rfl
@[simp] theorem State.emit_host (s : State) (m : OutMsg) : (s.emit m).host = s.host := rfl
@[simp] theorem State.emit_ages (s : State) (m : OutMsg) : (s.emit m).ages = s.ages := rfl

@[simp] theorem State.writeByte_agenda (s : State) (pa : Nat) (b : Byte) : (s.writeByte pa b).agenda = s.agenda := rfl
@[simp] theorem State.writeByte_here (s : State) (pa : Nat) (b : Byte) : (s.writeByte pa b).here = s.here := rfl
@[simp] theorem State.writeByte_system (s : State) (pa : Nat) (b : Byte) : (s.writeByte pa b).system = s.system := rfl
@[simp] theorem State.writeByte_fresh (s : State) (pa : Nat) (b : Byte) : (s.writeByte pa b).fresh = s.fresh := rfl
@[simp] theorem State.writeByte_refTime (s : State) (pa : Nat) (b : Byte) : (s.writeByte pa b).refTime = s.refTime := rfl
@[simp] theorem State.writeByte_l2 (s : State) (pa : Nat) (b : Byte) : (s.writeByte pa b).l2 = s.l2 := rfl
@[simp] theorem State.writeByte_pages (s : State) (pa : Nat) (b : Byte) : (s.writeByte pa b).pages = s.pages := rfl
@[simp] theorem State.writeByte_quays (s : State) (pa : Nat) (b : Byte) : (s.writeByte pa b).quays = s.quays := rfl
@[simp] theorem State.writeByte_jetties (s : State) (pa : Nat) (b : Byte) : (s.writeByte pa b).jetties = s.jetties := rfl
@[simp] theorem State.writeByte_gtms (s : State) (pa : Nat) (b : Byte) : (s.writeByte pa b).gtms = s.gtms := rfl
@[simp] theorem State.writeByte_devId (s : State) (pa : Nat) (b : Byte) : (s.writeByte pa b).devId = s.devId := rfl
@[simp] theorem State.writeByte_members (s : State) (pa : Nat) (b : Byte) : (s.writeByte pa b).members = s.members := rfl
@[simp] theorem State.writeByte_slices (s : State) (pa : Nat) (b : Byte) : (s.writeByte pa b).slices = s.slices := rfl
@[simp] theorem State.writeByte_queues (s : State) (pa : Nat) (b : Byte) : (s.writeByte pa b).queues = s.queues := rfl
@[simp] theorem State.writeByte_pools (s : State) (pa : Nat) (b : Byte) : (s.writeByte pa b).pools = s.pools := rfl
@[simp] theorem State.writeByte_nextShip (s : State) (pa : Nat) (b : Byte) : (s.writeByte pa b).nextShip = s.nextShip := rfl
@[simp] theorem State.writeByte_crews (s : State) (pa : Nat) (b : Byte) : (s.writeByte pa b).crews = s.crews := rfl
@[simp] theorem State.writeByte_nextCrew (s : State) (pa : Nat) (b : Byte) : (s.writeByte pa b).nextCrew = s.nextCrew := rfl
@[simp] theorem State.writeByte_counters (s : State) (pa : Nat) (b : Byte) : (s.writeByte pa b).counters = s.counters := rfl
@[simp] theorem State.writeByte_depWait (s : State) (pa : Nat) (b : Byte) : (s.writeByte pa b).depWait = s.depWait := rfl
@[simp] theorem State.writeByte_depOps (s : State) (pa : Nat) (b : Byte) : (s.writeByte pa b).depOps = s.depOps := rfl
@[simp] theorem State.writeByte_futWait (s : State) (pa : Nat) (b : Byte) : (s.writeByte pa b).futWait = s.futWait := rfl
@[simp] theorem State.writeByte_futOps (s : State) (pa : Nat) (b : Byte) : (s.writeByte pa b).futOps = s.futOps := rfl
@[simp] theorem State.writeByte_landings (s : State) (pa : Nat) (b : Byte) : (s.writeByte pa b).landings = s.landings := rfl
@[simp] theorem State.writeByte_pilots (s : State) (pa : Nat) (b : Byte) : (s.writeByte pa b).pilots = s.pilots := rfl
@[simp] theorem State.writeByte_pager (s : State) (pa : Nat) (b : Byte) : (s.writeByte pa b).pager = s.pager := rfl
@[simp] theorem State.writeByte_images (s : State) (pa : Nat) (b : Byte) : (s.writeByte pa b).images = s.images := rfl
@[simp] theorem State.writeByte_pfx (s : State) (pa : Nat) (b : Byte) : (s.writeByte pa b).pfx = s.pfx := rfl
@[simp] theorem State.writeByte_slots (s : State) (pa : Nat) (b : Byte) : (s.writeByte pa b).slots = s.slots := rfl
@[simp] theorem State.writeByte_lighters (s : State) (pa : Nat) (b : Byte) : (s.writeByte pa b).lighters = s.lighters := rfl
@[simp] theorem State.writeByte_ports (s : State) (pa : Nat) (b : Byte) : (s.writeByte pa b).ports = s.ports := rfl
@[simp] theorem State.writeByte_resentFlits (s : State) (pa : Nat) (b : Byte) : (s.writeByte pa b).resentFlits = s.resentFlits := rfl
@[simp] theorem State.writeByte_replaysSent (s : State) (pa : Nat) (b : Byte) : (s.writeByte pa b).replaysSent = s.replaysSent := rfl
@[simp] theorem State.writeByte_replaysFound (s : State) (pa : Nat) (b : Byte) : (s.writeByte pa b).replaysFound = s.replaysFound := rfl
@[simp] theorem State.writeByte_linkErrors (s : State) (pa : Nat) (b : Byte) : (s.writeByte pa b).linkErrors = s.linkErrors := rfl
@[simp] theorem State.writeByte_packetSeq (s : State) (pa : Nat) (b : Byte) : (s.writeByte pa b).packetSeq = s.packetSeq := rfl
@[simp] theorem State.writeByte_energyWin (s : State) (pa : Nat) (b : Byte) : (s.writeByte pa b).energyWin = s.energyWin := rfl
@[simp] theorem State.writeByte_filter (s : State) (pa : Nat) (b : Byte) : (s.writeByte pa b).filter = s.filter := rfl
@[simp] theorem State.writeByte_sysInbox (s : State) (pa : Nat) (b : Byte) : (s.writeByte pa b).sysInbox = s.sysInbox := rfl
@[simp] theorem State.writeByte_wire (s : State) (pa : Nat) (b : Byte) : (s.writeByte pa b).wire = s.wire := rfl
@[simp] theorem State.writeByte_outbox (s : State) (pa : Nat) (b : Byte) : (s.writeByte pa b).outbox = s.outbox := rfl
@[simp] theorem State.writeByte_host (s : State) (pa : Nat) (b : Byte) : (s.writeByte pa b).host = s.host := rfl
@[simp] theorem State.writeByte_ages (s : State) (pa : Nat) (b : Byte) : (s.writeByte pa b).ages = s.ages := rfl

/-! ### Quays and contexts -/

@[simp] theorem Quay.ctx_setCtx_self (q : Quay) (c : Fin 8) (x : Context) : (q.setCtx c x).ctx c = x := by
  show (q.ctxs.set c.val x)[c.val] = x
  simp

theorem Quay.ctx_setCtx_ne (q : Quay) {c d : Fin 8} (x : Context) (h : d ≠ c) : (q.setCtx c x).ctx d = q.ctx d := by
  have hv : c.val ≠ d.val := fun e => h (Fin.ext e.symm)
  show (q.ctxs.set c.val x)[d.val] = q.ctxs[d.val]
  simp [hv]

@[simp] theorem State.quayAt_putQuay_self (s : State) (n : Nat) (q : Quay) : (s.putQuay n q).quayAt n = q := by
  simp [State.quayAt, State.putQuay]

theorem State.quayAt_putQuay_ne (s : State) {n m : Nat} (q : Quay) (h : m ≠ n) : (s.putQuay n q).quayAt m = s.quayAt m := by
  simp [State.quayAt, State.putQuay, sparseGet_put_ne _ _ _ h]

@[simp] theorem State.quay_setQuay (s : State) (q : Quay) : (s.setQuay q).quay = q := by
  simp [State.quay, State.setQuay]

@[simp] theorem State.quay_updQuay (s : State) (f : Quay → Quay) : (s.updQuay f).quay = f s.quay := by
  simp [State.updQuay]

@[simp] theorem State.cctx_setCtx (s : State) (x : Context) : (s.setCtx x).quay.cctx = s.quay.cctx := by
  simp [State.setCtx, Quay.setCtx]

@[simp] theorem State.ctx_setCtx (s : State) (x : Context) : (s.setCtx x).ctx = x := by
  unfold State.ctx
  rw [State.cctx_setCtx]
  simp [State.setCtx]

@[simp] theorem State.ctx_updCtx (s : State) (f : Context → Context) : (s.updCtx f).ctx = f s.ctx := by
  simp [State.updCtx]

@[simp] theorem State.quay_setJetty (s : State) (j : Jetty) : (s.setJetty j).quay = s.quay := rfl
@[simp] theorem State.ctx_setJetty (s : State) (j : Jetty) : (s.setJetty j).ctx = s.ctx := rfl
@[simp] theorem State.jetty_setJetty (s : State) (j : Jetty) : (s.setJetty j).jetty = j := by
  simp [State.jetty, State.setJetty]
@[simp] theorem State.jetty_setQuay (s : State) (q : Quay) : (s.setQuay q).jetty = s.jetty := rfl
@[simp] theorem State.jetty_setCtx (s : State) (x : Context) : (s.setCtx x).jetty = s.jetty := rfl
@[simp] theorem State.quay_send (s : State) (i : Instr) : (s.send i).quay = s.quay := rfl
@[simp] theorem State.quay_emit (s : State) (m : OutMsg) : (s.emit m).quay = s.quay := rfl

@[simp] theorem State.readByte_setQuay (s : State) (q : Quay) (a : Nat) : (s.setQuay q).readByte a = s.readByte a := rfl
@[simp] theorem State.readByte_setCtx (s : State) (x : Context) (a : Nat) : (s.setCtx x).readByte a = s.readByte a := rfl
@[simp] theorem State.readByte_putQuay (s : State) (n : Nat) (q : Quay) (a : Nat) :
    (s.putQuay n q).readByte a = s.readByte a := rfl

/-! ### Memory keeps its canonical form -/

theorem State.writeByte_wf (s : State) (pa : Nat) (b : Byte) (h : Memory.wf s.mem = true) :
    Memory.wf (s.writeByte pa b).mem = true := sparseSet_wf _ _ _ h

theorem State.writeBytes_wf (s : State) (pa : Nat) (bs : List Byte) (h : Memory.wf s.mem = true) :
    Memory.wf (s.writeBytes pa bs).mem = true := by
  induction bs generalizing s pa with
  | nil => exact h
  | cons b t ih => exact ih _ _ (s.writeByte_wf pa b h)

@[simp] theorem State.watchWrite_mem (s : State) (ls : List Loc) : (s.watchWrite ls).mem = s.mem := by
  unfold State.watchWrite
  simp only
  split <;> rfl

@[simp] theorem State.writeLocs_mem (s : State) (cells : List (Loc × Byte)) :
    (s.writeLocs cells).mem =
      sparseSetAll memDefault s.mem ((s.watchWrite (cells.map Prod.fst)).physCells cells) := by
  unfold State.writeLocs
  simp only
  split <;> simp

theorem State.writeLocs_wf (s : State) (cells : List (Loc × Byte)) (h : Memory.wf s.mem = true) :
    Memory.wf (s.writeLocs cells).mem = true := by
  rw [State.writeLocs_mem]
  exact sparseSetAll_wf _ _ h

@[simp] theorem State.dropLines_mem (s : State) (cells : List (Loc × Byte)) : (s.dropLines cells).mem = s.mem := by
  unfold State.dropLines
  split <;> rfl

/-- A byte written reads back, and every other byte reads as before. -/
theorem State.readByte_writeByte (s : State) (pa : Nat) (b : Byte) (a : Nat) (h : Memory.wf s.mem = true) :
    (s.writeByte pa b).readByte a = if s.normPhys a = s.normPhys pa then b else s.readByte a :=
  sparseGet_set memDefault h _ _ _

theorem State.reset_wf : Memory.wf State.reset.mem = true := rfl

/-! ### The shared shapes of operations -/

theorem stall_next (i : Instr) (s : State) : ∃ t, stall i s = .next t := ⟨_, rfl⟩

/-- An operation that does not take effect ends in a next state. -/
theorem halted_next (s : State) (i : Instr) (k : Slot) (h : Halt) : ∃ t, s.halted i k h = .next t := by
  cases h <;> exact ⟨_, rfl⟩

end Sys2Proof.Machine
end

