-- ==== Sys2Proof/Laws/Ops.lean ====
section
/-! SUPPORT. What the shared shapes of operations can do: each run lemma says once where a slot operation ends. -/

namespace Sys2Proof.Machine

/-- A guarded scalar operation: its guard is false, it does not take effect, or it commits the context its rule gives. -/
theorem sRun_cases (i : Instr) (o : SOp) (f : Context → Got Context) (s t : State) (h : sRun i o f s = .next t) :
    (s.ctx.guardHolds (if o.second then .s1 else .s0) o.g = false ∧ t = s)
    ∨ (∃ e, f s.ctx = .error e ∧ s.halted i (if o.second then .s1 else .s0) e = .next t)
    ∨ (s.ctx.guardHolds (if o.second then .s1 else .s0) o.g = true ∧ ∃ c, f s.ctx = .ok c ∧ t = s.setCtx c) := by
  unfold sRun at h
  simp only at h
  generalize (if o.second = true then Slot.s1 else Slot.s0) = k at h ⊢
  split at h
  · rename_i hg
    exact .inl ⟨by simpa using hg, by cases h; rfl⟩
  · rename_i hg
    split at h
    · rename_i c hc
      exact .inr (.inr ⟨by simpa using hg, c, hc, by cases h; rfl⟩)
    · rename_i e he
      exact .inr (.inl ⟨e, he, h⟩)

/-- A guarded M operation: its guard is false, it does not take effect, or the state its rule gives. -/
theorem mRun_cases (i : Instr) (o : MOp) (f : Got State) (s t : State) (h : mRun i o f s = .next t) :
    (s.ctx.guardHolds .m o.g = false ∧ t = s) ∨ (∃ e, f = .error e ∧ s.halted i .m e = .next t)
    ∨ (s.ctx.guardHolds .m o.g = true ∧ f = .ok t) := by
  unfold mRun at h
  split at h
  · rename_i hg
    exact .inl ⟨by simpa using hg, by cases h; rfl⟩
  · rename_i hg
    split at h
    · exact .inr (.inr ⟨by simpa using hg, by cases h; rfl⟩)
    · rename_i e
      exact .inr (.inl ⟨e, rfl, h⟩)

/-- A guarded vector operation: its guard is false, it waits for its tag, it does not take effect, or it begins with the
state its rule gives for the operands read. -/
theorem vRun_cases (i : Instr) (o : VOp) (keeps : Bool) (f : VIn → Option (Fin 8) → State → Got State) (s t : State)
    (h : vRun i o keeps f s = .next t) :
    (s.ctx.guardHolds (vSlot o) o.g = false ∧ t = s) ∨ (s.tagReady o.tag = false ∧ stall i s = .next t)
    ∨ (∃ e, s.halted i (vSlot o) e = .next t)
    ∨ (s.ctx.guardHolds (vSlot o) o.g = true ∧ s.tagReady o.tag = true ∧ ∃ x dst u,
        s.vRead i o keeps = .ok (x, dst) ∧ f x dst s = .ok u ∧ t = u.vBegin i o) := by
  unfold vRun at h
  split at h
  · rename_i hg
    exact .inl ⟨by simpa using hg, by cases h; rfl⟩
  · rename_i hg
    split at h
    · rename_i ht
      exact .inr (.inl ⟨by simpa using ht, h⟩)
    · rename_i ht
      split at h
      · exact .inr (.inr (.inl ⟨_, h⟩))
      · rename_i x dst hr
        split at h
        · exact .inr (.inr (.inl ⟨_, h⟩))
        · rename_i u hu
          exact .inr (.inr (.inr ⟨by simpa using hg, by simpa using ht, x, dst, u, hr, hu, by cases h; rfl⟩))

/-- A guarded B operation: its guard does not read, it is false, or its rule. -/
theorem bRun_cases (i : Instr) (o : BOp) (f : State → Out) (s t : State) (h : bRun i o f s = .next t) :
    (∃ e, s.bGuard o = .error e ∧ s.halted i .b e = .next t) ∨ (s.bGuard o = .ok false ∧ t = s)
    ∨ (s.bGuard o = .ok true ∧ f s = .next t) := by
  unfold bRun at h
  split at h
  · exact .inl ⟨_, by assumption, h⟩
  · exact .inr (.inr ⟨by assumption, h⟩)
  · exact .inr (.inl ⟨by assumption, by cases h; rfl⟩)

/-- A scalar operation whose rule gives a context ends in a next state whatever its guard. -/
theorem sRun_next (i : Instr) (o : SOp) (f : Context → Got Context) (s : State) : ∃ t, sRun i o f s = .next t := by
  unfold sRun
  simp only
  generalize (if o.second = true then Slot.s1 else Slot.s0) = k
  split
  · exact ⟨_, rfl⟩
  · split
    · exact ⟨_, rfl⟩
    · exact halted_next _ _ _ _

/-- An M operation ends in a next state. -/
theorem mRun_next (i : Instr) (o : MOp) (f : Got State) (s : State) : ∃ t, mRun i o f s = .next t := by
  unfold mRun
  split
  · exact ⟨_, rfl⟩
  · split
    · exact ⟨_, rfl⟩
    · exact halted_next _ _ _ _

/-- A vector operation ends in a next state. -/
theorem vRun_next (i : Instr) (o : VOp) (keeps : Bool) (f : VIn → Option (Fin 8) → State → Got State) (s : State) :
    ∃ t, vRun i o keeps f s = .next t := by
  unfold vRun
  split
  · exact ⟨_, rfl⟩
  · split
    · exact stall_next _ _
    · split
      · exact halted_next _ _ _ _
      · split
        · exact halted_next _ _ _ _
        · exact ⟨_, rfl⟩

/-- A B operation ends in a next state where its rule does. -/
theorem bRun_next (i : Instr) (o : BOp) (f : State → Out) (s : State) (hf : ∃ t, f s = .next t) :
    ∃ t, bRun i o f s = .next t := by
  unfold bRun
  split
  · exact halted_next _ _ _ _
  · exact hf
  · exact ⟨_, rfl⟩

end Sys2Proof.Machine
end

