-- ==== Sys2Proof/Tests/Slice0.lean ====
section
/-! SUPPORT. The tests: words of the spec's encodings and worked values, terms that the checks refuse, steps on small
states, and for each obligation states that meet its hypotheses. -/

set_option Elab.async false

namespace Sys2Proof.Tests

open Sys2Proof Sys2Proof.Machine Sys2Proof.Claims

/-- The next state of a step that has one. -/
def tNext (o : Host.Outcome State Fault Refusal) : State :=
  match o with
  | .next t => t
  | _ => {}

/-- A quay whose current context is context 0. -/
def tQuay : Quay := { cctx := 0 }

/-- A device with one quay in use. -/
def tOn (q : Quay) : State := { quays := [(0, q)], host := { power := true, ucie := true, fwok := true, hbmReady := 0xFF } }

/-- The same with a context in place of context 0. -/
def tCtx (c : Context) : State := tOn { tQuay with ctxs := tQuay.ctxs.set 0 c }

/-- x1 is 5, x2 is -1, x3 is -2^63; y, a and e likewise; v1 to v3 hold small bytes. -/
def tRegs : Shadowed :=
  let r : Vector Word 16 := (Vector.replicate 16 0).set 1 5 |>.set 2 (BitVec.allOnes 64) |>.set 3 (BitVec.ofInt 64 (-2 ^ 63))
  { x := (Vector.replicate 32 0).set 1 5 |>.set 2 (BitVec.allOnes 64) |>.set 3 (BitVec.ofInt 64 (-2 ^ 63)), a := r, e := r }

/-- An ACTIVE context with those registers and the whole scratchpad. -/
def tAct : Context := { st := .active, regs := tRegs, spSize := 0x300000 }

def tS : State := tCtx tAct

/-- A value, from its test by the kernel. -/
theorem okOf {ε α : Type} [DecidableEq α] {r : Except ε α} {a : α}
    (h : (match r with
      | .ok x => decide (x = a)
      | .error _ => false) = true) : r = .ok a := by
  cases r <;> simp_all

/-- An error, from its test by the kernel. -/
theorem errorOf {ε α : Type} [DecidableEq ε] {r : Except ε α} {e : ε}
    (h : (match r with
      | .ok _ => false
      | .error x => decide (x = e)) = true) : r = .error e := by
  cases r <;> simp_all

/-- Whether a step has a next state. -/
def tIsNext (o : Host.Outcome State Fault Refusal) : Bool :=
  match o with
  | .next _ => true
  | _ => false

theorem nextOf {o : Host.Outcome State Fault Refusal} (h : tIsNext o = true) : ∃ t, o = .next t := by
  cases o with
  | next t => exact ⟨t, rfl⟩
  | _ => cases h

theorem okEx {ε α : Type} {r : Except ε α} {p : α → Bool}
    (h : (match r with
      | .ok x => p x
      | .error _ => false) = true) : ∃ x, r = .ok x ∧ p x = true := by
  cases r with
  | ok x => exact ⟨x, rfl, h⟩
  | error _ => cases h

/-! ### Decoding: words of the spec -/

theorem test_word_add : slotInstr .s0 0x00001C407A01 = some (.add { g := .on true 2, d := 3, a := .reg 4, b := .reg 7 }) := by
  decide +kernel

theorem test_word_li : slotInstr .s0 0xAF37BC00A030 = some (.li { d := 5, imm := 0x2BCDEF }) := by decide +kernel

theorem test_word_statw : slotInstr .s1 0x008000100042 = some (.statw { second := true, a := .reg 1, imm := 0x80 }) := by
  decide +kernel

theorem test_word_ld_d : slotInstr .m 0x000800400007 = some (.ldD { base := 1, imm := 8 }) := by decide +kernel

theorem test_word_go : slotInstr .b 0x00001003 = some (.go { t := 1 }) := by decide +kernel

theorem test_word_vfadd : slotInstr .v0 0x01400205040020 = some (.vfadd { d := 2, a := .reg 5, b := .reg 8, ety := .fp32 }) := by
  decide +kernel

theorem test_word_vicmp : slotInstr .v0 0x2080010102002C
    = some (.vicmp { d := 1, a := .reg 1, b := .reg 4, ety := .i32, func := 2 }) := by decide +kernel

theorem test_word_vrsum : slotInstr .v0 0x01400002062038 = some (.vrsum { mask := 1, d := 3, a := .reg 2, ety := .fp32 }) := by
  decide +kernel

theorem test_word_cp : slotInstr .e 0x00040120C0A00001 = some (.cp { da := 5, db := 6, tm := 9, tag := 2 }) := by decide +kernel

theorem test_word_mma : slotInstr .e 0x1304000161404020 = some (.mma { pa := 2, da := 10, db := 11, tag := 2, func := 0x13 }) := by
  decide +kernel

theorem test_word_acz : slotInstr .e 0x0500000000000022 = some (.acz { func := 5 }) := by decide +kernel

theorem test_word_epi : slotInstr .e 0x53040122A2808023
    = some (.epi { pa := 4, da := 20, db := 21, tm := 9, tag := 2, func := 0x53 }) := by decide +kernel

theorem test_word_pjld : slotInstr .e 0x0100000003C00024 = some (.pjld { da := 30, func := 1 }) := by decide +kernel

theorem test_word_rteset : slotInstr .e 0x02000000000A8025 = some (.rteset { pa := 4, pb := 5, func := 2 }) := by decide +kernel

theorem test_word_bthset : slotInstr .e 0x000000800140C026 = some (.bthset { pa := 6, da := 10, tm := 4 }) := by decide +kernel

theorem test_word_tbld : slotInstr .e 0x030000000180A030 = some (.tbld { pa := 5, da := 12, func := 3 }) := by decide +kernel

theorem test_word_tlk : slotInstr .e 0x170200000280C031 = some (.tlk { pa := 6, da := 20, tag := 1, func := 0x17 }) := by
  decide +kernel

theorem test_word_tfil : slotInstr .e 0x0700000000012034 = some (.tfil { pa := 9, func := 7 }) := by decide +kernel

theorem test_word_tinv : slotInstr .e 0x2000000000000035 = some (.tinv { func := 0x20 }) := by decide +kernel

theorem test_word_tstat : slotInstr .e 0x000000000000E036 = some (.tstat { pa := 7 }) := by decide +kernel

theorem test_word_pfxh : slotInstr .e 0x000000C060402040 = some (.pfxh { pa := 1, da := 2, db := 3, tm := 6 }) := by
  decide +kernel

theorem test_word_pfxm : slotInstr .e 0x0002000060008041 = some (.pfxm { pa := 4, db := 3, tag := 1 }) := by decide +kernel

theorem test_word_pgmask : slotInstr .e 0x01001000000A8046 = some (.pgmaskSet { pa := 4, pb := 5, bol := 2, func := 1 }) := by
  decide +kernel

theorem test_word_cldef : slotInstr .e 0x030000E2A2804050 = some (.cldef { pa := 2, da := 20, db := 21, tm := 7, func := 3 }) := by
  decide +kernel

theorem test_word_clgo : slotInstr .e 0x0322000000000051 = some (.clgo { tag := 1, var := 1, func := 3 }) := by decide +kernel

theorem test_word_clarm : slotInstr .e 0x0C0000000000A052 = some (.clarm { pa := 5, func := 0x0C }) := by decide +kernel

theorem test_word_mfpub : slotInstr .e 0x03001000000A8054 = some (.mfpub { pa := 4, pb := 5, bol := 2, func := 3 }) := by
  decide +kernel

theorem test_word_clstat : slotInstr .e 0x400000000000C055 = some (.clstatLink { pa := 6, func := 0x40 }) := by decide +kernel

theorem test_word_clcan : slotInstr .e 0x0300000000000056 = some (.clcan { func := 3 }) := by decide +kernel

theorem test_word_spawn : slotInstr .e 0x00060000000A8060 = some (.spawn { pa := 4, pb := 5, tag := 3 }) := by decide +kernel

theorem test_word_depdec : slotInstr .e 0x0000380000004062 = some (.depdec { pa := 2, bol := 7 }) := by decide +kernel

theorem test_word_futw : slotInstr .e 0x020000000000C063 = some (.futw { pa := 6, func := 2 }) := by decide +kernel

theorem test_word_pnext : slotInstr .e 0x0002000000006067 = some (.pnext { pa := 3, tag := 1 }) := by decide +kernel

theorem test_word_dqpush : slotInstr .e 0x0100000000010068 = some (.dqpush { pa := 8, func := 1 }) := by decide +kernel

/-! ### Well-formedness: each check refuses a term (R96 to R100, R107) -/

theorem test_ill_s : (Instr.cmp { sub := 6, a := .reg 1, b := .reg 2 }).wf = false ∧ (Instr.add { nd := true, d := 1 }).wf = false
    ∧ (Instr.addi { imm := 0x10000 }).wf = false ∧ (Instr.add { a := .reg 1, b := .reg 3 }).wf = false
    ∧ (Instr.stat { imm := 0x004 }).wf = false ∧ (Instr.bext { imm := 0xFC1 }).wf = false
    ∧ (Instr.copy { sub := 2, d := 16 }).wf = false := by decide +kernel

theorem test_ill_m : (Instr.ldD { cls := .v }).wf = false ∧ (Instr.ldD { reg := 16 }).wf = false
    ∧ (Instr.ldD { sp := true, base := 2 }).wf = false ∧ (Instr.amo { imm := 0x9000 }).wf = false
    ∧ (Instr.fence { imm := 5 }).wf = false ∧ (Instr.cas { reg := 1 }).wf = false
    ∧ (Instr.sendh { cls := .v, idx := 13 }).wf = false := by decide +kernel

theorem test_ill_v : (Instr.vadd { ety := .fp32, a := .reg 1, b := .reg 2 }).wf = false
    ∧ (Instr.vfadd { ety := .fp32, func := 1, a := .reg 1, b := .reg 2 }).wf = false
    ∧ (Instr.vicmp { d := 0, a := .reg 1, b := .reg 2 }).wf = false ∧ (Instr.vadd { a := .reg 1, b := .reg 3 }).wf = false
    ∧ (Instr.vmac { a := .reg 1, b := .reg 2, c := .reg 1 }).wf = false
    ∧ (Instr.vshli { imm := 8 }).wf = false ∧ (Instr.mand { d := 3, a := .reg 1, b := .reg 5 }).wf = false := by decide +kernel

theorem test_ill_e : (Instr.cp { pa := 1 }).wf = false ∧ (Instr.mma { var := 3 }).wf = false
    ∧ (Instr.mmas { var := 1 }).wf = false ∧ (Instr.epi { func := 0x30 }).wf = false ∧ (Instr.tmsetAdv { func := 1 }).wf = false
    ∧ (Instr.cpr { func := 1 }).wf = false ∧ (Instr.tinv { func := 0x21 }).wf = false
    ∧ (Instr.futw { func := 4 }).wf = false := by decide +kernel

theorem test_ill_b : (Instr.ret { t := 1 }).wf = false ∧ (Instr.go { ck := true }).wf = false ∧ (Instr.susp { imm := 3 }).wf = false
    ∧ (Instr.loop { ck := true, g := .on false 1 }).wf = false ∧ (Instr.lpsetReg {}).wf = false := by decide +kernel

theorem test_ill_event : (Instr.kvHomeStep 320 0).wf = false ∧ (Instr.portStateChange 18 .up 4).wf = false
    ∧ (Instr.flitReceive 18 0 0).wf = false ∧ (Instr.functionReady (.stack 8) true).wf = false := by decide +kernel

theorem test_wf : (Instr.add { a := .reg 1, b := .reg 2 }).wf = true ∧ (Instr.ldD { base := 15 }).wf = true
    ∧ (Instr.vadd { a := .reg 1, b := .reg 2 }).wf = true ∧ (Instr.cp { da := 255, tm := 63 }).wf = true
    ∧ (Instr.go { ck := true, g := .on false 1, imm := 0x10000 }).wf = true ∧ (Instr.kvHomeStep 319 0).wf = true := by
  decide +kernel

/-! ### Witnesses: states that meet the hypotheses of the obligations -/

theorem wit_scalar_binary : SReads tS { d := 3, a := .reg 1, b := .reg 2 } 5 (BitVec.allOnes 64) := ⟨⟨rfl, rfl⟩, rfl⟩

theorem wit_scalar_division : SReads tS { d := 3, a := .reg 1, b := .reg 2 } 5 (BitVec.allOnes 64) ∧ BitVec.allOnes 64 ≠ 0 :=
  ⟨⟨⟨rfl, rfl⟩, rfl⟩, by decide⟩

theorem wit_scalar_division_corners : SReads tS { d := 4, a := .reg 1, b := .zero } 5 0
    ∧ SReads tS { d := 4, a := .reg 3, b := .reg 2 } (BitVec.ofInt 64 (-2 ^ 63)) (BitVec.ofInt 64 (-1)) :=
  ⟨⟨⟨rfl, rfl⟩, rfl⟩, ⟨rfl, rfl⟩, rfl⟩

theorem wit_scalar_immediate : SReads1 tS { d := 4, a := .reg 1, imm := 0xFFFF } 5
    ∧ (0xFFFF : BitVec 22).toNat < 2 ^ 16 := ⟨⟨rfl, rfl⟩, by decide⟩

theorem wit_scalar_bits : SReads1 tS { d := 4, a := .zero } 0 ∧ IsLeadingZeros 0 64 ∧ IsTrailingZeros 0 64
    ∧ IsLeadingZeros 5 61 ∧ (Instr.clz { d := 4, a := .zero }).wf = true :=
  ⟨⟨rfl, rfl⟩, ⟨by decide, by decide, by decide⟩, ⟨by decide, by decide, by decide⟩, ⟨by decide, by decide, by decide⟩,
    by decide +kernel⟩

theorem wit_scalar_fields : tS.ctx.guardHolds .s0 .always = true ∧ SReads tS { d := 4, a := .reg 1, b := .reg 2, imm := 0xFC0 } 5 (BitVec.allOnes 64)
    ∧ tS.ctx.getWord .s0 (tS.ctx.sReg false 1) = .ok 5 := ⟨rfl, ⟨⟨rfl, rfl⟩, rfl⟩, rfl⟩

theorem wit_scalar_compares : SReads tS { d := 7, a := .reg 1, b := .reg 2, sub := 5 } 5 (BitVec.allOnes 64)
    ∧ SReads1 tS { d := 7, a := .reg 1, sub := 5 } 5 ∧ (5 : Fin 8).val ≤ 5 := ⟨⟨⟨rfl, rfl⟩, rfl⟩, ⟨rfl, rfl⟩, by decide⟩

theorem wit_scalar_copy : SReads1 tS { second := true, d := 15, a := .reg 1, sub := 3 } 0
    ∧ SReads1 tS { d := 31, a := .reg 1, sub := 5 } 5 := ⟨⟨rfl, rfl⟩, ⟨rfl, rfl⟩⟩

theorem wit_scratch_loads : ∃ off ls, MRuns tS { reg := 4, cls := .x, sp := true, idx := 0, imm := 8 }
    ∧ tS.ctx.mOff { reg := 4, cls := .x, sp := true, idx := 0, imm := 8 } (BitVec.ofInt 64 (signedField 16 8)) = .ok off
    ∧ tS.mLocs { reg := 4, cls := .x, sp := true, idx := 0, imm := 8 } off 8 8 true false = .ok ls := ⟨8, _, rfl, rfl, rfl⟩

/-- Handle 1 maps the 64 KiB page at 0x10000 of the tenant to physical 0x20000, for reading and writing. -/
def tHandle : Handle := { valid := true, page := true, r := true, w := true, size := 0, pbase := 0x20000, vpage := 0x10000 }

def tH : State := tCtx { tAct with regs := { tRegs with h := tRegs.h.set 1 tHandle } }

theorem wit_handle_loads : ∃ off ls, MRuns tH { reg := 4, cls := .x, base := 1, imm := 8 }
    ∧ tH.ctx.mOff { reg := 4, cls := .x, base := 1, imm := 8 } (BitVec.ofInt 64 (signedField 16 8)) = .ok off
    ∧ tH.mLocs { reg := 4, cls := .x, base := 1, imm := 8 } off 8 8 true false = .ok ls
    ∧ (tH.ctx.loads.filter fun l => l.counted).length < 16 ∧ tH.ctx.lineBusy ls = false :=
  ⟨8, _, rfl, rfl, rfl, by decide, rfl⟩

theorem wit_strided : ∃ off ls, MRuns tS { reg := 4, cls := .v, sp := true, imm := 0xC010 }
    ∧ tS.ctx.mOff { reg := 4, cls := .v, sp := true, imm := 0xC010 } 0 = .ok off ∧ 8 = 2 ^ field (0xC010 : BitVec 16).toNat 14 2
    ∧ tS.mElems { reg := 4, cls := .v, sp := true, imm := 0xC010 } 8 true false
        ((List.range (256 / 8)).map fun (e : Nat) => off + (e : Int) * signedField 14 (0xC010 % 2 ^ 14)) = .ok ls :=
  ⟨0, _, rfl, rfl, by decide, rfl⟩

theorem wit_strided_store : ∃ v ls, tS.mVal { reg := 4, cls := .v, sp := true, imm := 0xC010 } = .ok v ∧ tS.ctx.loads = []
    ∧ tS.ctx.gated.length < 64
    ∧ tS.mElems { reg := 4, cls := .v, sp := true, imm := 0xC010 } 8 false true
        ((List.range (256 / 8)).map fun (e : Nat) => (0 : Int) + (e : Int) * signedField 14 (0xC010 % 2 ^ 14)) = .ok ls :=
  ⟨_, _, rfl, rfl, by decide, rfl⟩

/-- An outstanding load of 8 bytes into x4. -/
def tLoad : OLoad := { reg := .x 4, form := .zext 8, locs := (List.range 8).map fun i => .phys (0x20000 + i), bidx := 0, age := 0 }

theorem wit_load_lands : ((tCtx { tAct with bidx := 1, loads := [tLoad] }).quay.ctx 0).loads[0]? = some tLoad
    ∧ (∀ q t i, tLoad.form ≠ .tm q t i) ∧ (tCtx { tAct with loads := [tLoad] }).early none tLoad.floor tLoad.sentAt = false
    ∧ (∀ w ∈ ((tCtx { tAct with bidx := 1, loads := [tLoad] }).quay.ctx 0).pend, w.reg ≠ tLoad.reg) ∧ tLoad.discard = false
    ∧ ({ tLoad with discard := true } : OLoad).discard = true
    ∧ ((tCtx { tAct with st := .faulted, loads := [tLoad] }).quay.ctx 0).st = .faulted :=
  ⟨rfl, nofun, by decide +kernel, by decide +kernel, rfl, rfl, rfl⟩

theorem wit_strided_handle : ∃ ls, MRuns tH { reg := 4, cls := .v, base := 1, imm := 0xC010 }
    ∧ tH.mElems { reg := 4, cls := .v, base := 1, imm := 0xC010 } 8 true false
        ((List.range (256 / 8)).map fun (e : Nat) => (0 : Int) + (e : Int) * signedField 14 (0xC010 % 2 ^ 14)) = .ok ls
    ∧ tH.mElems { reg := 4, cls := .v, base := 1, imm := 0xC010 } 8 false true
        ((List.range (256 / 8)).map fun (e : Nat) => (0 : Int) + (e : Int) * signedField 14 (0xC010 % 2 ^ 14)) = .ok ls
    ∧ (tH.ctx.loads.filter fun l => l.counted).length < 16 ∧ tH.ctx.lineBusy ls = false :=
  ⟨_, rfl, rfl, rfl, by decide, rfl⟩

/-- A crew in deterministic mode. -/
def tDet : Crew :=
  { id := 1, queue := 0, ship := 0, index := 0, slice := 0, lr := { raw := 0x100 }, quays := [0], ctxs := [[0]], spBases := [0]
    spSize := 0x10000, window := [0], dictBase := [0], dictUnits := 1, live := 1, startedAt := 0, placedAt := 0 }

theorem wit_load_waits_for_floor :
    ({ tCtx { tAct with crew := some 1, loads := [{ tLoad with floor := 1120 }] } with crews := [tDet] } : State).early (some 1) 1120 0 = true := by
  decide +kernel

theorem wit_stores : ∃ off v ls, MRuns tS { reg := 1, cls := .x, sp := true, imm := 0x10 }
    ∧ tS.ctx.mOff { reg := 1, cls := .x, sp := true, imm := 0x10 } (BitVec.ofInt 64 (signedField 16 0x10)) = .ok off
    ∧ tS.mVal { reg := 1, cls := .x, sp := true, imm := 0x10 } = .ok v
    ∧ tS.mLocs { reg := 1, cls := .x, sp := true, imm := 0x10 } off 8 8 false true = .ok ls ∧ tS.ctx.loads = []
    ∧ tS.ctx.gated.length < 64 := ⟨16, _, _, rfl, rfl, rfl, rfl, rfl, by decide⟩

/-- 64 gated stores. -/
def tGated : State := tCtx { tAct with gated := List.replicate 64 { ctx := 0, kind := .bytes [(.sp 5, 1)], bidx := 0, age := 0 } }

theorem wit_65th_store : MRuns tGated { reg := 1, cls := .x, sp := true, imm := 0x10 } ∧ tGated.ctx.loads = []
    ∧ 64 ≤ tGated.ctx.gated.length := ⟨rfl, rfl, by decide⟩

theorem wit_stores_wait : (tCtx { tAct with loads := [tLoad] }).ctx.loads ≠ [] := nofun

theorem wit_reductions : ∃ off v l ls, MRuns tH { reg := 1, cls := .x, base := 1, imm := 0x9000 }
    ∧ tH.ctx.mOff { reg := 1, cls := .x, base := 1, imm := 0x9000 } (BitVec.ofNat 64 (0x9000 % 4096)) = .ok off
    ∧ tH.mVal { reg := 1, cls := .x, base := 1, imm := 0x9000 } = .ok v ∧ tH.ctx.loads = [] ∧ tH.ctx.gated.length < 64
    ∧ tH.mLocs { reg := 1, cls := .x, base := 1, imm := 0x9000 } off 4 4 false true = .ok (l :: ls) :=
  ⟨0, _, _, _, rfl, rfl, rfl, rfl, by decide, rfl⟩

theorem wit_vector_reductions : ∃ v ls, tH.mVal { reg := 1, cls := .v, base := 1, imm := 0x9000 } = .ok v
    ∧ tH.mLocs { reg := 1, cls := .v, base := 1, imm := 0x9000 } 0 256 64 false true = .ok ls := ⟨_, _, rfl, rfl⟩

theorem wit_sendh : ∃ w pc x3 x4 v, MRuns tS { reg := 1, cls := .v, idx := 12 } ∧ tS.ctx.getWord .m (.a 12) = .ok w
    ∧ tS.ctx.getWord .m (.a (12 + 1)) = .ok pc ∧ tS.ctx.getWord .m (.a (12 + 2)) = .ok x3
    ∧ tS.ctx.getWord .m (.a (12 + 3)) = .ok x4 ∧ tS.mVal { reg := 1, cls := .v, idx := 12 } = .ok v
    ∧ tS.landingCheck tS.ctx.slice w 256 = none ∧ tS.linkOk (field w.toNat 0 6) = true ∧ tS.ctx.loads = [] ∧ tS.ctx.gated.length < 64 :=
  ⟨_, _, _, _, _, rfl, rfl, rfl, rfl, rfl, rfl, by decide +kernel, rfl, rfl, by decide⟩

/-- A drained store of two bytes at one place of scratchpad and one of HBM. -/
def tStore : GStore :=
  { ctx := 0, kind := .bytes [(.sp 5, 1), (.sp 5, 2), (.phys 0x20000, 3)], bidx := 0, age := 0 }

def tDrained : State := tOn { tQuay with drained := [tStore] }

theorem wit_store_performs : tDrained.quay.drained[0]? = some tStore ∧ tStore.kind = .bytes [(.sp 5, 1), (.sp 5, 2), (.phys 0x20000, 3)]
    ∧ tDrained.mayPerform tStore = true ∧ tDrained.sound = true ∧ (tDrained.storePeers tStore).all tDrained.linkOk = true
    ∧ (let s : State := { tDrained with members := 3 }
       let g : GStore := { tStore with kind := .bytes [(.phys 0x4040000000000, 3)] }
       (s.storePeers g).all s.linkOk = false) :=
  ⟨rfl, rfl, by decide +kernel, by decide +kernel, by decide +kernel, by decide +kernel⟩


theorem wit_handle_checks :
    (tHandle.valid = true ∧ tHandle.pend = false ∧ ¬(65529 + 8 ≤ pageBytes tHandle.size) ∧ 65528 + 8 ≤ pageBytes tHandle.size)
    ∧ ({ tHandle with w := false } : Handle).w = false ∧ 65527 % 8 ≠ 0
    ∧ tS.memType (tHandle.pbase + 65528) = .ok .hbm ∧ tS.memType 0xC000000000 = .error .permission
    ∧ tS.host.hbmFail = 0 ∧ tS.host.hbmReady = 0xFF :=
  ⟨by decide +kernel, rfl, by decide, okOf (by decide +kernel), errorOf (by decide +kernel), rfl, rfl⟩

theorem wit_scratch_checks : MRuns tS { sp := true, idx := 2 }
    ∧ tS.ctx.mOff { sp := true, idx := 2 } (BitVec.ofInt 64 (signedField 16 0)) = .ok (-1)
    ∧ tS.ctx.mOff { sp := true, idx := 1 } (BitVec.ofInt 64 (signedField 16 0)) = .ok 5 ∧ 5 % 4 ≠ 0
    ∧ 0x2FFFF8 + 8 ≤ min tS.ctx.spSize 0x300000 := ⟨rfl, rfl, rfl, by decide, by decide⟩

theorem wit_xlate : ∃ a, MRuns tS { cls := .h, reg := 15, idx := 1 } ∧ tS.ctx.getWord .m (.a 1) = .ok a := ⟨_, rfl, rfl⟩

/-- An XLATE of 0x10005 whose 32 cycles have just passed, in a tenant whose page at 0x10000 is mapped; one of an unmapped
page and one beyond the address space. -/
def tXl (va : Word) : State :=
  { tOn { tQuay with cycle := 32, ctxs := tQuay.ctxs.set 0 { tAct with xlates := [⟨1, va, 0, 0⟩] } } with
    pages := [{ slice := 0, va := 0x10000, size := 0, pa := 0x20000, r := true, w := true, x := false }] }

theorem wit_xlate_result : ((tXl 0x10005).quay.ctx 0).xlates[0]? = some ⟨1, 0x10005, 0, 0⟩
    ∧ 0 + 32 ≤ (tXl 0x10005).quay.cycle.toNat ∧ (∃ m, (tXl 0x10005).translate 0 0x10005 = some m)
    ∧ (tXl 0x30000).translate 0 0x30000 = none ∧ 2 ^ 56 / 2 ^ 56 ≠ 0 := ⟨rfl, by decide, ⟨_, rfl⟩, rfl, by decide⟩

theorem wit_atomics : ∃ off d n ls, MRuns tH { reg := 2, cls := .x, base := 1, imm := 0x8000 } ∧ tH.ctx.loads = []
    ∧ tH.mVal { reg := 2, cls := .x, base := 1, imm := 0x8000 } = .ok d
    ∧ tH.ctx.mOff { reg := 2, cls := .x, base := 1, imm := 0x8000 } (BitVec.ofNat 64 (0x8000 % 4096)) = .ok off
    ∧ tH.mLocs { reg := 2, cls := .x, base := 1, imm := 0x8000 } off 8 8 true true = .ok ls
    ∧ tH.mVal { reg := 3, cls := .x, base := 1, imm := 0x8000 } = .ok n ∧ Memory.wf tH.mem = true
    ∧ ∀ l ∈ ls, IsPhys tH 0x30000 l = false := ⟨0, _, _, _, rfl, rfl, rfl, rfl, rfl, rfl, by decide +kernel, by decide +kernel⟩

theorem wit_bitmaps : ∃ ls j, tH.bitLocs { reg := 1, cls := .x, base := 1 } true false = .ok (ls, j)
    ∧ tH.bitLocs { reg := 1, cls := .x, base := 1 } false true = .ok (ls, j) ∧ tH.ctx.gated = [] ∧ tH.quay.drained = []
    ∧ tH.ctx.loads = [] := ⟨_, _, rfl, rfl, rfl, rfl, rfl⟩

theorem wit_fences : MRuns tS { imm := 0x43 } ∧ tS.ctx.loads = [] ∧ tS.commandsOf = false
    ∧ tS.flush.storesOf = false ∧ tS.ctx.mOff { imm := 0 } 0 = .ok 0 ∧ field (0x43 : BitVec 16).toNat 3 2 ≠ 1
    ∧ 3 ≤ field (0x43 : BitVec 16).toNat 0 3 ∧ field (0x43 : BitVec 16).toNat 3 2 = 0 ∧ field (0x0B : BitVec 16).toNat 3 2 = 1 :=
  ⟨rfl, rfl, by decide +kernel, by decide +kernel, rfl, by decide, by decide, by decide, by decide⟩

/-- A command of context 0 in the dock, before its dock entry. -/
def tCp : DockEntry := { seq := 0, op := .cp { da := 1, db := 2, tm := 3 }, owner := 0, ctx := 0, spSize := 0x300000 }

def tDock (d : DockEntry) : State := tOn { tQuay with ctxs := tQuay.ctxs.set 0 tAct, dock := [d], nextSeq := 1 }

theorem wit_fence_waits : (tDock tCp).commandsOf = true ∧ field (0x40 : BitVec 16).toNat 6 1 = 1
    ∧ ({ tS with members := 3 } : State).flush.storesOf = false
    ∧ (tOn { tQuay with
        ctxs := tQuay.ctxs.set 0 tAct
        unacked := [(0, 0, { dev := 0, quay := 0, seq := 0, ctx := 0, cmd := none, op := .add, ty := .u64, elems := [] })] }).flush.storesOf
      = true := by decide +kernel

theorem wit_dictionary : ∃ v ls, MRuns tS { reg := 0, sp := true, imm := 0xFFF } ∧ tS.mVal { reg := 0, sp := true, imm := 0xFFF } = .ok v
    ∧ tS.ctx.mOff { reg := 0, sp := true, imm := 0xFFF } 0 = .ok 0 ∧ field v.toNat 0 12 + (field 0xFFF 0 12 + 1) ≤ 4096
    ∧ tS.mLocs { reg := 0, sp := true, imm := 0 } 0 48 16 true false = .ok ls := ⟨_, _, rfl, rfl, rfl, by decide +kernel, rfl⟩

theorem wit_dictionary_range : ∃ v, tS.mVal { reg := 1, sp := true, imm := 0xFFF } = .ok v
    ∧ 4096 < field v.toNat 0 12 + (field 0xFFF 0 12 + 1) := ⟨_, rfl, by decide +kernel⟩

theorem wit_bollards : ∃ v, MRuns tS { reg := 1, cls := .x, imm := 0x7F } ∧ tS.mVal { reg := 1, cls := .x, imm := 0x7F } = .ok v
    ∧ (0x7F : BitVec 16).getLsbD 6 = true ∧ (0x3F : BitVec 16).getLsbD 6 = false ∧ (vget {} tS.quay.bols 63).crew = none
    ∧ 1 ≤ (vget {} tS.quay.bols 63).thr := ⟨_, rfl, rfl, by decide, by decide, rfl, by decide⟩

/-- A device whose tidemark 63 is `m`. -/
def tTm (m : Tidemark) : State := tOn { tQuay with ctxs := tQuay.ctxs.set 0 tAct, tms := tQuay.tms.set 63 m }

theorem wit_tidemark_wait : ∃ a, MRuns (tTm { value := 6, st := .run }) { reg := 4, cls := .x, idx := 1, imm := 63 }
    ∧ (tTm { value := 6, st := .run }).ctx.getWord .m (.a 1) = .ok a ∧ a.toNat % 2 ^ 32 < 6
    ∧ (vget {} (tTm { value := 6, st := .run }).quay.tms 63).st ≠ .abandon
    ∧ (vget {} (tTm { value := 5, st := .halt }).quay.tms 63).value ≤ a.toNat % 2 ^ 32
    ∧ (vget {} (tTm { value := 5, st := .run }).quay.tms 63).value ≤ a.toNat % 2 ^ 32
    ∧ (vget {} (tTm { value := 9, st := .abandon }).quay.tms 63).st = .abandon
    ∧ (tTm { value := 6, st := .run }).ctx.st = .active :=
  ⟨5, rfl, rfl, by decide, by decide, by decide, by decide, by decide, rfl⟩

theorem wit_tidemark_lands :
    let l : OLoad := { reg := .x 4, form := .tm 0 63 5, locs := [], bidx := 0, age := 0 }
    let s := tOn { tQuay with ctxs := tQuay.ctxs.set 0 { tAct with loads := [l] }, tms := tQuay.tms.set 63 { value := 6, st := .run } }
    (s.quay.ctx 0).loads[0]? = some l ∧ (s.quay.ctx 0).st = .active ∧ 5 < (vget {} s.quay.tms 63).value
    ∧ (s.quay.ctx 0).pend = [] := by decide +kernel

theorem wit_targets : ∃ v, tS.bGuard {} = .ok true ∧ tS.ctx.getWord .b (tS.ctx.xReg (Fin.ofNat 32 (field 1 0 5))) = .ok v :=
  ⟨_, rfl, rfl⟩

/-- Two filled target buffers, a return stack, a loop count and the head of the tile condition queue. -/
def tB (ret : List (BitVec 32)) (lc : BitVec 32) (skew : Nat) (tcq : List Bool) : State :=
  tCtx { tAct with regs := { tRegs with targets := tRegs.targets.set 7 ⟨true, 0x100, []⟩, ret := ret, lc := lc, skewLeft := skew, tcq := tcq } }

theorem wit_transfers : (tB [1, 2, 3, 4, 5, 6, 7] 0 0 []).bGuard { t := 7 } = .ok true ∧ (tB [1, 2, 3, 4, 5, 6, 7] 0 0 []).lockedCtx = none
    ∧ ((tB [1, 2, 3, 4, 5, 6, 7] 0 0 []).ctx.regs.targets.get 7).filled = true
    ∧ ((tB [1, 2, 3, 4, 5, 6, 7] 0 0 []).ctx.regs.targets.get 6).filled = false
    ∧ (tB [1, 2, 3, 4, 5, 6, 7] 0 0 []).ctx.regs.ret.length < 8 ∧ 8 ≤ (tB [1, 2, 3, 4, 5, 6, 7, 8] 0 0 []).ctx.regs.ret.length
    ∧ (tB [] 0 0 []).ctx.regs.ret = [] := ⟨rfl, rfl, rfl, rfl, by decide, by decide, rfl⟩

theorem wit_loops : (tB [] 0 0 []).ctx.regs.lc = 0 ∧ (tB [] 1 0 []).ctx.regs.lc = 1 ∧ 1 < (tB [] 2 0 []).ctx.regs.lc
    ∧ (tB [] 2 0 []).bGuard { t := 7 } = .ok true ∧ (tB [] 2 0 []).lockedCtx = none
    ∧ ((tB [] 2 0 []).ctx.regs.targets.get 7).filled = true := ⟨rfl, rfl, by decide +kernel, rfl, rfl, rfl⟩

theorem wit_tile_conditions : 0 < (tB [] 0 1 []).ctx.regs.skewLeft ∧ (tB [] 0 0 []).ctx.regs.skewLeft = 0
    ∧ (tB [] 0 0 []).ctx.regs.tcq = [] ∧ (tB [] 0 0 [true]).ctx.regs.tcq = [true]
    ∧ ((tB [] 0 0 [true]).ctx.regs.targets.get 7).filled = true := ⟨by decide, rfl, rfl, rfl, rfl⟩

theorem wit_traps : tS.bGuard { imm := 0xFF } = .ok true ∧ tS.lockedCtx = none ∧ tS.ctx.queue = [] ∧ tS.ctx.handler = false
    ∧ (tCtx { tAct with handler := true }).ctx.handler = true := ⟨rfl, rfl, rfl, rfl, rfl⟩

theorem wit_halts : tS.bGuard {} = .ok true ∧ tS.lockedCtx = none ∧ tS.ctx.queue = [] ∧ tS.ctx.streamsBusy = false
    ∧ tS.quay.deque.length < 1024 := ⟨rfl, rfl, rfl, by decide +kernel, by decide⟩

/-- Mask k1 all ones, k2 mixed; q all 0. -/
def tMasks : State := tCtx { tAct with k := tAct.k.set 1 (BitVec.allOnes 256) |>.set 2 1 }

theorem wit_guards : tS.ctx.guardHolds .s0 (.on false 7) = false ∧ tS.ctx.guardHolds .m (.on false 7) = false
    ∧ tS.ctx.guardHolds .v1 (.on false 7) = false ∧ tS.ctx.guardHolds .e (.on false 7) = false ∧ tS.system = false
    ∧ tS.ctx.futw = none ∧ tS.lockedCtx = none ∧ tS.bGuard { g := .on false 7 } = .ok false
    ∧ tMasks.bGuard { ck := true, g := .on false 2 } = .error (.fault .nonuniform none)
    ∧ tMasks.bGuard { ck := true, g := .on false 1 } = .ok true :=
  ⟨by decide +kernel, by decide +kernel, by decide +kernel, by decide +kernel, rfl, rfl, rfl, okOf (by decide +kernel), errorOf (by decide +kernel), okOf (by decide +kernel)⟩

theorem wit_vector_reads : ∃ x dst, VReads tS (.vadd { d := 1, a := .reg 1, b := .reg 2 }) { d := 1, a := .reg 1, b := .reg 2 } false x dst :=
  ⟨_, _, rfl, rfl, rfl⟩

theorem wit_vector_wide : ∃ x dst old, VReads tS (.vmacw { d := 2, a := .reg 1, b := .reg 2 }) { d := 2, a := .reg 1, b := .reg 2 } true x dst
    ∧ tS.ctx.get .v0 (tS.ctx.vName false (2 + 1)) = .ok old := ⟨_, _, _, ⟨rfl, rfl, rfl⟩, rfl⟩

theorem wit_vector_float : ∃ x dst, VReads tS (.vfma { ety := .fp32, a := .reg 1, b := .reg 2, c := .zero })
    { ety := .fp32, a := .reg 1, b := .reg 2, c := .zero } false x dst := ⟨_, _, rfl, rfl, rfl⟩

theorem wit_rounding : Fmt.fp32 ∈ [Fmt.bf16, .fp16, .fp32, .e4m3, .e5m2, .e2m1, .i8, .i16, .i32] ∧ 0x3F800000 < 2 ^ Fmt.fp32.bits
    ∧ (Fmt.fp32.value 0x3F800000).isNan = false ∧ (Fmt.fp32.value 0x3F800000).isInf = false
    ∧ 2 ^ 31 < 2 ^ Fmt.i32.bits ∧ (Fmt.i32.value (2 ^ 31)).isNan = false := by decide +kernel

theorem wit_vector_compares : ∃ x dst, VReads tS (.vicmp { d := 7, a := .reg 1, b := .reg 2, func := 5 })
    { d := 7, a := .reg 1, b := .reg 2, func := 5 } false x dst ∧ (5 : Fin 16).val ≤ 5 := ⟨_, _, ⟨rfl, rfl, rfl⟩, by decide⟩

theorem wit_vector_fcompares : ∃ x dst, VReads tS (.vfcmp { ety := .fp32, d := 7, a := .reg 1, b := .reg 2, func := 4 })
    { ety := .fp32, d := 7, a := .reg 1, b := .reg 2, func := 4 } false x dst := ⟨_, _, rfl, rfl, rfl⟩

theorem wit_vector_conversions : ∃ x dst, VReads tS (.vcvt { ety := .fp32, a := .reg 1, imm := 1, func := 3 })
    { ety := .fp32, a := .reg 1, imm := 1, func := 3 } (decide (2048 / vw { ety := .fp32 } < 2048 / Fmt.bf16.bits)) x dst :=
  ⟨_, _, rfl, rfl, rfl⟩

theorem wit_vector_planes : ∃ x dst, VReads tS (.vpackp { a := .reg 1, func := 7 }) { a := .reg 1, func := 7 } false x dst ∧ 8 = (7 : Fin 16).val % 8 + 1 :=
  ⟨_, _, ⟨rfl, rfl, rfl⟩, by decide⟩

theorem wit_vector_unplanes : ∃ x dst, VReads tS (.vunpkp { a := .reg 1, imm := 7, func := 7 }) { a := .reg 1, imm := 7, func := 7 } false x dst :=
  ⟨_, _, rfl, rfl, rfl⟩

theorem wit_vector_scale : ∃ x dst, VReads tS (.vscale { ety := .fp32, a := .reg 1, imm := 63, func := 11 })
    { ety := .fp32, a := .reg 1, imm := 63, func := 11 } false x dst := ⟨_, _, rfl, rfl, rfl⟩

theorem wit_vector_amax : ∃ x dst, VReads tS (.vamax { ety := .fp32, a := .reg 1, imm := 63 }) { ety := .fp32, a := .reg 1, imm := 63 } false x dst :=
  ⟨_, _, rfl, rfl, rfl⟩

theorem wit_push_values : (pushBits (amaxVal [Fmt.fp32.value 0])).isSome = true := by decide +kernel

theorem wit_vector_sums : ∃ x dst, VReads tS (.vrsum { ety := .i32, a := .reg 1 }) { ety := .i32, a := .reg 1 } false x dst
    ∧ ((ETy.i32 == .i8 || ETy.i32 == .i16 || ETy.i32 == .i32)) = true := ⟨_, _, ⟨rfl, rfl, rfl⟩, rfl⟩

theorem wit_vector_extremes : ∃ x dst, VReads tS (.vrmax { ety := .i8, a := .reg 1, func := 1 }) { ety := .i8, a := .reg 1, func := 1 } false x dst :=
  ⟨_, _, rfl, rfl, rfl⟩

theorem wit_vector_fp_extremes : ∃ x dst, VReads tS (.vrmax { ety := .bf16, a := .reg 1 }) { ety := .bf16, a := .reg 1 } false x dst :=
  ⟨_, _, rfl, rfl, rfl⟩

/-- R207, R215: a NaN yields to the other operand, and −0 is below +0. -/
theorem test_largest_element : fpMinMax .bf16 true 0x7FC0 0x3F80 = 0x3F80 ∧ fpMinMax .bf16 true 0x8000 0 = 0 := by decide +kernel

theorem wit_vector_scan : ∃ x dst, VReads tS (.vscan { ety := .bf16, a := .reg 1 }) { ety := .bf16, a := .reg 1 } false x dst :=
  ⟨_, _, rfl, rfl, rfl⟩

theorem wit_vector_moves : (∃ x dst, VReads tS (.vshuf { a := .reg 1, func := 4 }) { a := .reg 1, func := 4 } false x dst)
    ∧ (∃ x dst, VReads tS (.vli { imm := 0xFFFF }) { imm := 0xFFFF } false x dst)
    ∧ ∃ x, VReads tS (.vcopyx { d := 31, a := .reg 1 }) { d := 31, a := .reg 1 } false x none :=
  ⟨⟨_, _, rfl, rfl, rfl⟩, ⟨_, _, rfl, rfl, rfl⟩, ⟨_, rfl, rfl, rfl⟩⟩

theorem wit_masks : (∃ x dst, VReads tMasks (.mand { d := 1, a := .reg 1, b := .reg 2 }) { d := 1, a := .reg 1, b := .reg 2 } false x dst)
    ∧ (∃ x dst, VReads tMasks (.tcqw { a := .reg 1 }) { a := .reg 1 } false x dst) ∧ tMasks.ctx.tcqUsed < 16 :=
  ⟨⟨_, _, rfl, rfl, rfl⟩, ⟨_, _, rfl, rfl, rfl⟩, by decide +kernel⟩

theorem wit_ports : ∃ x dst, tS.portHeld 15 = false ∧ VReads tS (.acwr { ety := .i32, a := .reg 1, b := .reg 2, func := 15 })
    { ety := .i32, a := .reg 1, b := .reg 2, func := 15 } false x dst := ⟨_, _, by decide +kernel, rfl, rfl, rfl⟩

theorem wit_scalar_frame : (Instr.add { d := 4, a := .reg 1, b := .reg 2 }).form = .s 1 { d := 4, a := .reg 1, b := .reg 2 }
    ∧ ∃ t, exec (.add { d := 4, a := .reg 1, b := .reg 2 }) tS = .next t := ⟨rfl, nextOf (by decide +kernel)⟩

theorem wit_memory_frame : (Instr.ldD { reg := 4, cls := .x, sp := true }).form = .m 7 { reg := 4, cls := .x, sp := true }
    ∧ committingM (.ldD { reg := 4, cls := .x, sp := true }) = false
    ∧ ∃ t, exec (.ldD { reg := 4, cls := .x, sp := true }) tS = .next t := ⟨rfl, rfl, nextOf (by decide +kernel)⟩

theorem wit_vector_frame : (Instr.vadd { d := 1, a := .reg 1, b := .reg 2 }).form = .v 1 { d := 1, a := .reg 1, b := .reg 2 }
    ∧ tS.srcStream { d := 1, a := .reg 1, b := .reg 2 } (.reg 1) = [] ∧ tS.srcStream { d := 1, a := .reg 1, b := .reg 2 } (.reg 2) = []
    ∧ ∃ t, exec (.vadd { d := 1, a := .reg 1, b := .reg 2 }) tS = .next t := ⟨rfl, by decide +kernel, by decide +kernel, nextOf (by decide +kernel)⟩

theorem wit_branch_frame : (Instr.rrb { imm := 3 }).form = .b 0x0E { imm := 3 } ∧ tS.lockedCtx = none
    ∧ ∃ t, exec (.rrb { imm := 3 }) tS = .next t := ⟨rfl, rfl, nextOf (by decide +kernel)⟩

theorem wit_visibility : ∀ w ∈ ({} : Context).pend, w.reg ≠ .x 31 := by decide +kernel

theorem wit_native_write : ownsFile .s0 (.x 31) = true ∧ ownsFile .m (.x 31) = false ∧ (∀ n, RegId.x 31 ≠ .k n ∧ RegId.x 31 ≠ .g n) :=
  ⟨rfl, rfl, fun _ => ⟨nofun, nofun⟩⟩

theorem wit_latches : 3 < 4 ∧ ∀ e ∈ ({} : Context).latches, e.issued < ({} : Context).bidx := ⟨by decide, by decide +kernel⟩

/-- Stream 0 of the V0 slot bound, for reading with one element ahead of two, or for writing. -/
def tStream (st : Stream) : State := tCtx { tAct with streams := tAct.streams.set 0 st }

theorem wit_stream_operands : streamOf false 28 = some 0 ∧ (tStream { bound := true, count := 2, buf := [7] }).streamPending 0 = false
    ∧ ((tStream { bound := true, count := 2, buf := [7] }).ctx.streams.get 0).bound = true
    ∧ ((tStream { bound := true, count := 2, buf := [7] }).ctx.streams.get 0).buf.head? = some 7
    ∧ ((tStream { bound := true, count := 2, buf := [7] }).ctx.streams.get 0).seq + 1 < 2
    ∧ ((tStream { bound := true, write := true, count := 2 }).ctx.streams.get 0).write = true
    ∧ ((tStream { bound := true, count := 2, seq := 2 }).ctx.streams.get 0).count ≤ 2 :=
  ⟨rfl, rfl, rfl, rfl, by decide, rfl, by decide⟩

theorem wit_fault_word : ({ code := .softwareTrap, origin := 15, trap := 255, tm := 63, pc := 0, lit := false } : FaultInfo).trap < 256
    ∧ ({ code := .softwareTrap, origin := 15, trap := 255, tm := 63, pc := 0, lit := false } : FaultInfo).tm < 64
    ∧ ({ code := .softwareTrap, origin := 15, trap := 255, tm := 63, pc := 0, lit := false } : FaultInfo).origin < 16 := by decide

theorem wit_vectored : (tCtx { tAct with vecEn := true }).ctx.vecEn = true ∧ (tCtx { tAct with vecEn := true }).ctx.handler = false
    ∧ (tCtx { tAct with vecEn := true }).jetty.fused = false
    ∧ ({ code := .tableStale, origin := 5, pc := 0, lit := false, va := some 0 } : FaultInfo).va = some 0
    ∧ ({ code := .tableStale, origin := 5, pc := 0, lit := false, va := some 0 } : FaultInfo).trans = false := ⟨rfl, rfl, rfl, rfl, rfl⟩

theorem wit_rollback : tS.ctx.effects = [] := rfl

theorem wit_system_fault : isVectored .illegalOp = false ∧ isTranslation .illegalOp = false ∧ tS.jetty.fused = false
    ∧ ({ code := .illegalOp, origin := 0, pc := 0, lit := false, va := some 0 } : FaultInfo).trans = false := ⟨rfl, rfl, rfl, rfl⟩

theorem wit_translation_fault : ({ code := .fetchFault, origin := 7, pc := 0, lit := false, va := some 0x10000 } : FaultInfo).page = none
    ∧ (tS.pager.delivered.any fun r => r.covers tS.ctx.slice ((0x10000 : Word).toNat / 2 ^ 16)) = false := ⟨rfl, rfl⟩

/-- Bollard 63 with a generation. -/
def tBol (g : BitVec 16) (start : Bool) : State :=
  tOn { tQuay with bols := tQuay.bols.set 63 { gen := g }, ctxs := tQuay.ctxs.set 0 { tAct with legStart := start } }

theorem wit_header : ((tBol 32767 false).bollard 0 63).gen.toNat = 32767 ∧ 32767 < 32768 ∧ ((tBol 32768 false).bollard 0 63).gen.toNat = 32768
    ∧ (tBol 0 true).ctx.legStart = true ∧ (tBol 0 true).ctx.asyncs = [] ∧ (tBol 0 false).ctx.legStart = false :=
  ⟨by decide +kernel, by decide, by decide +kernel, rfl, rfl, rfl⟩

theorem wit_yield : tS.ctx.st = .active ∧ tS.lockedCtx = none ∧ (∀ n, (tS.quay.ctx n).st ≠ .waiting) ∧ tS.crewHeld tS.ctx.crew = false :=
  ⟨rfl, rfl, by decide +kernel, rfl⟩

/-- A queue entry of a slot word. -/
def tEntry (k : Slot) (w : Nat) : QEntry := { what := .slot k w }

/-- A context at pc 0 whose first line of code holds a literal bundle. -/
def tCode (l : BitVec 512) : State := tCtx { tAct with lines := [(0, l)] }

/-- Whether the next bundle is the given one, or takes the given fault. -/
def tNextBundle (s : State) (f : Except FaultCode (BitVec 384) → Bool) (lit : Bool) : Bool :=
  match s.nextBundle with
  | some (r, l) => f r && l == lit
  | none => false

theorem nextBundleOf {s : State} {r : Except FaultCode (BitVec 384)} {lit : Bool}
    (h : tNextBundle s (fun x => match x, r with
      | .ok a, .ok b => decide (a = b)
      | .error a, .error b => decide (a = b)
      | _, _ => false) lit = true) : s.nextBundle = some (r, lit) := by
  unfold tNextBundle at h
  cases hs : s.nextBundle with
  | none => simp [hs] at h
  | some x =>
    obtain ⟨a, l⟩ := x
    cases a <;> cases r <;> simp_all

theorem wit_dispatch : (tCode 0xFFFE).ctx.queue = [] ∧ (tCode 0xFFFE).ctx.effects = [] ∧ (tCode 0xFFFE).ctx.seqEnd = false
    ∧ (tCode 0xFFFE).lockedCtx = none ∧ (tCode 0xFFFE).ctx.asyncs = [] ∧ (tCode 0xFFFE).crewHeld (tCode 0xFFFE).ctx.crew = false
    ∧ ((tCode 0xFFFE).settle 1).nextBundle = some (.ok 0, true)
    ∧ (∃ b, decodeBundle 0 = .ok b ∧ (!b.hdr.mark && !b.hdr.vj) = true) :=
  ⟨rfl, rfl, rfl, rfl, rfl, rfl, nextBundleOf (by decide +kernel), okEx (by decide +kernel)⟩

theorem wit_dispatch_faults : ((tCode 0xFFFF).settle 1).nextBundle = some (.error .codeReserved, false)
    ∧ decodeSlots 0x10000000000 [.s0, .s1] = .error .reservedField ∧ (tCtx { tAct with seqEnd := true }).ctx.seqEnd = true :=
  ⟨nextBundleOf (by decide +kernel), errorOf (by decide +kernel), rfl⟩

theorem wit_next_bundle : (tCode 0xFFFE).ctx.held = [] ∧ (tCode 0xFFFE).ctx.missingLine = none
    ∧ (tCode 0xFFFE).ctx.codeWord 0 = some 0xFFFE ∧ (tCode 0xFFFE).ctx.dictMismatch = false
    ∧ (tCode 4095).ctx.codeWord 0 = some 4095 ∧ 4095 < 16 * winSize (tCode 4095).ctx.win 0
    ∧ (tCode 0xFFEF).ctx.codeWord 0 = some 0xFFEF ∧ ¬ 0xFFEF < 16 * winSize (tCode 0xFFEF).ctx.win 0
    ∧ (tCode 0xFFF0).ctx.codeWord 0 = some 0xFFF0 := by decide +kernel

theorem wit_code_fetch : (∃ m, ({ tS with pages := [{ slice := 0, va := 0, size := 0, pa := 0x20000, r := true, w := false, x := true }] } : State).translate
      0 (1023 * 64) = some m ∧ m.x = true ∧ mapPhys m (1023 * 64) = 0x20000 + 1023 * 64)
    ∧ tS.memType (0x20000 + 1023 * 64) = .ok .hbm ∧ tS.translate 0 0 = none ∧ tS.ctx.queue = [] ∧ tS.ctx.missingLine = some 0
    ∧ tS.ctx.seqEnd = false ∧ tS.dispatchHeld = false ∧ (tCtx { tAct with queue := [tEntry .s0 0] }).ctx.queue ≠ [] :=
  ⟨⟨_, rfl, rfl, by decide⟩, okOf (by decide +kernel), rfl, rfl, by decide +kernel, rfl, by decide +kernel, nofun⟩

/-- A fused jetty with some members in lock-step. -/
def tFused (m r : BitVec 4) : State := { tS with jetties := [(0, { fused := true, members := m, rejoin := r })] }

/-- The same at quay 1, quay 0's context running. -/
def tRejoin : State := { tFused 0 0 with here := 1 }

theorem wit_lockstep : (tFused 0 14).jetty.fused = true ∧ ((tFused 0 14).jetty.rejoin ||| BitVec.twoPow 4 ((tFused 0 14).here % 4)) = 15
    ∧ ((List.range 4).all ((tFused 0 14).setJetty { (tFused 0 14).jetty with rejoin := 15 }).rejoinHigh) = true
    ∧ ((List.range 4).all (tRejoin.setJetty { tRejoin.jetty with rejoin := 2 }).rejoinHigh) = false
    ∧ (tRejoin.jetty.rejoin ||| BitVec.twoPow 4 (tRejoin.here % 4)) = 2 ∧ tS.jetty.fused = false := by
  decide +kernel

theorem wit_watchdog : (tCtx { tAct with wdlimit := 8, wdCount := 8, queue := [tEntry .s0 0] }).ctx.st = .active
    ∧ (if (tCtx { tAct with wdlimit := 8, wdCount := 8 }).ctx.wdlimit = 0 then 2 ^ 32 else (8 : Nat)) ≤ 8
    ∧ (tCtx { tAct with wdlimit := 0, wdCount := 8 }).ctx.wdlimit = 0 := ⟨rfl, by decide +kernel, rfl⟩

theorem wit_async : (tCtx { tAct with asyncs := [⟨.misaligned, 1, 0, 0, 8⟩], lines := [(0, 0)] }).ctx.queue = []
    ∧ (tCtx { tAct with lines := [(0, 0)] }).ctx.seqEnd = false
    ∧ ((tCtx { tAct with lines := [(0, 0)] }).ctx.codeWord 0).isSome = true := ⟨rfl, rfl, by decide +kernel⟩

/-- A PARKED context 7 and an image pool. -/
def tParked (n : Nat) : State :=
  { tOn { tQuay with ctxs := tQuay.ctxs.set 7 { st := .parked, waitOn := .page 0 1 7 } } with
    host := { power := true, imgCount := BitVec.ofNat 64 n } }

theorem wit_image : ((tParked 1).quay.ctx 7).st = .parked ∧ ((tParked 1).quay.ctx 7).streamsBusy = false
    ∧ (tParked 1).jetty.fused = false ∧ (tParked 1).freeImage (tParked 1).imageCount = some 0
    ∧ (tParked 1).waitEnded ((tParked 1).quay.ctx 7).waitOn = false ∧ ((tParked 1).quay.ctx 7).pend = []
    ∧ ((tParked 1).quay.ctx 7).effects = [] ∧ ((tParked 1).quay.ctx 7).asyncs = [] ∧ (tParked 0).freeImage (tParked 0).imageCount = none := by
  decide +kernel

/-- A header wait of 4,096 cycles on bollard 1, whose one command is held behind tidemark 4 in HALT. -/
def tTimedOut : State :=
  tOn { tQuay with
    cycle := 4096, tms := tQuay.tms.set 4 { st := .halt }
    ctxs := tQuay.ctxs.set 0 { tAct with queue := [{ what := .event (.headerWait 1 1) }], waitCycles := 1 }
    dock := [{ seq := 0, op := .cp { bol := 1 }, phase := .waiting, entered := true, chases := [4], recA := some { ext := [1, 0, 0, 0] }
               recB := some { ext := [1, 0, 0, 0], tm := 4 } }] }

theorem wit_timed_out : tTimedOut.timedOut = some (0, 0, 4) ∧ tS.timedOut = none := by decide +kernel

theorem wit_commands : (Instr.cp { da := 1, db := 2, tm := 3 }).wf = true ∧ EIssues tS { da := 1, db := 2, tm := 3 } false false 0 0 1
    ∧ (Instr.pgpin { pa := 1, pb := 2 }).wf = true ∧ EIssues tS { pa := 1, pb := 2 } true true 5 (BitVec.allOnes 64) 1 :=
  ⟨by decide +kernel, ⟨⟨by decide +kernel, rfl, rfl⟩, by decide, by decide +kernel⟩, by decide +kernel,
    ⟨⟨by decide +kernel, okOf (by decide +kernel), okOf (by decide +kernel)⟩, by decide, by decide +kernel⟩⟩

/-- A dock whose 32 places are taken. -/
def tFull : State := tOn { tQuay with ctxs := tQuay.ctxs.set 0 tAct, dock := List.replicate 32 tCp }

theorem wit_dock_full : EIssues tFull { da := 1, db := 2, tm := 3 } false false 0 0 0 ∧ tFull.quay.dockUsed + 1 > 32 :=
  ⟨⟨⟨by decide +kernel, rfl, rfl⟩, by decide +kernel, by decide +kernel⟩, by decide +kernel⟩

/-- e1 holds the word of an MMA that reads e2. -/
def tFollow : State := tCtx { tAct with regs := { tRegs with e := tRegs.e.set 1 0x1304000161404020 } }

theorem wit_follow_on : (Instr.cpmm { da := 1, db := 2, tm := 3, pb := 1 }).wf = true
    ∧ EIssues tFollow { da := 1, db := 2, tm := 3, pb := 1 } false true 0 0x1304000161404020 2
    ∧ EReads tFollow true (Fin.ofNat 16 (EFields.ofWord 0x1304000161404020).pa) (BitVec.allOnes 64)
    ∧ EReads tFollow true (Fin.ofNat 16 (EFields.ofWord 0x1304000161404020).pb) 0 :=
  ⟨by decide +kernel, ⟨⟨by decide +kernel, rfl, okOf (by decide +kernel)⟩, by decide, by decide +kernel⟩, okOf (by decide +kernel), okOf (by decide +kernel)⟩

theorem wit_futw : (Instr.futw { pa := 1, func := 2 }).wf = true ∧ EIssues tS { pa := 1, func := 2 } true false 5 0 1
    ∧ tS.ctx.futw = none ∧ NewSeq tS ∧ tS.ctx.streamsBusy = false :=
  ⟨by decide +kernel, ⟨⟨by decide +kernel, okOf (by decide +kernel), rfl⟩, by decide, by decide +kernel⟩, rfl, by unfold NewSeq; decide +kernel, by decide +kernel⟩

theorem wit_futw_ends : ((tOn { tQuay with
      ctxs := tQuay.ctxs.set 0 { tAct with futw := some (0, 2) }
      dock := [{ seq := 0, op := .futw { pa := 1, func := 2 }, owner := 0 }] }).cmd? 0).map DockEntry.seq = some 0 := by
  decide +kernel

theorem wit_at_issue : tS.ctx.st ≠ .dormant ∧ NewSeq tS ∧ (Instr.cldis { func := 63 }).wf = true ∧ EIssues tS { func := 63 } false false 0 0 1
    ∧ (Instr.rtesetClr { func := 15 }).wf = true ∧ (Instr.rteset { func := 7, pa := 4, pb := 4 }).wf = true
    ∧ EIssues tS { func := 7, pa := 4, pb := 4 } true true 0 0 1
    ∧ tS.landingCheck tS.ctx.slice (0 &&& ~~~(BitVec.twoPow 64 38)) 0 = none ∧ field (BitVec.twoPow 64 39).toNat 39 25 ≠ 0
    ∧ (tS.landingCheck tS.ctx.slice (0x7FC0 &&& ~~~(BitVec.twoPow 64 38)) 0).isSome = true :=
  ⟨nofun, by unfold NewSeq; decide +kernel, by decide +kernel, ⟨⟨by decide +kernel, rfl, rfl⟩, by decide, by decide +kernel⟩, by decide +kernel, by decide +kernel,
    ⟨⟨by decide +kernel, okOf (by decide +kernel), okOf (by decide +kernel)⟩, by decide, by decide +kernel⟩, by decide +kernel, by decide +kernel,
    by decide +kernel⟩

theorem wit_tstat : (Instr.tstat { pa := 4 }).wf = true ∧ EIssues tS { pa := 4 } true false 0 0 1
    ∧ (0 : Word).toNat < 2 ^ 22 ∧ 2 ^ 22 ≤ (0x400000 : Word).toNat ∧ (0x3FFFFF : Word).toNat % 64 ≠ 0 :=
  ⟨by decide +kernel, ⟨⟨by decide +kernel, okOf (by decide +kernel), rfl⟩, by decide, by decide +kernel⟩, by decide, by decide, by decide⟩

/-- e1 holds the word of a CP; a bollard may be bound to a crew or hold two attached commands. -/
def tArm (b : Bollard) : State :=
  tOn { tQuay with
    bols := tQuay.bols.set 63 b
    ctxs := tQuay.ctxs.set 0 { tAct with regs := { tRegs with e := tRegs.e.set 1 0x00000120C0A00001 } } }

theorem wit_clarm : (Instr.clarm { pa := 1, func := 63 }).wf = true ∧ EIssues (tArm {}) { pa := 1, func := 63 } true false 0x00000120C0A00001 0 1
    ∧ slotInstr .e 0x00000120C0A00001 = some (.cp { da := 5, db := 6, tm := 9 }) ∧ (vget {} (tArm {}).quay.bols 63).armed.length < 2
    ∧ (vget {} (tArm { crew := some (1, 0) }).quay.bols 63).crew ≠ none ∧ slotInstr .e 0x70 = none :=
  ⟨by decide +kernel, ⟨⟨by decide +kernel, okOf (by decide +kernel), rfl⟩, by decide, by decide +kernel⟩, by decide +kernel, by decide +kernel,
    by decide +kernel, by decide +kernel⟩

/-- A record of one byte in berth 1, in the record cache. -/
def tBerthRaw : BitVec 512 := BitVec.ofNat 512 (2 ^ 63 + 1 + 2 ^ 76 + 255 * 2 ^ 96 + 255 * 2 ^ 104 + 65535 * 2 ^ 112 + 2 ^ 128)

/-- e1 asks for 255 slots of 1 byte; berth 1 may be placed, over tidemark 63. -/
def tBerth (b : Berth) : State :=
  tOn { tQuay with
    rcache := [(0x2FC040, tBerthRaw)], berths := tQuay.berths.set 1 b
    ctxs := tQuay.ctxs.set 0 { tAct with regs := { tRegs with e := tRegs.e.set 1 0x00FF000100000000 } } }

theorem wit_berth : (Instr.bthset { da := 1, pa := 1, tm := 63 }).wf = true
    ∧ EIssues (tBerth {}) { da := 1, pa := 1, tm := 63 } true false 0x00FF000100000000 0 1
    ∧ (tBerth {}).quay.rcache.find? (fun x => x.1 == (tBerth {}).recordOff ((tBerth {}).newEntry .watchdog 0 0 0) 1) = some (0x2FC040, tBerthRaw)
    ∧ (Layout.ofBits tBerthRaw).check = none ∧ (Layout.ofBits tBerthRaw).berth? = some 1 ∧ field (Layout.ofBits tBerthRaw).base 4 59 = 0
    ∧ 0 ≤ (Layout.ofBits tBerthRaw).lowest
    ∧ (Layout.ofBits tBerthRaw).highest ≤ slotBytes 0x00FF000100000000
    ∧ ((tBerth {}).berthAt 1).placed = false ∧ ((tBerth {}).tm 63).takable = true :=
  ⟨by decide +kernel, ⟨⟨by decide +kernel, okOf (by decide +kernel), rfl⟩, by decide, by decide +kernel⟩, by decide +kernel, by decide +kernel,
    by decide +kernel, by decide +kernel, by decide +kernel, by decide +kernel, by decide +kernel, by decide +kernel⟩

theorem wit_berth_release : ((tBerth { placed := true, tail := 63, h := 1, w := 1, c := 1 }).berthAt 1).tail = 63
    ∧ (Instr.bthsetRel { da := 1, tm := 63, func := 1 }).wf = true
    ∧ ¬((tBerth { placed := true, tail := 63, w := 1 }).berthAt 1).h = ((tBerth { placed := true, tail := 63, w := 1 }).berthAt 1).w := by
  decide +kernel

theorem wit_berth_pop : (Instr.bthpop { func := 0x01 }).wf = true
    ∧ ((tBerth { placed := true, tail := 63, tile := 1, w := 1 }).berthAt 1).h = ((tBerth { placed := true, tile := 1 }).berthAt 1).c
    ∧ ((tBerth { placed := true, tail := 63, tile := 1, w := 1 }).tm 63).value < (0 + 1) * 1 := by decide +kernel

theorem wit_system : ({ tS with system := true } : State).system = true ∧ (tS.tm 63).fol = false ∧ tS.writerOf tS.here 63 = none
    ∧ ((tCtx { st := .faulted }).quay.ctx 0).st = .faulted ∧ (tS.quay.ctx 0).st ≠ .faulted
    ∧ ((tDock { tCp with phase := .halted }).cmd? 0) = some { tCp with phase := .halted } := by decide +kernel

theorem wit_halted_writer : (tDock { tCp with phase := .halted, taken := true }).cmd? 0 = some { tCp with phase := .halted, taken := true }
    ∧ tCp.opc ≠ 0x07 ∧ tCp.opc ≠ 0x18 := by decide +kernel

/-- A pool of one page whose header stands in HBM. -/
def tPool : State :=
  { tCtx { tAct with regs := { tRegs with e := tRegs.e.set 1 0 } } with
    system := true
    pools := (Vector.replicate 64 {}).set 0 { en := true, npages := 1, hdr := 0x10000, data := 0x20000, tokb := 64 }
    pages := [{ slice := 0, va := 0x10000, size := 0, pa := 0x20000, r := true, w := true, x := false }] }

theorem wit_reclaim : tPool.ctx.getWord .e (.e 1) = .ok 0 ∧ (tPool.pool 0).en = true ∧ 0 < (tPool.pool 0).npages
    ∧ (∃ h, tPool.hdr 0 0 = .ok h ∧ !h.free = true) ∧ (∃ ls, tPool.poolLocs 0 true 0x10000 32 = .ok ls ∧ (ls.length == 32) = true) :=
  ⟨okOf (by decide +kernel), by decide +kernel, by decide +kernel, okEx (by decide +kernel), okEx (by decide +kernel)⟩

theorem wit_cmd_fault : (tDock tCp).cmd? 0 = some tCp ∧ tCp.seq = 0
    ∧ (tDock { tCp with taken := true }).cmd? 0 = some { tCp with taken := true } ∧ (tDock tCp).strandAt tCp.owner = .ctx 0 0 ∧ (tDock { tCp with owner := 9 }).strandAt 9 = .gone := by decide +kernel

theorem wit_dock_entry : (tDock { seq := 0, op := .tmrst { tm := 3 }, spSize := 0x300000 }).cmd? 0
      = some { seq := 0, op := .tmrst { tm := 3 }, spSize := 0x300000 }
    ∧ (∃ u, dockChecks { seq := 0, op := .tmrst { tm := 3 }, spSize := 0x300000 } (tDock { seq := 0, op := .tmrst { tm := 3 }, spSize := 0x300000 })
        = .ok u ∧ (u.cmd? 0).any (fun e => e.rank == 0) = true) := by
  exact ⟨by decide +kernel, okEx (by decide +kernel)⟩

/-- A waiting command whose dock entry has passed. -/
def tWait (i : Instr) : DockEntry :=
  { seq := 0, op := i, phase := .waiting, entered := true, owner := 0, ctx := 0, rank := 1, spSize := 0x300000 }

/-- The dock with it, tidemark 63 as given. -/
def tGo (d : DockEntry) (m : Tidemark) : State :=
  { tOn { tQuay with ctxs := tQuay.ctxs.set 0 tAct, dock := [d], nextSeq := 1, tms := tQuay.tms.set 63 m } with
    slices := (Vector.replicate 16 {}).set 0 { gtmCount := 16 } }

/-- Whether its turn has come. -/
def tMayGo (d : DockEntry) (m : Tidemark) : Bool :=
  (tGo d m).cmd? 0 == some d && (tGo d m).mayStart d && !(tGo d m).olderFirst d && d.chases.isEmpty

theorem wit_tm_commands : tMayGo (tWait (.tmrst { tm := 63 })) {} = true ∧ tMayGo (tWait (.tmglbPub { tm := 63 })) {} = true
    ∧ tMayGo (tWait (.tmglbFol { tm := 63 })) {} = true ∧ tMayGo (tWait (.tmglbUnb { tm := 63 })) { pub := true } = true
    ∧ tMayGo (tWait (.tmsetAdv { tm := 63 })) {} = true ∧ tMayGo (tWait (.tmq { tm := 63 })) {} = true
    ∧ (tGo (tWait (.tmglbPub { tm := 63 })) {}).gtmOf 0 0 = true ∧ ((tGo (tWait (.tmrst { tm := 63 })) {}).tm 63).takable = true := by
  decide +kernel

theorem wit_table_commands : tMayGo (tWait (.acz { func := 31 })) {} = true ∧ tMayGo (tWait (.tinv { func := 0x5F })) {} = true
    ∧ tMayGo (tWait (.tspl { func := 31 })) {} = true ∧ tMayGo (tWait (.clstat { func := 63 })) {} = true := by decide +kernel

theorem wit_snapshot_writes : (∃ u, (tGo (tWait (.tmq { tm := 63 })) {}).writeAt (tWait (.tmq { tm := 63 })).reacher true false 0 32
      ((tGo (tWait (.tmq { tm := 63 })) {}).tm 63).bytes = .ok u)
    ∧ ∃ u, (tGo (tWait (.clstat { func := 63 })) {}).writeAt (tWait (.clstat { func := 63 })).reacher true false 0 64
      ((tGo (tWait (.clstat { func := 63 })) {}).slot 63).snapshot = .ok u :=
  ⟨(okEx (p := fun _ => true) (by decide +kernel)).imp fun _ h => h.1, (okEx (p := fun _ => true) (by decide +kernel)).imp fun _ h => h.1⟩

/-- Four bytes in scratchpad, one after another. -/
def tBytes (base tm : Nat) : Layout := { base := base, sp := true, ext := [4, 0, 0, 0], stride := [1, 0, 0, 0], tm := tm }

/-- A copy of four bytes under tidemark 63. -/
def tCopy (p : Phase) (taken : Bool) : DockEntry :=
  { tWait (.cp { da := 1, db := 2, tm := 63 }) with phase := p, taken := taken, recA := some (tBytes 64 0xFF), recB := some (tBytes 0 0xFF) }

theorem wit_copy_starts : tMayGo (tCopy .waiting false) {} = true
    ∧ (tGo (tCopy .waiting false) {}).allCovered (craneNeed (tCopy .waiting false) 0) = .ok true
    ∧ ((tGo (tCopy .waiting false) {}).tm 63).takable = true ∧ ((tGo (tCopy .waiting false) { st := .run }).tm 63).takable = false
    ∧ (∀ e ∈ (tGo (tCopy .waiting false) {}).quay.dock, 63 ∉ e.chases) :=
  ⟨by decide +kernel, okOf (by decide +kernel), by decide +kernel, by decide +kernel, by decide +kernel⟩

/-- A copy that chases a tidemark: one that has written nothing, or one that is abandoned. -/
def tChase : DockEntry := { tCopy .waiting false with recB := some (tBytes 0 63) }

theorem wit_copy_waits : (tGo tChase { st := .run, endv := 4, layout := some (tBytes 0 0xFF) }).allCovered (craneNeed tChase 0) = .ok false
    ∧ (tGo tChase { st := .abandon }).allCovered (craneNeed tChase 0) = .error .frontierAbandoned :=
  ⟨okOf (by decide +kernel), errorOf (by decide +kernel)⟩

/-- A copy that waits on tidemark 63, with its cycle counts. -/
def tHeld (ph : Phase) : DockEntry := { tChase with phase := ph, chases := [63], op := .cp { da := 1, db := 2, tm := 62 } }

def tHeldAt (ph : Phase) (cyc : Word) (st : TmState) : State :=
  tOn { tQuay with ctxs := tQuay.ctxs.set 0 tAct, dock := [tHeld ph], nextSeq := 1, cycle := cyc, tms := tQuay.tms.set 63 { st := st } }

theorem wit_halt_wait : (tHeldAt .running 4097 .halt).cmd? 0 = some (tHeld .running)
    ∧ (tHeldAt .running 4097 .halt).waitsFor 0 (tHeld .running) = some (0, 63) ∧ (tHeld .running).opc ≠ 0x51
    ∧ (tHeld .running).waited + 4096 < (tHeldAt .running 4097 .halt).quay.cycle.toNat := by decide +kernel

theorem wit_walks : (tHeld .waiting).walkAt = some 4096
    ∧ (tHeldAt .waiting 4096 .run).cycleWalk 0 0 8 [(0, tHeld .waiting)] (0, tHeld .waiting) = .returned
    ∧ ((tHeldAt .waiting 4096 .run).waitsFor 0 (tHeld .waiting)).isSome = true := by decide +kernel

/-- Two copies that chase each other's tidemark. -/
def tRing (n : Nat) (own src : Fin 64) : DockEntry :=
  { tWait (.cp { da := 1, db := 2, tm := own }) with
    seq := n, phase := .running, taken := true, chases := [src.val], recA := some (tBytes 64 0xFF), recB := some (tBytes 0 src.val) }

def tCycle : State :=
  tOn { tQuay with
    dock := [tRing 0 62 63, tRing 1 63 62], nextSeq := 2, cycle := 4096
    tms := tQuay.tms.set 63 { st := .run, endv := 4, layout := some (tBytes 0 0xFF), writer := some (.command 1) }
      |>.set 62 { st := .run, endv := 4, layout := some (tBytes 0 0xFF), writer := some (.command 0) } }

theorem wit_cycle : tCycle.cycleWalk 0 1 8 [(0, tRing 1 63 62)] (0, tRing 1 63 62) = .cycle [(0, tRing 0 62 63), (0, tRing 1 63 62)]
    ∧ youngest [(0, tRing 0 62 63), (0, tRing 1 63 62)] = some (0, tRing 1 63 62) ∧ (tCycle.cmd? 1).isSome = true := by
  decide +kernel

theorem wit_copy_beats : (tGo (tCopy .running true) { st := .run, endv := 4 }).cmd? 0 = some (tCopy .running true)
    ∧ (tGo (tCopy .running true) { st := .run, endv := 4 }).coveredRun (craneNeed (tCopy .running true)) 0
        ((tGo (tCopy .running true) { st := .run, endv := 4 }).craneBeat (tCopy .running true) 0) = .ok 4
    ∧ (tGo (tCopy .running true) { st := .run, endv := 4 }).sourceRun (tCopy .running true) 0 4 = ([0, 0, 0, 0], none)
    ∧ ((tGo (tCopy .running true) { st := .run, endv := 4 }).writeRun (tCopy .running true) 0 [0, 0, 0, 0]).2 = (4, none)
    ∧ 0 + 4 = (tBytes 64 0xFF).count :=
  ⟨by decide +kernel, okOf (by decide +kernel), by decide +kernel, by decide +kernel, by decide +kernel⟩

/-- An INT8 operand tile in scratchpad, its K extent innermost. -/
def tTile (base rows : Nat) : Layout :=
  { base := base, sp := true, rank := 2, perm := 1, ext := [128, rows, 0, 0], stride := [1, 128, 0, 0] }

/-- An MMA of one K tile of INT8. -/
def tMma (group : Nat) : DockEntry :=
  { tWait (.mma { pa := 2, da := 10, db := 11 }) with
    phase := .running, pa := 1, group := group, recA := some (tTile 0 128), recB := some (tTile 0x4000 96) }

theorem wit_mma_groups : (tMma 3).ktile < (tMma 3).nk ∧ (tMma 3).group < 4
    ∧ (tGo (tMma 3) {}).allCovered ((tGo (tMma 3) {}).groupNeed (tMma 3) 0 3) = .ok true :=
  ⟨by decide +kernel, by decide, okOf (by decide +kernel)⟩

theorem mapM_ok {ε α β : Type} {f : α → Except ε β} {l : List α} (h : ∀ x ∈ l, ∃ y, f x = .ok y) : ∃ ys, l.mapM f = .ok ys := by
  induction l with
  | nil => exact ⟨[], rfl⟩
  | cons a t ih =>
    obtain ⟨y, hy⟩ := h a (by simp)
    obtain ⟨ys, hs⟩ := ih fun x hx => h x (by simp [hx])
    exact ⟨y :: ys, by simp [List.mapM_cons, hy, hs]; rfl⟩

theorem tTile_place (base rows k r : Nat) (_h : base < 2 ^ 22) : (tTile base rows).place [k, r] = (((base + k + 128 * r : Nat) : Int), 0) := by
  simp [Layout.place, Layout.offset, Layout.start, Layout.isE2m1, Layout.isNbp, tTile, List.range_succ, Layout.step]
  omega

theorem tTile_read (s : State) (base rows k r : Nat) (h : base + k + 128 * r < 0x300000) :
    ∃ v, s.readPlace (tMma 4).reacher (tTile base rows) ((tTile base rows).place [k, r]) = .ok v := by
  rw [tTile_place base rows k r (by omega)]
  have h1 : (tTile base rows).elemBytes = 1 := by
    simp [Layout.elemBytes, Layout.isNbp, Layout.isE2m1, Layout.elemBits, tTile]; rfl
  have h2 : (tMma 4).reacher = ⟨0, 0, 0x300000⟩ := rfl
  unfold State.readPlace State.elemLocs State.reach
  simp only [h1, h2]
  have h3 : ¬ ((((base + k + 128 * r : Nat) : Int) < 0 || ((base + k + 128 * r : Nat) : Int) + (1 : Nat) > (Nat.min 0x300000 spBytes : Nat)) = true) := by
    simp [spBytes]; omega
  have h4 : ((base + k + 128 * r : Nat) : Int) % (1 : Nat) = 0 := by omega
  have h5 : (tTile base rows).isNbp = false := rfl
  have h6 : (tTile base rows).sp = true := rfl
  simp only [h5, h6, h3, h4]
  exact ⟨_, rfl⟩

theorem tMma_feed (s : State) (isA : Bool) : ∃ xs, s.feed (tMma 4) isA 0 = .ok xs := by
  refine mapM_ok fun r hr => ?_
  have hr : r < 128 := by
    have := List.mem_range.1 hr
    cases isA <;> simp [opRows] at this <;> omega
  have hs : s.scaleRow (tMma 4) isA 0 r = .ok (List.replicate 128 (.fin false 1 0)) := by cases isA <;> rfl
  have hi : s.rowIndices (tMma 4) isA 0 r = .ok ((List.range 128).map some) := by cases isA <;> rfl
  have hf : ∃ v, s.fedRow (tMma 4) isA 0 r = .ok v := by
    have he : (tMma 4).expands isA = false := by cases isA <;> rfl
    unfold State.fedRow
    simp only [he, hi]
    refine mapM_ok fun k hk => ?_
    obtain ⟨k, hk', rfl⟩ := List.mem_map.1 hk
    have hk : k < 128 := List.mem_range.1 hk'
    have ho : s.opAt (tMma 4) isA 0 k r = ((tMma 4).operand isA, 0, [k, r]) := by
      cases isA <;> simp [State.opAt, Layout.berth?, DockEntry.operand, tMma, tWait, tTile]
    have hv : ∃ v, s.readPlace (tMma 4).reacher ((tMma 4).operand isA) (((tMma 4).operand isA).place [k, r]) = .ok v := by
      cases isA
      · exact tTile_read s 0x4000 96 k r (by omega)
      · exact tTile_read s 0 128 k r (by omega)
    obtain ⟨v, hv⟩ := hv
    simp [State.opRead, DockEntry.tileOf, he, ho, hv, Except.map]
  obtain ⟨v, hv⟩ := hf
  rw [hv, hs]
  exact ⟨_, rfl⟩

theorem wit_mma_retires : (tMma 4).group = 4 ∧ (∃ as, (tGo (tMma 4) {}).feed (tMma 4) true 0 = .ok as)
    ∧ ∃ bs, (tGo (tMma 4) {}).feed (tMma 4) false 0 = .ok bs := ⟨rfl, tMma_feed _ true, tMma_feed _ false⟩

/-- An EPI of four words of bank 0 into scratchpad, as INT8. -/
def tEpi : DockEntry :=
  { tWait (.epi { da := 20, tm := 63 }) with phase := .running, taken := true, recA := some { tBytes 64 0xFF with rank := 2, perm := 1, ext := [4, 2, 0, 0], stride := [1, 4, 0, 0] } }

theorem wit_epi : tEpi.route = none ∧ (tGo tEpi { st := .run }).coveredRun (epiNeed tEpi) 0 4 = .ok 4
    ∧ ((tGo tEpi { st := .run }).epiRun tEpi 0 4).2 = none ∧ ((tGo tEpi { st := .run }).epiRun tEpi 0 4).1.length = 4
    ∧ ((tGo tEpi { st := .run }).writeRun tEpi 0 (((tGo tEpi { st := .run }).epiRun tEpi 0 4).1.map Prod.fst)).2 = (4, none) :=
  ⟨rfl, okOf (by decide +kernel), by decide +kernel, by decide +kernel, by decide +kernel⟩

theorem wit_integer_sums : (List.replicate 128 (List.replicate 4 (1 : Int))).length = 128
    ∧ (∀ a ∈ List.replicate 128 (List.replicate 4 (1 : Int)), a.length = 4 * 1) ∧ sparseWf 0 ({} : Bank).words = true := by
  decide +kernel

/-- A bound read stream and a write stream that has accepted an element, over 256-byte elements of scratchpad. -/
def tReadStream : Stream := { bound := true, count := 2, layout := { sp := true, ext := [512, 0, 0, 0], stride := [1, 0, 0, 0] } }

theorem wit_read_stream : (∃ v, (tStream tReadStream).streamFetch 0 tReadStream 0 = .ok v ∧ (v == 0) = true)
    ∧ (tStream tReadStream).bindHalted 0 0 = false ∧ 0 + 0 < tReadStream.count := ⟨okEx (by decide +kernel), by decide +kernel, by decide⟩

/-- The command that bound stream 0, halted. -/
def tUnbinding : State :=
  { tStream tReadStream with quays := [(0, { (tStream tReadStream).quay with
      dock := [{ tWait (.sbind {}) with phase := .halted, performed := true }] })] }

theorem wit_halted_stream : tUnbinding.bindHalted 0 0 = true
    ∧ (∃ d, tUnbinding.binder 0 0 = some d) := ⟨by decide +kernel, Option.isSome_iff_exists.mp (by decide +kernel)⟩

theorem wit_write_stream : ∃ ls, (tStream { tReadStream with write := true, out := [(0, 7, 1)] }).streamBytes
    ((tStream tReadStream).quay.ctx 0).reacher { tReadStream with write := true, out := [(0, 7, 1)] }
    (0 * ({ tReadStream with write := true, out := [(0, 7, 1)] } : Stream).per) tReadStream.per = .ok ls ∧ (ls.length == 256) = true :=
  okEx (by decide +kernel)

theorem wit_followers : ({ fol := true, fdev := 0 } : Tidemark).fol = true ∧ (tTm { fol := true, fdev := 0 }).devId = 0
    ∧ (sparseGet ({} : GlobalMark) (tTm { fol := true, fdev := 0 }).gtms 0).st ≠ .abandon ∧ ({ fol := true, fdev := 1 } : Tidemark).fdev ≠ 0
    ∧ (∀ e ∈ (tTm { fol := true, fdev := 0 }).quay.dock, 63 ∉ e.chases) := by decide +kernel

/-- An attached CP that has a firing pending. -/
def tAttach : Attach :=
  { op := .cp { da := 1, db := 2, tm := 3 }, once := true, ctx := 0, pc := 0, pa := 0, pb := 0, pending := 1, born := 0, seed := 0
    crew := none, slice := 0, spBase := 0, spSize := 0x300000, strand := 0 }

theorem wit_firing : nextArmed [tAttach] = some tAttach ∧ nextArmed [{ tAttach with pending := 0 }] = none
    ∧ (tArm { armed := [tAttach] }).quay.dockUsed < 32 ∧ tFull.quay.dockUsed = 32 := by decide +kernel

/-- A running PGPIN of one table entry, which names page 0 of pool 0. -/
def tKv : DockEntry := { tWait (.pgpin { pa := 1, pb := 2 }) with phase := .running, words := [2 ^ 32 + 2 ^ 48, 0] }

/-- It alone in the dock, its pool enabled; reached in the cycle `t`. -/
def tPin (t : Nat) : State := { tPool with quays := (tGo { tKv with arrive := t } {}).quays }

theorem wit_kv : tKv.isKv = true ∧ (tPin 6).kvTurn (tPin 6).here { tKv with arrive := 6 } = true ∧ (tPin 7).arrived { tKv with arrive := 7 } = false
    ∧ (tPin 0).strandAt tKv.owner = .ctx 0 0 ∧ (tPin 0).allCovered (kvNeed tKv) = .ok true
    ∧ (∃ u, kvStep tKv (tPin 0) = .ok u ∧ (u.here == 0 && decide (u.strandAt tKv.owner = .ctx 0 0)) = true)
    ∧ kvStep tKv (tGo tKv {}) = .error (.fault .permission, noIndex) :=
  ⟨by decide +kernel, by decide +kernel, by decide +kernel, by decide +kernel, okOf (by decide +kernel), okEx (by decide +kernel),
    errorOf (by decide +kernel)⟩

/-- An issued PGUNP of the descriptor at offset 0, whose one table entry stands at offset 64. -/
def tKvIssued (e : Nat) : State :=
  { tPool with quays := [(0, { tQuay with ctxs := tQuay.ctxs.set 0 tAct, dock := [{ tKv with phase := .issued, entered := false, words := [] }], nextSeq := 1
                                          sp := (byteCells 0 (leBytes 8 (64 + 2 ^ 32 + 2 ^ 48)) ++ byteCells 64 (leBytes 4 e)).filter fun c => c.2 != 0 })] }

def tKvTable (e : Nat) : Bool :=
  match dockChecks { tKv with phase := .issued, entered := false, words := [] } (tKvIssued e) with
  | .ok u => match kvTable { tKv with phase := .issued, entered := false, words := [] } u with
    | .ok _ => decide (e = 0)
    | .error x => decide (x = (.fault .pageState, 0))
  | .error _ => false

theorem wit_kv_table : tKvTable 0 = true ∧ tKvTable (2 ^ 31) = true := by decide +kernel

theorem wit_pool_waits : ({ tPool with pools := (Vector.replicate 64 {}).set 0 { npages := 1, hdr := 0x10000 }, host := { tPool.host with hbmReady := 0 } } : State).threadPages 0 0 1
    = .error (.wait, noIndex) := errorOf (by decide +kernel)

theorem wit_pool : (tS.pool 63).en = false ∧ ∃ u, (tS.putPool 63 { tS.pool 63 with en := true }).threadPages 63 0 (tS.pool 63).npages = .ok u :=
  ⟨by decide +kernel, (okEx (p := fun _ => true) (by decide +kernel)).imp fun _ h => h.1⟩

/-- An all-gather of 8 bytes over the devices 0 and 1, whose CLGO runs. -/
def tSlot : CollSlot :=
  { assigned := true, st := .active, ownDone := false, seq := 0, active := [0]
    desc := BitVec.ofNat 1024 (1 + 2 * 2 ^ 16 + 8 * 2 ^ 64 + 0xFC * 2 ^ 192 + 0xFF * 2 ^ 224 + 2 ^ 392)
    da := { base := 0x10000, ext := [8, 0, 0, 0], stride := [1, 0, 0, 0] }, db := { base := 0x10040, ext := [4, 0, 0, 0], stride := [1, 0, 0, 0] }
    fork := [{ recv := 1, id := ⟨0, 0, 0⟩ }] }

def tColl (x : CollSlot) : State :=
  { tOn { tQuay with dock := [{ tWait (.clgo { func := 63 }) with phase := .running }] } with
    pages := [{ slice := 0, va := 0x10000, size := 0, pa := 0x20000, r := true, w := true, x := false }]
    slots := (Vector.replicate 64 {}).set 63 x, members := 3, ports := (Vector.replicate 18 {}).set 0 { st := .up, lanes := 4 } }

theorem wit_coll_send : (tColl tSlot).maySend ((tColl tSlot).slot 63) = true ∧ (tColl tSlot).linkOk 1 = true
    ∧ ({ tColl tSlot with ports := Vector.replicate 18 {} } : State).linkOk 1 = false ∧ tSlot.isRs = false ∧ tSlot.participants 0 = [1]
    ∧ (∃ o, (tColl tSlot).forkData tSlot { recv := 1, id := ⟨0, 0, 0⟩ } = .ok o ∧ o.isSome = true)
    ∧ (tColl { tSlot with ownDone := true }).maySend { tSlot with ownDone := true } = false :=
  ⟨by decide +kernel, by decide +kernel, by decide +kernel, by decide +kernel, by decide +kernel, okEx (by decide +kernel), by decide +kernel⟩

theorem wit_coll_coded : partner [(2, 5, ⟨0, 0, 0⟩, 3), (1, 6, ⟨0, 0, 1⟩, 4)] { recv := 1, id := ⟨0, 0, 0⟩ } [{ recv := 2, id := ⟨0, 0, 1⟩ }]
    = some ({ recv := 2, id := ⟨0, 0, 1⟩ }, (6, 4), (5, 3)) := by decide +kernel

theorem wit_coll_local : (tColl { tSlot with localLeft := [{ recv := 0, id := ⟨0, 0, 0⟩ }] }).collLive ((tColl { tSlot with localLeft := [{ recv := 0, id := ⟨0, 0, 0⟩ }] }).slot 63) = true
    ∧ (∃ o, (tColl tSlot).collRead tSlot (tSlot.elems 0 (tSlot.meshRank 0) ⟨0, 0, 0⟩ tSlot.db.perm tSlot.db.dir) = .ok o ∧ (o == some [0, 0, 0, 0]) = true)
    ∧ ((tColl tSlot).collPutAll tSlot ((tSlot.elems 0 (tSlot.meshRank 0) ⟨0, 0, 0⟩ tSlot.db.perm tSlot.db.dir).zip [0, 0, 0, 0])).2.2 = none :=
  ⟨by decide +kernel, okEx (by decide +kernel), by decide +kernel⟩

/-- A packet of a generation, from device 1; a coded one that names a block no manifest holds. -/
def tPacket (g : Nat) (c : Option CodedDesc) : CollPacket :=
  { slot := 63, gen := g, src := 1, srcQuay := 0, id := ⟨0, 1, 0⟩, data := [], coded := c, perm := 0, dir := 0 }

def tCoded : CodedDesc := { a := ⟨0, 1, 0⟩, b := ⟨0, 1, 1⟩, recvA := 0, recvB := 2, lenA := 3, lenB := 3, idxA := 0, genA := 0, idxB := 0, genB := 0 }

/-- It waits in a lighter. -/
def tLighter (x : CollSlot) : State := { tColl x with lighters := [tPacket 0 (some tCoded)] }

/-- The own manifest at 0x10100 names the block of the other receiver, whose bytes stand at 0x10200. -/
def tManifest : State :=
  { tLighter { tSlot with manifest := some 0x10100 } with
    mem := byteCells 0x20100 (leBytes 8 (blockNum ⟨0, 1, 1⟩) ++ leBytes 8 0x10200 ++ leBytes 4 0 ++ leBytes 12 1) |>.filter fun c => c.2 != 0 }

theorem wit_lighter : (tLighter tSlot).lighters[0]? = some (tPacket 0 (some tCoded)) ∧ (tLighter tSlot).collLive ((tLighter tSlot).slot 63) = true
    ∧ (tLighter tSlot).decodeCoded tSlot (tPacket 0 (some tCoded)) tCoded = none ∧ ((tLighter tSlot).ownId (tPacket 0 (some tCoded))) = ⟨0, 1, 0⟩
    ∧ tSlot.got = [] ∧ (tPacket 0 (some tCoded)).gen = tSlot.gen ∧ tSlot.nofb = false ∧ tSlot.isRs = false
    ∧ ((torusDir 0 1).isSome = true ∧ (tLighter tSlot).linkOk 1 = true) ∧ ({ tLighter tSlot with ports := Vector.replicate 18 {} } : State).linkOk 1 = false := by decide +kernel

theorem readRange_ok (s : State) (e : Reacher) (n : Nat) (a : Int)
    (h : ∀ i : Nat, i < n → ∃ l, s.reach e false false (a + i) 1 1 false = .ok l) : ∃ bs, s.readRange e a n = .ok bs := by
  induction n generalizing a with
  | zero => exact ⟨[], rfl⟩
  | succ n ih =>
    obtain ⟨l, hl⟩ := h 0 (by omega)
    obtain ⟨bs, hb⟩ := ih (a + 1) fun i hi => by
      have := h (i + 1) (by omega)
      rwa [show a + 1 + (i : Int) = a + ((i + 1 : Nat) : Int) by omega]
    rw [show a + ((0 : Nat) : Int) = a by omega] at hl
    exact ⟨l.map s.readLoc ++ bs, by simp only [State.readRange, hl, hb]⟩

theorem tManifest_reach : ∀ j k : Fin 64, (match tManifest.reach (tManifest.slot 63).reacher false false (((0x10200 : Nat) : Int) + ((64 * j.val + k.val : Nat) : Int)) 1 1 false with
    | .ok _ => true
    | .error _ => false) = true := by decide +kernel

theorem decodeCoded_ok {s : State} {x : CollSlot} {p : CollPacket} {c : CodedDesc} {addr : Nat} {bs : List Byte}
    (h1 : (c.recvA == s.devId) = true) (h2 : s.manifestEntry x c.idxB = some (c.b, addr, c.genB, true))
    (h3 : s.readRange x.reacher (addr : Int) 4096 = .ok bs) : ∃ q, s.decodeCoded x p c = some q := by
  simp [State.decodeCoded, h1, h2, h3]

/-- The own block of the coded packet is decoded. -/
theorem wit_lighter_decodes : ∃ p, tManifest.decodeCoded (tManifest.slot 63) (tPacket 0 (some tCoded)) tCoded = some p := by
  obtain ⟨bs, hb⟩ := readRange_ok tManifest (tManifest.slot 63).reacher 4096 (0x10200 : Nat) fun i hi => by
    have := tManifest_reach ⟨i / 64, by omega⟩ ⟨i % 64, by omega⟩
    simp only [Nat.div_add_mod] at this
    split at this
    · exact ⟨_, ‹_›⟩
    · cases this
  exact decodeCoded_ok (by decide +kernel) (by decide +kernel : _ = some (tCoded.b, 0x10200, tCoded.genB, true)) hb

theorem wit_lighter_writes :
    let v := (tManifest.freeLighter 0).updSlot 63 fun x => { x with decoded := x.decoded + 1 }
    (v.collPutAll (v.slot 63) (((v.slot 63).elems 0 ((v.slot 63).meshRank 0) ⟨0, 1, 0⟩ 0 0).zip [0, 0, 0, 0])).2.2 = none := by decide +kernel

/-- A link on whose data channel a packet is withheld. -/
def tWithheld (x : CollSlot) : State := { tColl x with ports := (tColl x).ports.set 17 { withheld := [.msg (.data (tPacket 1 none))] } }

theorem wit_packets : ((tColl { tSlot with assigned := false }).slot 63).assigned = false ∧ ((tColl tSlot).ports.get 17).withheld = []
    ∧ ((tWithheld tSlot).ports.get 17).withheld ≠ [] ∧ tSlot.gen ∈ tSlot.active ∧ tSlot.ownDone = false
    ∧ (tColl tSlot).collCmd tSlot ≠ none ∧ (tColl { tSlot with seq := 1 }).collCmd { tSlot with seq := 1 } = none
    ∧ (tColl { tSlot with owed := some .permission }).collLive { tSlot with owed := some .permission } = false
    ∧ (tColl tSlot).collLive tSlot = true ∧ tSlot.held = [] ∧ (tColl tSlot).lighters.length < 64
    ∧ 64 ≤ ({ tColl tSlot with lighters := List.replicate 64 (tPacket 0 (some tCoded)) } : State).lighters.length
    ∧ (0 + 1) % 16 = 1 ∧ 1 ∉ tSlot.active ∧ tSlot.gen < 16
    ∧ tSlot.nextHeld < 16 ∧ 16 ≤ ({ tSlot with held := List.replicate 16 (tPacket 1 none) } : CollSlot).nextHeld
    ∧ (∀ m : Fin 64, (tWithheld { tSlot with ownDone := true }).collLive ((tWithheld { tSlot with ownDone := true }).slot m.val) = false) := by
  decide +kernel

theorem wit_messages : 1 ∈ tSlot.participants 0 ∧ (tColl tSlot).collLive ((tColl tSlot).slot 63) = true
    ∧ ({ tSlot with ownDone := true } : CollSlot).ownDone = true ∧ (∀ d ∈ tSlot.participants 0, d = 1 ∨ (0, d) ∈ tSlot.reports)
    ∧ (0 : Nat) ∈ tSlot.active ∧ (0 : Word) ≠ descDigest tSlot.desc
    ∧ (∃ b ∈ ({ tSlot with unacked := [{ recv := 1, id := ⟨0, 0, 0⟩ }] } : CollSlot).unacked, b.recv = 1 ∧ b.id = ⟨0, 0, 0⟩) := by
  decide +kernel

theorem flitCrc_lt (low : Nat) (d : BitVec 512) : flitCrc low d < 2 ^ 32 := BitVec.isLt _

theorem header_parts (low : Nat) (d : BitVec 512) (h : low < 2 ^ 32) :
    (BitVec.ofNat 64 (flitCrc low d * 2 ^ 32 + low)).toNat / 2 ^ 32 = flitCrc low d
    ∧ (BitVec.ofNat 64 (flitCrc low d * 2 ^ 32 + low)).toNat % 2 ^ 32 = low := by
  have := flitCrc_lt low d
  rw [BitVec.toNat_ofNat, Nat.mod_eq_of_lt (by omega)]
  omega

theorem taken (low : Nat) (d : BitVec 512) (h : low < 2 ^ 32) (ht : low % 16 ≤ 10) :
    flitOk (BitVec.ofNat 64 (flitCrc low d * 2 ^ 32 + low)) d = true := by
  obtain ⟨h1, h2⟩ := header_parts low d h
  have h3 : (BitVec.ofNat 64 (flitCrc low d * 2 ^ 32 + low)).toNat % 16 = low % 16 := by omega
  unfold flitOk
  rw [h1, h2, h3]
  simp [ht]

theorem header_last (low : Nat) (d : BitVec 512) (h : low < 2 ^ 32) :
    hdrLast (BitVec.ofNat 64 (flitCrc low d * 2 ^ 32 + low)) = decide (low / 2 ^ 18 % 2 = 1) := by
  obtain ⟨-, h2⟩ := header_parts low d h
  unfold hdrLast
  rw [← BitVec.testBit_toNat, Nat.testBit_eq_decide_div_mod_eq]
  congr 1
  simp only [eq_iff_iff]
  omega

/-- The low half of a header: a flit of a block from device 1 to device 2, the last one or not. -/
def tLow (last : Bool) : Nat := last.toNat * 2 ^ 18 + 2 * 2 ^ 16 + 2 ^ 10 + 2 * 2 ^ 4 + 3

def tFlit (last : Bool) : Word := BitVec.ofNat 64 (flitCrc (tLow last) 0 * 2 ^ 32 + tLow last)

theorem tFlit_low (last : Bool) : (tFlit last).toNat % 2 ^ 32 = tLow last := (header_parts _ _ (by cases last <;> decide)).2

theorem wit_flits_taken : flitOk (tFlit false) 0 = true ∧ hdrLast (tFlit false) = false ∧ flitOk (tFlit true) 0 = true ∧ hdrLast (tFlit true) = true :=
  ⟨taken _ _ (by decide) (by decide), header_last _ _ (by decide), taken _ _ (by decide) (by decide), header_last _ _ (by decide)⟩

theorem reserved_flit (h : Word) (d : BitVec 512) (ht : 10 < h.toNat % 16) : flitOk h d = false := by
  unfold flitOk
  rw [decide_eq_false (p := h.toNat % 16 ≤ 10) (by omega), Bool.and_false]

theorem wit_flit_fails : flitOk 15 0 = false := reserved_flit _ _ (by decide)

theorem flit_fields (w : Word) (h : w.toNat % 2 ^ 32 = tLow true) :
    onDataChannel [(w, 0)] = true ∧ hdrType w ≠ 4 ∧ hdrDst w = 2 ∧ hdrSrc w = 1 := by
  simp only [tLow, Bool.toNat_true] at h
  simp only [onDataChannel, hdrVc, hdrType, hdrDst, hdrSrc, field, beq_iff_eq, ne_eq]
  omega

theorem wit_flits : onDataChannel [(tFlit true, 0)] = true ∧ hdrType (tFlit true) ≠ 4 ∧ hdrDst (tFlit true) = 2 ∧ hdrSrc (tFlit true) = 1 :=
  flit_fields _ (tFlit_low true)

theorem wit_flit_routes : ((tWithheld tSlot).ports.get 17).withheld ≠ [] ∧ ((tColl tSlot).ports.get 17).received = [] ∧ (tColl tSlot).devId = 0
    ∧ (tColl tSlot).portOf 1 2 0 = some 0 ∧ (tColl tSlot).portOf 1 4 0 = none
    ∧ (torusDir (tColl tSlot).devId 1).isSome = true ∧ (tColl tSlot).linkOk 1 = true := by decide +kernel

theorem wit_ports_used : (tColl tSlot).portUsed 0 = true ∧ (vget {} (tColl tSlot).ports 0).inFlight = []
    ∧ tS.portUsed 17 = false := by decide +kernel

/-- Two ports of a trunk, the first with a flit that its neighbour has not taken. -/
def tTrunk : State := { tS with ports := Vector.replicate 18 {} |>.set 0 { st := .up, lanes := 4, inFlight := [(0, 0)] } |>.set 1 { st := .up, lanes := 4 } }

theorem wit_ports_down : (tTrunk.ports.get 0).inFlight ≠ []
    ∧ (tTrunk.putPort 0 { (tTrunk.ports.get 0) with st := .down }).trunkPorts (0 / 3) = [1] := by decide +kernel

/-- A reduction of another device, in whose record number 7 stands. -/
def tRed (seq : Nat) : Reduction :=
  { dev := 1, quay := 3, seq := seq, ctx := 0, cmd := none, op := .add, ty := .u64, elems := [(0x20000, 5)] }

theorem wit_reductions_apply :
    let e : FilterEntry := { stack := tS.filterStack (tRed 7).elems, dev := 1, quay := 3, floor := 0, applied := [7] }
    (tRed 7).dev ≠ tS.devId ∧ e.has 7 = true ∧ e.has 8 = false
    ∧ (({ tS with filter := [e] } : State).filter.find? fun e => e.stack == tS.filterStack (tRed 7).elems && e.dev == 1 && e.quay == 3) = some e
    ∧ (tRed 7).det = false ∧ tS.redAhead (tRed 7) = false
    ∧ ({ tS with wire := [.memoryReductionApply { tRed 7 with det := true }] } : State).redAhead { tRed 8 with det := true } = true
    ∧ (tRed 7).elems ≠ [] ∧ (∀ u ∈ (tS.quayAt 3).unacked, u.1 ≠ 7) := by decide +kernel

/-- A load of peer memory on its way. -/
def tPeerLoad : State :=
  { tColl tSlot with quays := (tOn { tQuay with cycle := 65536, ctxs := tQuay.ctxs.set 0 { tAct with loads :=
      [{ reg := .x 1, form := .zext 1, locs := [.phys 0x4040000000000], bidx := 0, age := 0 }] } }).quays }

theorem wit_peer_loads : tPeerLoad.quay.unacked[0]? = none ∧ tPeerLoad.peerLoads[0 - tPeerLoad.quay.unacked.length]? = some (0, 0)
    ∧ (((tPeerLoad.quay.ctx 0).loads[0]?).map OLoad.sentAt) = some 0 ∧ tPeerLoad.peersOf [0x4040000000000] = [1]
    ∧ (torusDir tPeerLoad.devId 1).isSome = true ∧ tPeerLoad.linkOk 1 = true ∧ tPeerLoad.devId = 0
    ∧ ((tPeerLoad.quay.ctx 0).loads.map fun l => physAddrs l.locs) = [[0x4040000000000]] := by decide +kernel

theorem wit_replay : ((tOn { tQuay with cycle := 65536, unacked := [(7, 9, tRed 7)] }).quay.unacked[0]?).isSome = true
    ∧ (tRed 7).sentAt + 65536 ≤ (tOn { tQuay with cycle := 65536 }).quay.cycle.toNat := by decide +kernel

/-- A placed crew on quay 0 with 64 KiB of scratchpad, one strand. -/
def tCrew : Crew :=
  { id := 1, queue := 0, ship := 0, index := 0, slice := 0, lr := {}, quays := [0], ctxs := [[0]], spBases := [0], spSize := 0x10000
    window := [0], dictBase := [0], dictUnits := 1, live := 1, startedAt := 0, placedAt := 0 }

def tCrewed (c : Crew) (x : Context) : State := { tCtx x with crews := [c], nextCrew := 2 }

/-- A landing of one byte at an offset. -/
def tLanding (addr : Nat) : Landing :=
  { kind := .cph, quay := 0, srcDev := 0, srcQuay := 1, srcSeq := 0, srcCtx := 0, srcPc := 0, srcCrew := 1, slice := 0
    addr := addr, extent := 1, swizzled := false, cells := [(0, 9)], upto := 1, last := true, handler := some 5, bytes := 1
    x3 := 1, x4 := 2, x5 := 3, ident := (1, 0) }

/-- The same landing begun: with its crew, or refused. -/
def tInbound (c : Option (Nat × Nat)) : Inbound := { kind := .cph, dev := 0, quay := 1, seq := 0, attempt := 0, crew := c }

theorem wit_landings : tS.receiver (tLanding 0xFFFF) = none ∧ (tCrewed tCrew tAct).receiver (tLanding 0xFFFF) = some tCrew
    ∧ (tCrewed tCrew tAct).landings = [] ∧ (tCrewed tCrew tAct).earlierBeat (tLanding 0xFFFF) = false
    ∧ ({ tCrewed tCrew tAct with wire := [.arrivalLanding { tLanding 0 with upto := 0 }] } : State).earlierBeat (tLanding 0) = true
    ∧ (tLanding 0xFFFF).low ≤ 0xFFFF ∧ 0xFFFF + 1 ≤ tCrew.spSize ∧ tCrew.spSize < 0x10000 + 1 ∧ 0 < ({ tLanding 0 with low := 1 } : Landing).low
    ∧ (tCrewed tCrew tAct).sound = true ∧ (tInbound (some (1, 0))).of (tLanding 0) = true ∧ (tInbound none).crew = none
    ∧ tCrew.pos (tLanding 0).quay = 0 ∧ tCrew.quays.getD 0 1 = 0 ∧ (tInbound (some (1, 0))).next (tLanding 0) = none
    ∧ (tInbound (some (1, 0))).next { tLanding 0 with last := false } ≠ none
    ∧ ({ tLanding 0 with via := some 17, kind := .routed } : Landing).via = some 17 ∧ (tCrewed tCrew tAct).crew 1 = some tCrew
    ∧ (tCrewed { tCrew with st := .saved } tAct).receiver (tLanding 0) = some { tCrew with st := .saved } := by decide +kernel

theorem wit_arrivals : (tCrewed tCrew { reservedBy := some 1 }).crew 1 = some tCrew
    ∧ (tCrewed tCrew { reservedBy := some 1 }).dormantOf 0 1 = some 0 ∧ (tCrewed tCrew tAct).dormantOf 0 1 = none
    ∧ (tCrewed tCrew {}).quay.deque.length < 1024 ∧ tCrew.st = .placed
    ∧ ({ tCtx { st := .active, born := 4 } with crews := [] } : State).strandAt 4 = .ctx 0 0
    ∧ ((tOn { tQuay with arrivals := [landingArrival (tLanding 0) 1 5] }).quay.arrivals[0]?).map Arrival.crew = some 1
    ∧ ({ tDock tCp with here := 0 } : State).cmd? 0 = some tCp ∧ tCp.phase ≠ .halted := by decide +kernel

/-- A device with one operation on its way to a counter that holds `v`. -/
def tDep (o : DepOp) (v : BitVec 32) (w : List (Nat × DepWaiter)) : State :=
  { tDock { tWait (.depdec { pa := 1 }) with phase := .running } with depOps := [o], counters := [(5, v)], depWait := w }

theorem wit_counters : (tDep (.set 0 0 0 5 3) 1 []).depOps[0]? = some (.set 0 0 0 5 3)
    ∧ (sparseGet 0 ({ tDep (.dec 0 0 0 5) 1 [] with counters := [] } : State).counters 5 : BitVec 32) = 0
    ∧ (sparseGet 0 (tDep (.dec 0 0 0 5) 2 []).counters 5 : BitVec 32) = 2
    ∧ (sparseGet 0 (tDep (.dec 0 0 0 5) 1 [(5, .record 0 false {})]).counters (4096 * 0 + 5 % 4096) : BitVec 32) = 1
    ∧ (tDep (.dec 0 0 0 5) 1 [(5, .record 0 false {})]).depWait = [(4096 * 0 + 5 % 4096, .record 0 false {})]
    ∧ (∃ d, (tDep (.dec 0 0 0 5) 1 []).cmd? 0 = some d) :=
  ⟨by decide +kernel, by decide +kernel, by decide +kernel, by decide +kernel, by decide +kernel, _, rfl⟩

/-- A device with one operation on its way to a future at 0x10000. -/
def tFut (o : FutOp) (m : List Host.Cell) : State :=
  { tDock { tWait (.futr { pa := 1, pb := 2 }) with phase := .running } with
    futOps := [o], mem := m
    pages := [{ slice := 0, va := 0x10000, size := 0, pa := 0x20000, r := true, w := true, x := false }] }

theorem wit_futures : (tFut (.resolve 0 0 0 0x10000 7) []).futRunning 0 0 = true
    ∧ (∃ ls, (tFut (.resolve 0 0 0 0x10000 7) []).futureLocs 0 0x10000 = .ok ls
        ∧ (ofLeBytes (ls.map (tFut (.resolve 0 0 0 0x10000 7) []).readLoc) == 0) = true)
    ∧ (∃ ls, (tFut (.wait 0 0 0 0x10000 {}) [(0x20000, 1)]).futureLocs 0 0x10000 = .ok ls
        ∧ (ofLeBytes (ls.map (tFut (.wait 0 0 0 0x10000 {}) [(0x20000, 1)]).readLoc) % 2 == 1) = true) :=
  ⟨by decide +kernel, okEx (by decide +kernel), okEx (by decide +kernel)⟩

/-- A launch record of one crew of one context of one quay, 64 KiB of scratchpad, no counter, its image at 0x10000. -/
def tLaunch : LaunchRec :=
  { raw := BitVec.ofNat 1024 (1 + 2 ^ 32 + 64 * 2 ^ 48 + 0x10000 * 2 ^ 192 + 2 ^ 256 + 2 ^ 272 + 0xFFFF * 2 ^ 416), addr := 0x20000 }

/-- A queue of 16 records at 0x20000 in host memory, of which one is published, on a slice of jetty 0. -/
def tQueue (q : Queue) : State :=
  { tOn { tQuay with ready := true } with
    queues := (Vector.replicate 64 {}).set 63 q, slices := (Vector.replicate 16 {}).set 0 { jetties := 1, turn := 63 }
    gtms := [(1, { value := 1 })]
    mem := (byteCells 0x20000 (leBytes 128 tLaunch.raw.toNat)).filter fun c => c.2 != 0
    pages := [{ slice := 0, va := 0x10000, size := 0, pa := 0x10000, r := true, w := true, x := true }
      , { slice := 0, va := 0x20000, size := 0, pa := 0x20000, r := true, w := true, x := false }] }

def tRing16 : Queue := { ring := 0x20000, size := 16, doorbell := 1, weight := 1 }

theorem wit_queues : tRing16.weight ≠ 0 ∧ tRing16.window.length < 16 ∧ (tQueue tRing16).pagerHolds (.ring 63) = false
    ∧ ((BitVec.ofNat 32 (sparseGet ({} : GlobalMark) (tQueue tRing16).gtms (1 % 4096)).value) - tRing16.head).toNat = 1
    ∧ tRing16.size.toNat < ((BitVec.ofNat 32 18) - (1 : BitVec 32)).toNat
    ∧ (∃ raw, (tQueue tRing16).readAt (sliceReacher 0) false false ((0x20000 + 128 * (0 % 16) : Nat) : Int) 128 128 = .ok raw
        ∧ (BitVec.ofNat 1024 raw == tLaunch.raw) = true)
    ∧ (tQueue tRing16).recordFaultOf 0 tLaunch = none ∧ (tQueue tRing16).recordFaultOf 0 {} = some .reservedField :=
  ⟨by decide, by decide, by decide +kernel, by decide +kernel, by decide +kernel, okEx (by decide +kernel), by decide +kernel,
    by decide +kernel⟩

def tShip : Shipment := { key := 0, lr := tLaunch, index := 0 }

theorem wit_placement : (tQueue { tRing16 with shipments := [tShip] }).ship? 63 0 = some tShip ∧ 0 < tShip.lr.ncrew ∧ 1 ≤ 1
    ∧ (tQueue { tRing16 with shipments := [tShip] }).triggered 0 tShip 0 = true
    ∧ (tQueue { tRing16 with shipments := [tShip] }).givesWay 63 = false
    ∧ (tQueue { tRing16 with shipments := [tShip] }).lowestFirst 63 tShip 0 = true
    ∧ ((tQueue { tRing16 with shipments := [tShip] }).canPlace 63 tLaunch 0).isSome = true
    ∧ (tQueue { tRing16 with shipments := [tShip] }).crewOf 63 0 0 = none
    ∧ (tQueue { tRing16 with shipments := [tShip] }).pagerHolds (.placement 63 0 0) = false := by decide +kernel

/-- Its crew holds its reservation and waits for its image. -/
def tWaiting : State := { tQueue { tRing16 with shipments := [tShip] } with crews := [{ tCrew with queue := 63, st := .waiting, lr := tLaunch }], nextCrew := 2 }

theorem wit_waiting_crew : tWaiting.crewOf 63 0 0 = some { tCrew with queue := 63, st := .waiting, lr := tLaunch }
    ∧ tWaiting.bandAllows 63 tLaunch [0] = true
    ∧ ({ tWaiting with host := { tWaiting.host with actBand0 := 2, actBand1 := 2 } } : State).bandAllows 63 { raw := 3 * 2 ^ 11 } [0] = false := by decide +kernel

theorem wit_image_read : ∃ im, (tQueue { tRing16 with shipments := [tShip] }).readImage 0 tLaunch = .ok im ∧ (im.sp.length == 0) = true :=
  okEx (by decide +kernel)

theorem wit_retire : (tCrewed { tCrew with live := 0 } {}).crew 1 = some { tCrew with live := 0 }
    ∧ (tCrewed { tCrew with live := 0 } {}).retires { tCrew with live := 0 } = true ∧ tCrew.lr.cbmp = 0 ∧ tCrew.lr.byJetty = false
    ∧ (tCrewed tCrew {}).retires tCrew = false ∧ tS.crew 1 = none := by decide +kernel

theorem wit_preempt : (tCrewed { tCrew with stop := true } {}).canStop { tCrew with stop := true } = true ∧ tCrew.stop = false
    ∧ ({ tCrewed tCrew {} with system := true } : State).system = true ∧ tCrew.st = .placed
    ∧ (tCrewed { tCrew with stop := true } {}).crew 1 = some { tCrew with stop := true }
    ∧ (tCrewed { tCrew with st := .saved } {}).givesWay 0 = false
    ∧ (tCrewed { tCrew with st := .saved } {}).canStop { tCrew with st := .saved } = false
    ∧ (tCrewed { tCrew with restoring := true } {}).crew 1 = some { tCrew with restoring := true } ∧ tCrew.restoring = false := by decide +kernel

theorem wit_restore : ((tQueue tRing16).canPlace 63 tLaunch 0).isSome = true ∧ ((tCrewed { tCrew with st := .saved } {}).canPlace 0 tLaunch 0) = none
    ∧ (tCrewed { tCrew with st := .saved } {}).crew 1 = some { tCrew with st := .saved } := by decide +kernel

/-- A record of crew 1 in the run deque of its quay, where context 0 is reserved and free. -/
def tPickup : State :=
  { tOn { tQuay with ctxs := tQuay.ctxs.set 0 { reservedBy := some 1 }, deque := [{ resume := 7, crew := 1, born := 1 }] } with
    crews := [tCrew], nextCrew := 2 }

theorem wit_pickup : tPickup.nextPickup = some (0, 0, { resume := 7, crew := 1, born := 1 }, tCrew, 0) ∧ tS.nextPickup = none
    ∧ ({ resume := 7, crew := 1, born := 1 } : Mooring).reserved = false ∧ ({ resume := 7, crew := 1, born := 1 } : Mooring).fr = false := by
  decide +kernel

theorem wit_quanta : ({ tQueue { tRing16 with shipments := [tShip] } with refTime := 5000 } : State).nextTurn 0 = some 63
    ∧ (tQueue { tRing16 with shipments := [tShip] }).queueBusy 63 = true ∧ (4999 : Nat) < 0 + 5000 * tRing16.weight
    ∧ (99999 : Nat) / 100000 = 0 ∧ (100000 : Nat) / 100000 ≠ 0 := by decide +kernel

/-- A fault of context 0 of quay 0 on page 1 of slice 0. -/
def tFault : PageFault := { slice := 0, page := 1, access := 1, waiter := .context 0 0, id := 7 }

theorem wit_pager : ({ tS with refTime := 2000, pager := { batch := [tFault], logSize := 16 } } : State).pager.batch = [tFault]
    ∧ (0 : Nat) + 2000 ≤ 2000 ∧ ((0 : Word) - 0).toNat < (16 : Word).toNat ∧ (16 : Word).toNat ≤ ((16 : Word) - 0).toNat
    ∧ (1 : Nat) / 2 ^ 14 = 2 / 2 ^ 14 ∧ (2 ^ 14 - 1) / 2 ^ 14 ≠ 2 ^ 14 / 2 ^ 14 := by decide +kernel

/-- A delivered range and its PARKED context. -/
def tRange : FaultRange := { ticket := 1, slice := 0, page := 1, pages := 1, waiters := 1, access := 1, faults := 1, time := 0, members := [tFault] }

def tAnswer : State :=
  { tCtx { st := .parked, waitOn := .page 0 1 7 } with pager := { delivered := [tRange], answerTicket := 1, nextTicket := 2 } }

theorem wit_answers : tAnswer.host.ucie = true ∧ tAnswer.host.fwok = true ∧ tAnswer.host.busy = false ∧ tAnswer.pager.delivered = [tRange]
    ∧ tRange.ticket = tAnswer.pager.answerTicket.toNat % 2 ^ 32 ∧ tRange.members = [tFault] ∧ tFault.waiter = .context 0 (0 : Fin 8).val
    ∧ tAnswer.images = [] ∧ tAnswer.crews = [] ∧ ((tAnswer.quayAt 0).ctx 0).st = .parked
    ∧ ((tAnswer.quayAt 0).ctx 0).waitOn = .page tFault.slice tFault.page tFault.id ∧ 1 < (2 : Word).toNat
    ∧ ((({ tAnswer with quays := (0, tAnswer.quay) :: [(1, { tQuay with ctxs := tQuay.ctxs.set 0 { waitOn := .page 0 1 8 } })] } : State).quayAt 1).ctx 0).waitOn
        = .page tFault.slice tFault.page 8 := by
  decide +kernel

theorem wit_host : tS.host.ucie = true ∧ tS.host.fwok = true ∧ tS.host.busy = false ∧ tS.host.havenSet = false
    ∧ ({ tS.host with havenSet := true } : HostRegs).havenSet = true ∧ (108 : Nat) + 5 < 114 ∧ (114 : Nat) < 115 := by decide +kernel

theorem wit_bring_up : ({} : HostRegs).power = false ∧ ({ ucie := true } : HostRegs).fwok = false ∧ ({ fetching := true } : HostRegs).fetching = true
    ∧ (tS.quayAt 319).ready = false ∧ (tS.quayAt 319).failed = false ∧ (({} : HostRegs).hbmReady ||| ({} : HostRegs).hbmFail).getLsbD 7 = false
    ∧ (114 : Nat) < 115 ∧ 115 ≤ (115 : Nat) := by decide +kernel

theorem wit_attestation : (1 : Word).getLsbD 0 = true ∧ 2 ^ 20 - 1 < 2 ^ 20 ∧ ({ busy := true } : HostRegs).busy = true
    ∧ tS.host.hbmReady = 0xFF ∧ 0xC000000000 - 1 + 1 ≤ 0xC000000000 := by decide +kernel

theorem wit_round_trip : (Instr.add { a := .reg 1, b := .reg 2 }).wf = true ∧ (Instr.add { a := .reg 1, b := .reg 2 }).slot? = some .s0
    ∧ 0x00001C407A01 < 2 ^ Slot.s0.width ∧ decodeSlot .s0 0x00001C407A01 = .ok (some (.add { g := .on true 2, d := 3, a := .reg 4, b := .reg 7 })) :=
  ⟨by decide +kernel, by decide +kernel, by decide +kernel, okOf (by decide +kernel)⟩

/-- A core's turn over the word of an ADD in the slot queues. -/
def tFetched : State := { State.reset.withFetchWord 48 0x00001C407A01 with agenda := [], refTime := 1 }

theorem wit_step : (State.reset.withFetchWord 48 0x00001C407A01).agenda = [{ quay := 0 }]
    ∧ (State.reset.withFetchWord 48 0x00001C407A01).host.power = true ∧ tFetched.ctx.st = .active ∧ tFetched.comingBack = false
    ∧ tFetched.settleOldest.ctx.wdCount < tFetched.settleOldest.ctx.wdMax ∧ tFetched.settleOldest.ctx.takesAsync = false
    ∧ tFetched.settleOldest.candidate = some (tFetched.ctx.entryOf .s0 0x00001C407A01)
    ∧ (tFetched.ctx.entryOf .s0 0x00001C407A01).what = .slot .s0 0x00001C407A01 ∧ (slotInstr .s0 0x00001C407A01).isSome = true
    ∧ turnInstr false .clockStretch = true ∧ tS.arrives .clockStretch = true := by decide +kernel

theorem wit_step_alone : tFetched.settleOldest.ctx.queue = [tFetched.ctx.entryOf .s0 0x00001C407A01] ∧ tFetched.settleOldest.ctx.ran = []
    ∧ tFetched.settleOldest.ctx.loads = [] ∧ tFetched.settleOldest.ctx.realigns = []
    ∧ (tFetched.ctx.entryOf .s0 0x00001C407A01).idx < tFetched.settleOldest.ctx.lastIdx := by decide +kernel

theorem wit_sound : State.reset.sound = true ∧ tIsNext (step State.reset) = true := by decide +kernel

/-! ### Streams as operands, waits for room, marks, and other conditions of the statements -/

/-- 256 reductions without an acknowledgement, and one more of the strand that waits for room. -/
def tNoRoom : State :=
  tOn { tQuay with
    ctxs := tQuay.ctxs.set 0 tAct, unacked := List.replicate 256 (7, 9, tRed 7)
    drained := [{ ctx := 0, kind := .reduce .add .u64 [(.phys 0x20000, 1)], bidx := 0, age := 0 }] }

theorem wit_no_room : tNoRoom.flushes = false ∧ tS.flushes = true ∧ MRuns tNoRoom { imm := 0x7F } ∧ tNoRoom.ctx.loads = []
    ∧ EOperands tNoRoom { da := 1, db := 2, tm := 3 } false false 0 0 :=
  ⟨by decide +kernel, by decide +kernel, rfl, rfl, by decide +kernel, rfl, rfl⟩

theorem wit_stat : tS.here < 320 ∧ tS.quay.pushes = [] := by decide +kernel

/-- VMOV from v28, of stream 0, into v1; into v28 from v2. -/
def tPop : VOp := { d := 1, a := .reg 28, ety := .fp32 }
def tPush : VOp := { d := 28, a := .reg 2, ety := .fp32 }

/-- A read stream at the last of two elements, bound by a command. -/
def tLast (b : List VWord) : State :=
  { tStream { tReadStream with seq := 1, buf := b } with quays := [(0, { (tStream { tReadStream with seq := 1, buf := b }).quay with
      dock := [{ tWait (.sbind {}) with phase := .running, performed := true }] })] }

theorem wit_stream_source : (tLast [7]).ctx.guardHolds (vSlot tPop) tPop.g = true ∧ (tLast [7]).tagReady tPop.tag = true
    ∧ streamOf tPop.second 28 = some 0 ∧ (tLast [7]).streamPending 0 = false ∧ ((tLast [7]).ctx.streams.get 0).bound = true
    ∧ ((tLast [7]).ctx.streams.get 0).inForce ≤ (tLast [7]).ctx.bidx ∧ 1 < ((tLast [7]).ctx.streams.get 0).count
    ∧ ((tLast [7]).ctx.streams.get 0).indirect = false ∧ tPop.mask = 0 ∧ (tLast [7]).ctx.maskOf false 0 = BitVec.allOnes 256
    ∧ tPop.nd = false ∧ vw tPop = 32 ∧ (tLast [7]).stream? false 1 = .ok none
    ∧ ((tLast [7]).binder 0 0).isSome = true ∧ 1 + 1 = ((tLast [7]).ctx.streams.get 0).count
    ∧ ((tLast []).streamFetch 0 ((tLast []).ctx.streams.get 0) 1).isOk = true :=
  ⟨rfl, by decide +kernel, rfl, rfl, rfl, by decide, by decide, rfl, rfl, by decide +kernel, rfl, by decide +kernel,
    okOf (by decide +kernel), by decide +kernel, by decide, by decide +kernel⟩

/-- A read stream beyond the scratchpad. -/
def tBeyond : State :=
  tStream { tReadStream with layout := { tReadStream.layout with base := 0x2FFFFF } }

theorem wit_stream_source_stops : (∃ h, tBeyond.streamFetch 0 (tBeyond.ctx.streams.get 0) 0 = .error h)
    ∧ (tBeyond.ctx.streams.get 0).buf = [] := by
  refine ⟨?_, rfl⟩
  have h : (tBeyond.streamFetch 0 (tBeyond.ctx.streams.get 0) 0).isOk = false := by decide +kernel
  cases hf : tBeyond.streamFetch 0 (tBeyond.ctx.streams.get 0) 0 with
  | error e => exact ⟨e, rfl⟩
  | ok v => simp [hf, Except.isOk, Except.toBool] at h

/-- A write stream with so many elements accepted. -/
def tSink (n : Nat) : State := tStream { tReadStream with write := true, count := 16, out := List.replicate n (0, 7, 1) }

theorem wit_stream_destination : (∃ v, (tSink 0).vSrc tPush tPush.a = .ok v) ∧ (tSink 0).srcStream tPush tPush.a = []
    ∧ streamOf tPush.second tPush.d = some 0 ∧ ((tSink 7).ctx.streams.get 0).out.length < 8
    ∧ 8 ≤ ((tSink 8).ctx.streams.get 0).out.length
    ∧ ((tSink 0).streamBytes (tSink 0).ctx.reacher ((tSink 0).ctx.streams.get 0) 0 ((tSink 0).ctx.streams.get 0).per).isOk = true :=
  ⟨⟨_, rfl⟩, by decide +kernel, rfl, by decide, by decide, by decide +kernel⟩

theorem wit_stream_misuse : ((tSink 0).ctx.streams.get 0).write = true ∧ (vUse (.vmov tPop)).a = .src ∧ (vUse (.vmov tPop)).d = .reg
    ∧ dstSecond (.vmov tPush) tPush = false ∧ ((tLast [7]).ctx.streams.get 0).write = false
    ∧ (tStream { bound := true, indirect := true, count := 2 }).ctx.streams.get 0 = { bound := true, indirect := true, count := 2 }
    ∧ (tStream { bound := true, seq := 2, count := 2 }).streamPending 0 = false ∧ (vUse (.vmov tPush)).b.isSrc 0 = false
    ∧ (vUse (.vmov tPush)).c = false ∧ (∃ v, (tLast [7]).vSrc tPush tPush.a = .ok v) :=
  ⟨rfl, rfl, rfl, rfl, rfl, by decide +kernel, rfl, rfl, rfl, ⟨_, rfl⟩⟩

theorem wit_streams_advance : ∃ t, exec (.vmov tPop) (tLast [7]) = .next t := nextOf (by decide +kernel)

/-- A header with MK, and one with MK and VJ. -/
theorem wit_marked_bundle : (∃ b, decodeBundle 0x2000 = .ok b ∧ b.hdr.mark = true) ∧ (tSink 1).ctx.streamsBusy = true
    ∧ tS.ctx.streamsBusy = false := ⟨okEx (by decide +kernel), by decide +kernel, by decide +kernel⟩

/-- Context 1 READY beside an ACTIVE context 0. -/
def tTwo : State := tOn { tQuay with ctxs := tQuay.ctxs.set 0 tAct |>.set 1 { tAct with st := .ready } }

theorem wit_yield_ready : (tTwo.quay.ctx (0 + 1)).st = .ready ∧ tTwo.crewHeld (tTwo.quay.ctx 1).crew = false ∧ tTwo.ctx.st = .active
    ∧ (∀ j : Fin 8, j ≠ 0 → j < 1 → ¬(tTwo.quay.ctx (0 + j)).st = .ready) ∧ (∀ k : Fin 8, k ≠ 0 → (tS.quay.ctx (0 + k)).st ≠ .ready) := by
  decide +kernel

theorem wit_header_unbound : (tCtx { tAct with loads := [tLoad] }).unbound = true ∧ tS.unbound = false ∧ tS.lockedCtx = none
    ∧ (∃ l ∈ [tLoad], ∀ q r i, l.form ≠ .tm q r i) := ⟨by decide +kernel, by decide +kernel, rfl, tLoad, by simp, nofun⟩

/-- Members 0 and 1 of a lock-step, of which quay 1's context has yet to retire an operation. -/
def tLocked : State :=
  { tS with
    quays := [(0, tS.quay), (1, { tS.quay with ctxs := tS.quay.ctxs.set 0 { tAct with queue := [{ what := .event (.headerWait 1 1) }] } })]
    jetties := [(0, { fused := true, members := 3 })] }

theorem wit_lockstep_waits : tLocked.lockedCtx = some 0 ∧ tLocked.othersReady = false ∧ tLocked.deciding = false := by decide +kernel

theorem wit_fetch_before_fault : (tCtx { tAct with asyncs := [⟨.misaligned, 1, 0, 0, 8⟩] }).ctx.fetched = false ∧ tS.frontHeld = false
    ∧ (tCtx { tAct with asyncs := [⟨.misaligned, 1, 0, 0, 8⟩] }).ctx.missingLine = some 0 ∧ tS.deciding = false := by decide +kernel

theorem wit_rejoin_born : (tCtx { tAct with born := 4 }).ctx.born ≠ vget 0 (tCtx { tAct with born := 4 }).jetty.fborn 0
    ∧ tS.ctx.born = vget 0 (tFused 0 14).jetty.fborn ((tFused 0 14).here % 4) := by decide +kernel

theorem wit_record_busy : (tCtx { tAct with loads := [tLoad] }).ctx.recordBusy = true ∧ tS.ctx.recordBusy = false
    ∧ (tCtx { tAct with futw := some (0, 2), loads := [tLoad] }).ctx.futw.isSome = true := by decide +kernel

/-- A PARKED context 7 and a pool whose base lies on a page in HBM. -/
def tPooled : State :=
  { tParked 1 with
    pages := [{ slice := 0, va := 0, size := 0, pa := 0x20000, r := true, w := true, x := false }]
    host := { (tParked 1).host with hbmReady := 0xFF } }

theorem wit_image_pool : tPooled.poolInHbm = true ∧ tPooled.host.hbmFail = 0 ∧ tPooled.host.hbmReady = 0xFF ∧ (tPooled.quay.ctx 7).loads = [] ∧ (tPooled.quay.ctx 7).xlates = []
    ∧ tPooled.freeImage tPooled.imageCount = some 0 ∧ tPooled.waitEnded (tPooled.quay.ctx 7).waitOn = false := by decide +kernel

theorem wit_cmd_fault_halts : (tGo (tCopy .running true) { st := .run, writer := some (.command 0) }).cmd? 0 = some (tCopy .running true)
    ∧ (tCopy .running true).instance? = false ∧ (tCopy .running true).taken = true ∧ (tCopy .running true).berth = none
    ∧ ((tGo (tCopy .running true) { st := .run, writer := some (.command 0) }).tm 63).writer = some (.command 0)
    ∧ ((tGo (tCopy .running true) { st := .run, writer := some (.command 0) }).tm 63).st = .run := by decide +kernel

/-- The strand's image. -/
def tImaged : State :=
  { tS with images := [{ no := 3, quay := 0, ctx := {}, mooring := { born := 9 }, waitOn := .nothing }] }

theorem wit_cmd_fault_in_image : tImaged.strandAt 9 = .image 3 ∧ (tImaged.images.map Image.no) = [3] := by decide +kernel

theorem wit_copy_refused : ((tGo (tCopy .waiting false) { fol := true }).tm 63).fol = true
    ∧ ((tGo (tCopy .waiting false) { pub := true, st := .done }).tm 63).pub = true
    ∧ ((tGo (tCopy .waiting false) { pub := true, st := .done }).tm 63).st = .done
    ∧ (∀ e ∈ (tGo (tCopy .waiting false) {}).quays, ∀ x ∈ e.2.dock, x.away ≠ some (0, 63)) := by decide +kernel

theorem wit_copy_beat_writer : (tCopy .running true).flight = [] ∧ (tGo (tCopy .running true) {}).isDet none = false
    ∧ (∀ i, (tGo (tCopy .running true) {}).strandAt (tCopy .running true).owner ≠ .image i) ∧ (tBytes 64 0xFF).isNbp = false := by
  refine ⟨rfl, rfl, ?_, by decide +kernel⟩
  have : (tGo (tCopy .running true) {}).strandAt (tCopy .running true).owner = .ctx 0 0 := by decide +kernel
  intro i; rw [this]; nofun

theorem wit_kv_step : ∃ u, kvStep tKv (((tPin 0).updCmd 0 fun e => { e with reqAt := none }).askFor tKv ((tPin 0).needAddrs tKv (kvElems tKv) false))
    = .ok u ∧ (u.here == 0 && decide (u.strandAt tKv.owner = .ctx 0 0)) = true := okEx (by decide +kernel)

theorem wit_two_flips : nextArmed [{ tAttach with first := 5 }, { tAttach with once := false, first := 4, pending := 2 }]
    = some { tAttach with once := false, first := 4, pending := 2 } := by decide +kernel

/-- The instance's DA lies on an unmapped page. -/
theorem wit_lighter_stops :
    let s := (tLighter { tSlot with da := { tSlot.da with base := 0x30000 } }).freeLighter 0
    (s.collPutAll (s.slot 63) (((s.slot 63).elems 0 ((s.slot 63).meshRank 0) ⟨0, 1, 0⟩ 0 0).zip [0, 0, 0, 0])).2.2.isSome = true := by
  decide +kernel

theorem wit_nack : ((tColl { tSlot with unacked := [{ recv := 1, id := ⟨0, 0, 0⟩ }] }).slot 63).unacked = [{ recv := 1, id := ⟨0, 0, 0⟩ }]
    ∧ (tColl tSlot).collLive tSlot = true ∧ (∃ o, (tColl tSlot).forkData tSlot ⟨1, ⟨0, 0, 0⟩, true⟩ = .ok o ∧ o.isSome = true)
    ∧ ({ tColl tSlot with ports := Vector.replicate 18 {} } : State).collLive tSlot = true :=
  ⟨by decide +kernel, by decide +kernel, okEx (by decide +kernel), by decide +kernel⟩

theorem wit_port_ready : ({ tColl tSlot with ports := Vector.replicate 18 { ready := true } } : State).portUsed 0 = true
    ∧ (({ tColl tSlot with ports := Vector.replicate 18 { ready := true } } : State).ports.get 0).ready = true
    ∧ ((tColl tSlot).ports.get 0).ready = false ∧ (tColl tSlot).portUsed 3 = false := by decide +kernel

/-- A request to device 1 without its answer. -/
def tAsked : State :=
  tOn { tQuay with cycle := 65536, requests := [{ asker := .unit, dev := 1, age := 0, sentAt := 0, msg := .memRead 0 0 0 [] }] }

theorem wit_request_replay : tAsked.quay.unacked[0]? = none ∧ tAsked.peerLoads[0]? = none ∧ (tAsked.quay.requests[0]?).isSome = true := by
  decide +kernel

theorem wit_placed_image : ∃ im, (((tQueue { tRing16 with shipments := [tShip] }).acquireBits 0 tLaunch).reserve
    (newCrew (tQueue { tRing16 with shipments := [tShip] }) 63 tShip 0 [⟨0, [0], 0, 0, 0⟩])).readImage 0 tLaunch = .ok im ∧ (im.sp.length == 0) = true :=
  okEx (by decide +kernel)

theorem wit_port_training : let s : State := { tColl tSlot with host := { tS.host with havenSet := true }, ports := Vector.replicate 18 {} }
    s.host.havenSet = true ∧ s.portUsed 0 = true ∧ (s.ports.get 0).ready = false ∧ (s.ports.get 0).failed = false := by decide +kernel

theorem wit_firmware_writes : (∀ i : Nat, i < ([] : List Byte).length → plidonWindow (0 + i) = true)
    ∧ (∀ i : Nat, i < [(1 : Byte)].length → plidonWindow (0xC000000000 + i) = false) :=
  ⟨nofun, fun i hi => by simp [plidonWindow]⟩

theorem wit_step_judged : tS.judgeNext.ctx.st = .active ∧ tS.judgeNext.settleOldest.ctx.wdCount < tS.judgeNext.settleOldest.ctx.wdMax
    ∧ tS.judgeNext.settleOldest.ctx.takesAsync = false ∧ tS.comingBack = false := by decide +kernel


/-! ### Steps and worked values -/

/-- x4 after one slot operation on x1 = 5, x2 = -1, x3 = -2^63, read eighteen bundles on. -/
def tX4 (i : Instr) : Word := (tNext (exec i tS)).ctx.readReg .s0 18 (.x 4) |>.setWidth 64

/-- Wraps, signs and corners, by hand from R120 to R122. -/
theorem test_scalar_wraps : tX4 (.add { d := 4, a := .reg 1, b := .reg 2 }) = 4 ∧ tX4 (.sub { d := 4, a := .zero, b := .reg 3 }) = 0x8000000000000000
    ∧ tX4 (.mulh { d := 4, a := .reg 2, b := .reg 3 }) = 0 ∧ tX4 (.mulhu { d := 4, a := .reg 3, b := .reg 2 }) = 0x7FFFFFFFFFFFFFFF
    ∧ tX4 (.sha { d := 4, a := .reg 3, b := .reg 1 }) = 0xFC00000000000000 ∧ tX4 (.shri { d := 4, a := .reg 2, imm := 63 }) = 1
    ∧ tX4 (.addi { d := 4, a := .reg 1, imm := 0xFFF8 }) = 0xFFFFFFFFFFFFFFFD := by decide +kernel

theorem test_scalar_division : tX4 (.div { d := 4, a := .reg 1, b := .zero }) = 0xFFFFFFFFFFFFFFFF
    ∧ tX4 (.rem { d := 4, a := .reg 1, b := .zero }) = 5 ∧ tX4 (.div { d := 4, a := .reg 3, b := .reg 2 }) = 0x8000000000000000
    ∧ tX4 (.rem { d := 4, a := .reg 3, b := .reg 1 }) = BitVec.ofInt 64 (-3) := by decide +kernel

/-- Bit fields, by hand from R125 and R126; 0x0FC1 takes 64 bits from bit 1 and is refused. -/
theorem test_scalar_fields : tX4 (.bext { d := 4, a := .reg 3, imm := 0x1000 ||| (3 <<< 6) ||| 60 }) = 0xFFFFFFFFFFFFFFF8
    ∧ tX4 (.bext { d := 4, a := .reg 3, imm := (3 <<< 6) ||| 60 }) = 8
    ∧ tX4 (.bins { d := 4, a := .reg 1, b := .reg 2, imm := (3 <<< 6) ||| 60 }) = 0xF000000000000005
    ∧ tX4 (.clz { d := 4, a := .zero }) = 64 ∧ tX4 (.popc { d := 4, a := .reg 2 }) = 64 := by decide +kernel

/-- R27: the two offsets that name one storage row. -/
theorem test_swizzle : spStore 0 false 0x0800 = 0x0800 ∧ spStore 0 true 0x0840 = 0x0800 ∧ swizzle (swizzle 0x123456) = 0x123456 := by
  decide +kernel

/-- R63: the worked conversion, under SR with seed 0, RTZ and RNE. -/
theorem test_stochastic : mix32 0x8001 = 0x28D6442C ∧ (convert .fp32 .bf16 .sr 0 0x3F808001).1 = 0x3F81
    ∧ (convert .fp32 .bf16 .rtz 0 0x3F808001).1 = 0x3F80 ∧ (convert .fp32 .bf16 .rne 0 0x3F808001).1 = 0x3F81 := by decide +kernel

/-- R71: the scales of the rings whose largest entries are 3.0 and 3.5, for E4M3. -/
theorem test_ring_scales : (({} : Ring).push 0x40400000 |>.scale .e4m3).1 = 0x862AAA
    ∧ (({} : Ring).push 0x40600000 |>.scale .e4m3) = (0x860000, 0) ∧ (({} : Ring).scale .e4m3) = (0x7F0000, 0) := by decide +kernel

/-- R209: VRCP of 1.0 is 1.0 with NX. -/
theorem test_reciprocal : rcpTable 0 = 16744512 ∧ Fmt.fp32.round .rne 0 none (rcpExact (Fmt.fp32.value 0x3F800000)) = (0x3F800000, flNX) := by
  decide +kernel

/-- R74: -0 under RDN; -0 and -0; +0 onto -0. -/
theorem test_zero_sums : (Val.sum .rdn [.fin false 1 0, .fin true 1 0]).sign = true ∧ (Val.sum .rne [.fin false 1 0, .fin true 1 0]).sign = false
    ∧ (Val.sum .rne [.fin true 0 0, .fin true 0 0]).sign = true ∧ (Val.sum .rne [.fin true 0 0, .fin false 0 0]).sign = false := by decide +kernel

/-- The worked epilogue after R282: scale 0.5, bias -0.25, ReLU, a destination of E4M3, TCQ condition 0; each word's code
and whether the condition holds. -/
def tEpilogue (bits : Nat) : Nat × Bool :=
  let r := epiElem { seq := 0, op := .epi { func := 0x10 }, pa := 0x7E0000, scale := 0x7F0000, recA := some { fmt := 6 } } {} bits
    (Fmt.fp32.value 0xBE800000)
  (r.1, r.2.2.1)

theorem test_epilogue : [0x40400000, 0x3F000000, 0xC0800000, 0x40040000, 0x44FA0000].map tEpilogue
    = [(0x3A, false), (0, false), (0, false), (0x34, false), (0x7E, true)] := by decide +kernel

/-- The worked lookup after R302: activations 1.0, 2.0, 0.5, -1.0 and 3.0, 0.25, 0, 1.0, the weights in four planes, the rest
of the 64 elements 0; read to `p` planes, with or without the correction. -/
def tLookup (p func : Nat) : Nat :=
  let es := [[0x3F800000, 0x40000000, 0x3F000000, 0xBF800000], [0x40400000, 0x3E800000, 0, 0x3F800000]].map fun g =>
    (groupEntries (g.map Fmt.fp32.value)).map Prod.fst
  (tlkOutput { seq := 0, op := .tlk { func := BitVec.ofNat 8 func }, recA := some { pstore := 4, pread := p } }
    (fun j c => (es.getD j []).getD c 0) ([3, 11, 6, 14, 7, 1, 8, 4] ++ List.replicate 56 0) (List.replicate 16 (.fin false 1 0)) 0).1

theorem test_lookup : tLookup 2 1 = 0x419C0000 ∧ tLookup 2 0 = 0x40C00000 ∧ tLookup 4 1 = 0x41BA0000 := by decide +kernel

/-- R360: the Fold of the tokens 1 to 16. -/
theorem test_fold : foldBlock [1, 2, 3, 4, 5, 6, 7, 8, 9, 10, 11, 12, 13, 14, 15, 16] = 0xB28 := by decide +kernel

/-- The rounds example of R322, with the budget of 900,000 µJ: queue 2's share. -/
theorem test_energy_share :
    ({ slices := (Vector.replicate 16 {}).set 0 { ebud := 900000 }
       queues := ((Vector.replicate 64 {}).set 2 { weight := 200, shipments := [tShip] } |>.set 7 { weight := 50, shipments := [tShip] }
        |>.set 9 { weight := 10, shipments := [tShip] }) } : State).shareOf 2 = 692307 := by decide +kernel

/-- The worked save area after R343: two contexts, 1,024 KiB, banks 2 and 3, 64 dictionary entries. -/
def tSaved : Crew :=
  { tCrew with ctxs := [[0, 1]], dictUnits := 4, lr := { raw := BitVec.ofNat 1024 (1024 * 2 ^ 48 + 0x000C * 2 ^ 64) } }

theorem test_save_area : tSaved.sections.length = 10 ∧ tSaved.sectionStart = 256 ∧ tSaved.saveSize = 1251520
    ∧ (tSaved.saveLargest * 7 + 959) / 960 = 9126 := by decide +kernel

/-- The worked slice after R351: tile 7 is c1 = 2, c0 = 1, with 3 tiles left. -/
theorem test_tile_word : tileWord (some { slice := 0, crew := 1, strand := 2, ext := [3, 5, 0, 0], rank := 2, perm := 1, next := 7, last := 11 })
    = leBytes 4 1 ++ leBytes 4 2 ++ leBytes 4 0 ++ leBytes 4 0 ++ leBytes 4 7 ++ leBytes 4 3 ++ leBytes 1 1 ++ leBytes 7 0 := by
  decide +kernel


end Sys2Proof.Tests
end

section
/-! PROOFS. The issue of commands into the dock (O36): the performing of a strand's stores leaves every dock and context
alone but for flags; the shapes in which an issue ends; the suspension of a FUTW's strand. -/

namespace Sys2Proof.Machine

open Sys2Proof Sys2Proof.Claims

/-! ### What the performing of stores leaves of docks and contexts -/

/-- A quay's dock, its numbering of commands, its current context and all of its contexts but their flags are as before. -/
structure Quay.Keeps (p q : Quay) : Prop where
  dock : q.dock = p.dock
  nextSeq : q.nextSeq = p.nextSeq
  cctx : q.cctx = p.cctx
  ctx : ∀ c, ∃ f, q.ctx c = { p.ctx c with fpflags := f }

/-- Every quay keeps its dock and contexts, and the same quay acts. -/
structure State.Keeps (s t : State) : Prop where
  here : t.here = s.here
  quayAt : ∀ n, (s.quayAt n).Keeps (t.quayAt n)

/-- A quay whose dock and contexts are literally the same. -/
theorem Quay.Keeps.of_eq {p q : Quay} (hd : q.dock = p.dock) (hn : q.nextSeq = p.nextSeq) (hc : q.cctx = p.cctx)
    (hx : q.ctxs = p.ctxs) : p.Keeps q :=
  ⟨hd, hn, hc, fun c => ⟨(p.ctx c).fpflags, by simp [Quay.ctx, hx]⟩⟩

theorem Quay.Keeps.refl (p : Quay) : p.Keeps p := .of_eq rfl rfl rfl rfl

theorem Quay.Keeps.trans {p q r : Quay} (h : p.Keeps q) (g : q.Keeps r) : p.Keeps r := by
  refine ⟨g.dock.trans h.dock, g.nextSeq.trans h.nextSeq, g.cctx.trans h.cctx, fun c => ?_⟩
  obtain ⟨f, hf⟩ := h.ctx c
  obtain ⟨e, he⟩ := g.ctx c
  exact ⟨e, by rw [he, hf]⟩

/-- One context changes in its flags alone. -/
theorem Quay.Keeps.setCtx_flags (p : Quay) (c : Fin 8) (f : FpFlags) :
    p.Keeps (p.setCtx c { p.ctx c with fpflags := f }) := by
  refine ⟨rfl, rfl, rfl, fun d => ?_⟩
  by_cases h : d = c
  · subst h
    exact ⟨f, Quay.ctx_setCtx_self _ _ _⟩
  · exact ⟨(p.ctx d).fpflags, Quay.ctx_setCtx_ne _ _ h⟩

theorem State.Keeps.trans {s t u : State} (h : s.Keeps t) (g : t.Keeps u) : s.Keeps u :=
  ⟨g.here.trans h.here, fun n => (h.quayAt n).trans (g.quayAt n)⟩

/-- A change outside the quays. -/
theorem State.Keeps.of_quays {s t : State} (hh : t.here = s.here) (hq : t.quays = s.quays) : s.Keeps t :=
  ⟨hh, fun n => by simpa [State.quayAt, hq] using Quay.Keeps.refl _⟩

theorem State.Keeps.refl (s : State) : s.Keeps s := .of_quays rfl rfl

/-- What one quay holds is replaced. -/
theorem State.Keeps.putQuay {s t : State} (h : s.Keeps t) {n : Nat} {q : Quay} (g : (t.quayAt n).Keeps q) :
    s.Keeps (t.putQuay n q) := by
  refine ⟨h.here, fun m => ?_⟩
  by_cases hm : m = n
  · subst hm
    simpa using (h.quayAt m).trans g
  · rw [State.quayAt_putQuay_ne _ _ hm]
    exact h.quayAt m

theorem State.Keeps.updQuay {s t : State} (h : s.Keeps t) {f : Quay → Quay} (g : t.quay.Keeps (f t.quay)) :
    s.Keeps (t.updQuay f) := h.putQuay g

/-- A sparse store whose values all pass through a function that keeps the default. -/
theorem sparseGet_map {α : Type} (d : α) (f : α → α) (hf : f d = d) (l : Sparse α) (n : Nat) :
    sparseGet d (l.map fun e => (e.1, f e.2)) n = f (sparseGet d l n) := by
  induction l with
  | nil => exact hf.symm
  | cons e t ih =>
    simp only [List.map_cons, sparseGet, ih]
    split
    · rfl
    · split
      · exact hf.symm
      · rfl

/-- Every quay passes through a function that keeps its dock and contexts. -/
theorem State.Keeps.mapQuays {s t : State} (f : Quay → Quay) (hh : t.here = s.here)
    (hq : t.quays = s.quays.map fun e => (e.1, f e.2)) (h0 : f {} = {}) (hf : ∀ q : Quay, q.Keeps (f q)) : s.Keeps t :=
  ⟨hh, fun n => by rw [State.quayAt, State.quayAt, hq, sparseGet_map _ f h0]; exact hf _⟩

/-- A change made at another quay. -/
theorem State.Keeps.elsewhere {s t : State} {q : Nat} (h : ({ s with here := q } : State).Keeps t) :
    s.Keeps { t with here := s.here } := ⟨rfl, h.quayAt⟩

/-- A relation of states that chains, and that each step of a fold keeps, holds from the start of the fold to its end. -/
theorem foldl_chains {α : Type} {R : State → State → Prop} (refl : ∀ s, R s s) (trans : ∀ {s t u}, R s t → R t u → R s u)
    (f : State → α → State) (hf : ∀ s a, R s (f s a)) (l : List α) (s : State) : R s (l.foldl f s) := by
  induction l generalizing s with
  | nil => exact refl s
  | cons a t ih => exact trans (hf s a) (ih _)

theorem State.Keeps.foldl {α : Type} (f : State → α → State) (hf : ∀ (s : State) a, s.Keeps (f s a)) (l : List α)
    (s : State) : s.Keeps (l.foldl f s) := foldl_chains .refl .trans f hf l s

/-! #### Writes -/

theorem State.keeps_watchWrite (s : State) (ls : List Loc) : s.Keeps (s.watchWrite ls) := by
  unfold State.watchWrite
  simp only
  split
  · exact .updQuay (.refl s) (.of_eq rfl rfl rfl rfl)
  · exact .refl s

theorem State.keeps_writeLocs (s : State) (cells : List (Loc × Byte)) : s.Keeps (s.writeLocs cells) := by
  refine (s.keeps_watchWrite (cells.map Prod.fst)).trans ?_
  unfold State.writeLocs
  simp only
  split
  · exact .of_quays rfl rfl
  · refine .updQuay ?_ ?_
    · exact .of_quays rfl rfl
    · exact .of_eq rfl rfl rfl rfl

/-- What `State.dropLines` does at each quay: lines leave its L1. -/
def Quay.withoutLines (lines : List Nat) (q : Quay) : Quay := { q with l1 := q.l1.filter fun x => !lines.contains x.1 }

theorem State.keeps_dropLines (s : State) (cells : List (Loc × Byte)) : s.Keeps (s.dropLines cells) := by
  unfold State.dropLines
  split
  · exact .refl s
  · exact .mapQuays (Quay.withoutLines ((s.physCells cells).map fun p => p.1 / 64)) rfl rfl rfl
      fun _ => .of_eq rfl rfl rfl rfl

theorem State.keeps_writePool (s : State) (no off : Nat) (bs : List Byte) : s.Keeps (s.writePool no off bs) := by
  refine .foldl _ (fun _ _ => ?_) _ s
  exact .of_quays rfl rfl

theorem State.keeps_oneWrite {s t : State} (h : s.Keeps t) : s.Keeps (s.oneWrite t) := by
  unfold State.oneWrite
  simp only
  split
  · exact h
  · exact h.updQuay (.of_eq rfl rfl rfl rfl)

theorem State.keeps_combineElems (op : RedOp) (t : RedTy) (es : List (Loc × BitVec 64)) (s : State) :
    s.Keeps (s.combineElems op t es).1 := by
  induction es generalizing s with
  | nil => exact .refl s
  | cons e r ih =>
    unfold State.combineElems
    exact (s.keeps_writeLocs _).trans (ih _)

theorem State.keeps_applyElems (s : State) (op : RedOp) (t : RedTy) (es : List (Loc × BitVec 64)) :
    s.Keeps (s.applyElems op t es).1 := keeps_oneWrite (s.keeps_combineElems op t es)

/-! #### Flags and messages -/

theorem State.keeps_giveFlags (s : State) (born : Nat) (f : BitVec 5) : s.Keeps (s.give born 0 f) := by
  unfold State.give
  split
  · exact .putQuay (.refl s) (.setCtx_flags _ _ _)
  · simp only
    split
    · exact .of_quays rfl rfl
    · refine .trans ?_ (State.keeps_writePool _ _ _ _)
      refine .trans ?_ (State.keeps_writePool _ _ _ _)
      exact .of_quays rfl rfl
  · exact .refl s

theorem State.keeps_raise (s : State) (born : Nat) (f : FpFlags) : s.Keeps (s.raise born f) := by
  unfold State.raise
  split
  · exact .refl s
  · exact s.keeps_giveFlags born f

theorem State.keeps_send (s : State) (i : Instr) : s.Keeps (s.send i) := .of_quays rfl rfl

theorem State.keeps_toDev (s : State) (dev : Nat) (m : NetMsg) : s.Keeps (s.toDev dev m) := by
  unfold State.toDev
  split
  · exact .refl s
  · exact .of_quays rfl rfl

theorem State.keeps_ask (s : State) (dev age : Nat) (a : Asker) (m : NetMsg) : s.Keeps (s.ask dev age a m) := by
  unfold State.ask
  refine (s.keeps_toDev dev m).updQuay ?_
  exact .of_eq rfl rfl rfl rfl

theorem State.keeps_sendWrites (s : State) (a : Asker) (ctx age : Nat) (cells : List (Nat × Byte)) :
    s.Keeps (s.sendWrites a ctx age cells) :=
  .foldl _ (fun s d => s.keeps_ask d age a _) _ s

theorem State.keeps_sendReduction (s : State) (o : Nat) (ctx : Fin 8) (cmd : Option Nat) (op : RedOp) (t : RedTy)
    (elems : List (Nat × BitVec 64)) (upto : Nat) : s.Keeps (s.sendReduction o ctx cmd op t elems upto) := by
  have tagged : s.Keeps (s.tagReduction o ctx cmd op t elems upto).2 := .putQuay (.refl s) (.of_eq rfl rfl rfl rfl)
  have listed (u : State) (x : Nat × Nat × Reduction) : u.Keeps (u.updQuay fun q => { q with unacked := q.unacked ++ [x] }) :=
    .updQuay (.refl u) (.of_eq rfl rfl rfl rfl)
  unfold State.sendReduction
  simp only
  refine .trans ?_ (State.keeps_send _ _)
  split
  · exact tagged.trans (listed _ _)
  · split
    · exact tagged.trans (listed _ _)
    · exact (tagged.trans (listed _ _)).trans (State.keeps_toDev _ _ _)

/-! #### Reductions at their homes -/

theorem State.keeps_applyAs (s : State) (r : Reduction) : s.Keeps (s.applyAs r).1 :=
  .elsewhere (State.keeps_applyElems _ _ _ _)

theorem State.keeps_filterReduction {s t : State} {r : Reduction} {f : FpFlags} (h : s.filterReduction r = some (t, f)) :
    s.Keeps t := by
  unfold State.filterReduction at h
  extract_lets k e own e' at h
  split at h
  · cases h
  · split at h
    · simp only [Option.some.injEq, Prod.mk.injEq] at h
      obtain ⟨rfl, -⟩ := h
      exact .of_quays rfl rfl
    · simp only [Option.some.injEq, Prod.mk.injEq] at h
      obtain ⟨rfl, -⟩ := h
      have dropped : s.Keeps (if r.cmd.isSome || !own then (s.applyAs r).1
          else (s.applyAs r).1.dropLines (r.elems.map fun p => (.phys p.1, 0))) := by
        split
        · exact s.keeps_applyAs r
        · exact (s.keeps_applyAs r).trans (State.keeps_dropLines _ _)
      exact dropped.trans (.of_quays rfl rfl)

theorem State.keeps_applyReduction (s : State) (r : Reduction) : s.Keeps (s.applyReduction r) := by
  unfold State.applyReduction
  split
  · exact s.keeps_send _
  · rename_i t f h
    refine (keeps_filterReduction h).trans ?_
    split
    · exact t.keeps_send _
    · exact t.keeps_toDev _ _

theorem State.keeps_settleReduction (s : State) (quay seq : Nat) (f : FpFlags) : s.Keeps (s.settleReduction quay seq f) := by
  unfold State.settleReduction
  split
  · exact .refl s
  · rename_i n o r _
    have acked : s.Keeps (s.putQuay quay { s.quayAt quay with unacked := (s.quayAt quay).unacked.filter fun u => u.1 != seq }) :=
      .putQuay (.refl s) (.of_eq rfl rfl rfl rfl)
    simp only
    split
    · exact acked.trans (.of_quays rfl rfl)
    · refine .trans ?_ (State.keeps_raise _ _ _)
      exact acked.trans (.of_quays rfl rfl)

/-! #### Stores perform -/

theorem State.keeps_performStore (s : State) (g : GStore) : s.Keeps (s.performStore g) := by
  unfold State.performStore
  split
  · exact ((s.keeps_writeLocs _).trans (State.keeps_dropLines _ _)).trans (State.keeps_sendWrites _ _ _ _ _)
  · rename_i op t es _
    have combined : s.Keeps ((s.applyElems op t (spElems es)).1.raise g.owner (s.applyElems op t (spElems es)).2) :=
      (s.keeps_applyElems op t _).trans (State.keeps_raise _ _ _)
    simp only
    split
    · exact combined
    · exact combined.trans (State.keeps_sendReduction _ _ _ _ _ _ _ _)
  · split
    · exact s.keeps_send _
    · exact s.keeps_toDev _ _

theorem State.keeps_applyOwnSent (s : State) (born : Nat) : s.Keeps (s.applyOwnSent born) := by
  unfold State.applyOwnSent
  extract_lets own now u
  have taken : s.Keeps u := .of_quays rfl rfl
  refine taken.trans (.foldl _ (fun s i => ?_) _ u)
  split
  · split
    · exact s.keeps_applyReduction _
    · split
      · exact (keeps_filterReduction ‹_›).trans (State.keeps_settleReduction _ _ _ _)
      · exact s.keeps_send _
  · exact s.keeps_settleReduction _ _ _
  · exact .refl s

theorem State.keeps_performRun (b : Nat) (l : List (Nat × GStore)) (s : State) : s.Keeps (s.performRun b l) := by
  induction l generalizing s with
  | nil => exact .refl s
  | cons e r ih =>
    obtain ⟨q, g⟩ := e
    unfold State.performRun
    extract_lets u v
    split
    · exact .refl s
    · refine .trans ?_ (ih _)
      have undrained : u.Keeps (u.updQuay fun q => { q with drained := q.drained.erase g }) :=
        .updQuay (.refl u) (.of_eq rfl rfl rfl rfl)
      exact .elsewhere ((undrained.trans (State.keeps_performStore _ g)).trans (State.keeps_applyOwnSent _ b))

theorem State.keeps_performOwn (s : State) : s.Keeps s.performOwn :=
  (s.keeps_applyOwnSent s.ctx.born).trans (State.keeps_performRun _ _ _)

/-! ### A commit (R163) -/

@[simp] theorem State.quay_updCtx (s : State) (f : Context → Context) :
    (s.updCtx f).quay = s.quay.setCtx s.quay.cctx (f s.ctx) := by
  simp [State.updCtx, State.setCtx]

/-- The drain leaves the dock and every register alone. -/
theorem State.drain_quay (s : State) :
    s.drain.quay.dock = s.quay.dock ∧ s.drain.quay.nextSeq = s.quay.nextSeq ∧ s.drain.quay.cctx = s.quay.cctx
      ∧ s.drain.ctx = { s.ctx with gated := [] } := by
  have hq : s.drain.quay = { (s.updCtx fun c => { c with gated := [] }).quay with
      drained := (s.updCtx fun c => { c with gated := [] }).quay.drained ++ s.ctx.gated } := State.quay_updQuay _ _
  refine ⟨by simp [hq, Quay.setCtx], by simp [hq, Quay.setCtx], by simp [hq, Quay.setCtx], ?_⟩
  rw [State.ctx, hq]
  exact s.ctx_updCtx _

/-- A flush empties the gate of the acting context; its stores may raise flags, and nothing else of the dock or the context
changes. -/
theorem State.flush_quay (s : State) :
    s.flush.quay.dock = s.quay.dock ∧ s.flush.quay.nextSeq = s.quay.nextSeq ∧ s.flush.quay.cctx = s.quay.cctx
      ∧ ∃ f, s.flush.ctx = { s.ctx with gated := [], fpflags := f } := by
  obtain ⟨hdock, hseq, hcctx, hctx⟩ := s.drain_quay
  have performed : s.drain.Keeps s.flush := s.drain.keeps_performOwn
  have hq : s.drain.quay.Keeps s.flush.quay := by
    simpa [State.quay, performed.here] using performed.quayAt s.drain.here
  obtain ⟨f, hf⟩ := hq.ctx s.drain.quay.cctx
  refine ⟨hq.dock.trans hdock, hq.nextSeq.trans hseq, hq.cctx.trans hcctx, f, ?_⟩
  change s.drain.quay.ctx s.drain.quay.cctx = _ at hctx
  rw [State.ctx, hq.cctx, hf, hctx]

@[simp] theorem State.ctx_enqueueCmd (s : State) (f : Nat → DockEntry) : (s.enqueueCmd f).ctx = s.ctx := by
  simp [State.enqueueCmd, State.ctx, Quay.ctx]

/-- A commit whose action puts a command into the dock. -/
theorem commit_enqueueCmd (s : State) (f : State → Nat → DockEntry) :
    let t := commit s fun u => u.enqueueCmd (f u)
    t.quay.dock = s.quay.dock ++ [f s.flush s.quay.nextSeq] ∧ t.quay.nextSeq = s.quay.nextSeq + 1 ∧ Committed s t := by
  obtain ⟨hdock, hseq, -, e, hctx⟩ := s.flush_quay
  refine ⟨?_, ?_, ?_⟩
  · simp [commit, State.markNext, State.setMark, Quay.setCtx, State.enqueueCmd, hdock, hseq]
  · simp [commit, State.markNext, State.setMark, Quay.setCtx, State.enqueueCmd, hseq]
  · simp [Committed, commit, State.markNext, State.setMark, hctx]

/-- The entry of a command made while its strand's stores perform is that of the strand at its issue. -/
theorem isIssued_newEntry (s : State) (i : Instr) (a b : Word) :
    IsIssued s i a b (s.flush.newEntry i a b s.quay.nextSeq) := by
  obtain ⟨-, -, hcctx, f, hctx⟩ := s.flush_quay
  simp [IsIssued, State.newEntry, hcctx, hctx]

/-! ### Issue (R22, R163, R238) -/

/-- The operands of a command are read as the e fields it uses say. -/
theorem eReg_of_reads {s : State} {used : Bool} {n : Fin 16} {a : Word} (h : EReads s used n a) :
    s.ctx.eReg used n = .ok a := by
  unfold EReads at h
  unfold Context.eReg
  split at h <;> simp_all

section
variable {s : State} {i : Instr} {o : EOp} {a b : Word}

/-- A command waits while the dock has no room for it. -/
theorem issueE_full (h : EOperands s o (usesRegs i).1 (usesRegs i).2 a b)
    (full : s.quay.dockUsed + (if cmdOpc i == 0x02 then 2 else 1) > 32) : issueE i o s = stall i s := by
  obtain ⟨hg, ha, hb⟩ := h
  simp only [issueE, hg, eReg_of_reads ha, eReg_of_reads hb, full, Bool.not_true, Bool.false_eq_true, if_false, if_true]

/-- A command other than CPMM, with room in the dock, is issued once its strand's stores all perform. -/
theorem issueE_one (h : EOperands s o (usesRegs i).1 (usesRegs i).2 a b) (one : (cmdOpc i == 0x02) = false)
    (room : s.quay.dockUsed + 1 ≤ 32) :
    issueE i o s = if s.flushes then .next (commit s fun u => u.enqueueCmd (u.newEntry i a b)) else stall i s := by
  obtain ⟨hg, ha, hb⟩ := h
  simp only [issueE, hg, eReg_of_reads ha, eReg_of_reads hb, one]
  simp [Nat.not_lt.mpr room]

/-- CPMM, with room in the dock for two and the e registers of its follow-on readable. -/
theorem issueE_two {a2 b2 : Word} (h : EOperands s o (usesRegs i).1 (usesRegs i).2 a b) (two : (cmdOpc i == 0x02) = true)
    (room : s.quay.dockUsed + 2 ≤ 32) (h2 : EReads s true (Fin.ofNat 16 (EFields.ofWord b.toNat).pa) a2)
    (g2 : EReads s true (Fin.ofNat 16 (EFields.ofWord b.toNat).pb) b2) :
    issueE i o s = if s.flushes then .next (commit s fun u => u.enqueueCmd fun n =>
      { u.newEntry i a b n with pa2 := a2, pb2 := b2, follow := some ((followOp b).getD i) }) else stall i s := by
  obtain ⟨hg, ha, hb⟩ := h
  simp only [EReads, if_true] at h2 g2
  simp only [issueE, hg, eReg_of_reads ha, eReg_of_reads hb, two, if_true, h2, g2]
  simp [Nat.not_lt.mpr room]

end

/-! ### The queued commands -/

/-- Each queued command is carried out by its issue, and none of them is CPMM. -/
theorem exec_queued : ∀ f ∈ queuedForms, ∀ (o : EOp) (s : State),
    exec (f.1 o) s = issueE (f.1 o) o s ∧ (cmdOpc (f.1 o) == 0x02) = false := by
  simp only [queuedForms, List.forall_mem_cons, List.not_mem_nil, false_imp_iff, implies_true, and_true]
  and_intros <;> exact fun _ _ => ⟨rfl, rfl⟩

/-- The opcode map has a row with its own constructor for each well-formed command. -/
theorem eRow_of_wf {i : Instr} {opc : Nat} {o : EOp} (hf : i.form = .e opc o) (hw : i.wf = true) :
    ∃ u c, eRow opc o.func.toNat = some (u, c) ∧ c o = i := by
  simp only [Instr.wf, hf] at hw
  rcases hr : eRow opc o.func.toNat with _ | ⟨u, c⟩
  · simp only [hr, Bool.false_eq_true] at hw
  · simp only [hr, Bool.and_eq_true, beq_iff_eq] at hw
    obtain ⟨⟨hc, -⟩, -⟩ := hw
    exact ⟨u, c, rfl, hc⟩

/-- The row of a command says what e fields it uses. -/
theorem usesRegs_of_row {i : Instr} {opc : Nat} {o : EOp} {u : EUse} {c : EOp → Instr} (hf : i.form = .e opc o)
    (hr : eRow opc o.func.toNat = some (u, c)) : usesRegs i = (u.pa, u.pb) := by
  simp only [usesRegs, cmdOpc, cmdOp, hf, hr]

/-- What every row with the constructor of a well-formed command says, the command does. -/
theorem usesRegs_of_wf {i : Instr} {opc : Nat} {o : EOp} {p : Bool × Bool} (hf : i.form = .e opc o) (hw : i.wf = true)
    (hp : ∀ u c, eRow opc o.func.toNat = some (u, c) → c o = i → (u.pa, u.pb) = p) : usesRegs i = p := by
  obtain ⟨u, c, hr, hc⟩ := eRow_of_wf hf hw
  exact (usesRegs_of_row hf hr).trans (hp u c hr hc)

/-- The e fields that a well-formed queued command uses are those listed with it (R106). -/
theorem usesRegs_queued : ∀ f ∈ queuedForms, ∀ o, (f.1 o).wf = true → usesRegs (f.1 o) = f.2 := by
  simp only [queuedForms, List.forall_mem_cons, List.not_mem_nil, false_imp_iff, implies_true, and_true]
  and_intros <;> refine fun o hw => usesRegs_of_wf rfl hw fun u c hr hc => ?_
  all_goals
    simp only [eRow] at hr
    repeat' split at hr
    all_goals cases hr <;> simp at hc ⊢

section
variable {s : State} {o : EOp} {a b : Word} {f : (EOp → Instr) × Bool × Bool}

theorem queued_issued (hf : f ∈ queuedForms) (hw : (f.1 o).wf = true) (h : EIssues s o f.2.1 f.2.2 a b 1) :
    ∃ t d, exec (f.1 o) s = .next t ∧ t.quay.dock = s.quay.dock ++ [d] ∧ IsIssued s (f.1 o) a b d ∧ d.follow = none
      ∧ Committed s t ∧ t.quay.nextSeq = s.quay.nextSeq + 1 := by
  obtain ⟨hx, hone⟩ := exec_queued f hf o s
  rw [← usesRegs_queued f hf o hw] at h
  obtain ⟨hops, hroom, hflush⟩ := h
  obtain ⟨hdock, hseq, hc⟩ := commit_enqueueCmd s fun u => u.newEntry (f.1 o) a b
  exact ⟨_, _, by rw [hx, issueE_one hops hone hroom, if_pos hflush], hdock, isIssued_newEntry s _ a b, rfl, hc, hseq⟩

theorem queued_waits (hf : f ∈ queuedForms) (hw : (f.1 o).wf = true) (hops : EOperands s o f.2.1 f.2.2 a b)
    (hwait : s.quay.dockUsed + 1 > 32 ∨ s.flushes = false) : exec (f.1 o) s = stall (f.1 o) s := by
  obtain ⟨hx, hone⟩ := exec_queued f hf o s
  rw [← usesRegs_queued f hf o hw] at hops
  rw [hx]
  by_cases full : s.quay.dockUsed + 1 > 32
  · exact issueE_full hops (by simpa [hone] using full)
  · rw [issueE_one hops hone (Nat.not_lt.mp full), if_neg (by simp [hwait.resolve_left full])]

end

/-! ### CPMM (R250) -/

section
variable {s : State} {o : EOp} {a b a2 b2 : Word}

theorem cpmm_issued (h : EIssues s o false true a b 2) (hn : EReads s true (Fin.ofNat 16 (EFields.ofWord b.toNat).pa) a2)
    (hm : EReads s true (Fin.ofNat 16 (EFields.ofWord b.toNat).pb) b2) :
    ∃ t d, exec (.cpmm o) s = .next t ∧ t.quay.dock = s.quay.dock ++ [d] ∧ IsIssued s (.cpmm o) a b d
      ∧ d.follow.isSome = true ∧ d.pa2 = a2 ∧ d.pb2 = b2 ∧ Committed s t ∧ t.quay.dockUsed = s.quay.dockUsed + 2 := by
  obtain ⟨hops, hroom, hflush⟩ := h
  obtain ⟨hdock, -, hc⟩ := commit_enqueueCmd s fun u n =>
    { u.newEntry (.cpmm o) a b n with pa2 := a2, pb2 := b2, follow := some ((followOp b).getD (.cpmm o)) }
  refine ⟨_, _, by rw [exec_cpmm, execCpmm, issueE_two hops rfl hroom hn hm, if_pos hflush], hdock,
    isIssued_newEntry s (.cpmm o) a b, rfl, rfl, rfl, hc, ?_⟩
  simp [Quay.dockUsed, hdock]

theorem cpmm_waits_for_room (hops : EOperands s o false true a b) (full : s.quay.dockUsed + 2 > 32) :
    exec (.cpmm o) s = stall (.cpmm o) s := issueE_full (i := .cpmm o) hops full

theorem cpmm_waits_for_flush (hops : EOperands s o false true a b)
    (hn : EReads s true (Fin.ofNat 16 (EFields.ofWord b.toNat).pa) a2)
    (hm : EReads s true (Fin.ofNat 16 (EFields.ofWord b.toNat).pb) b2) (hflush : s.flushes = false) :
    exec (.cpmm o) s = stall (.cpmm o) s := by
  by_cases full : s.quay.dockUsed + 2 > 32
  · exact cpmm_waits_for_room hops full
  · rw [exec_cpmm, execCpmm, issueE_two hops rfl (Nat.not_lt.mp full) hn hm, if_neg (by simp [hflush])]

end

/-! ### FUTW (R347) -/

theorem usesRegs_futw {o : EOp} (hw : (Instr.futw o).wf = true) : usesRegs (.futw o) = (true, false) := by
  refine usesRegs_of_wf rfl hw fun u c hr _ => ?_
  simp only [eRow] at hr
  split at hr <;> cases hr
  rfl

/-- A command that has just entered the dock under a new number is the one that stands there with it. -/
theorem cmd?_of_entered {s t : State} {d : DockEntry} (hdock : t.quay.dock = s.quay.dock ++ [d]) (hseq : d.seq = s.quay.nextSeq)
    (hnew : NewSeq s) : t.cmd? s.quay.nextSeq = some d := by
  have older : s.quay.dock.find? (fun x => x.seq == s.quay.nextSeq) = none := by
    simpa [NewSeq, List.find?_eq_none] using hnew
  simp [State.cmd?, hdock, List.find?_append, older, hseq]

/-- A context that waits in its queue for the end of its FUTW's bundle: its note alone is new beside the queue. -/
theorem State.noteFutw_keeps (s : State) (x : Option (Nat × Nat)) (i : Instr) (pos : Nat) :
    let t := s.updCtx fun c => { c with futw := x }.requeue i pos
    t.quay.dock = s.quay.dock ∧ t.ctx.futw = x ∧ t.ctx.regs = s.ctx.regs := by
  simp [Quay.setCtx, Context.requeue]

/-- FUTW's issue: it enters the dock, and the strand goes on to the end of its bundle with its command noted. -/
theorem exec_futw_issues {s : State} {o : EOp} {a : Word} (hw : (Instr.futw o).wf = true) (h : EIssues s o true false a 0 1)
    (hf : s.ctx.futw = none) (hb : s.ctx.streamsBusy = false) (hn : NewSeq s) :
    exec (.futw o) s = .next ((commit s fun u => u.enqueueCmd (u.newEntry (.futw o) a 0)).updCtx fun c =>
      { c with futw := some (s.quay.nextSeq, o.func.toNat % 4) }.requeue (.futw o) lastPos) := by
  obtain ⟨hops, hroom, hflush⟩ := h
  have hg : s.ctx.guardHolds .e o.g = true := hops.1
  have hi : issueE (.futw o) o s = .next (commit s fun u => u.enqueueCmd (u.newEntry (.futw o) a 0)) := by
    rw [issueE_one (by rwa [usesRegs_futw hw]) rfl hroom, if_pos hflush]
  obtain ⟨hdock, -, -⟩ := commit_enqueueCmd s fun u => u.newEntry (.futw o) a 0
  have hcmd := cmd?_of_entered hdock rfl hn
  simp only [exec_futw, execFutw, hf, hg, hb, hi, hcmd, Bool.not_true, Bool.false_eq_true, if_false]

theorem futw_issued {s : State} {o : EOp} {a : Word} (hw : (Instr.futw o).wf = true) (h : EIssues s o true false a 0 1)
    (hf : s.ctx.futw = none) (hb : s.ctx.streamsBusy = false) (hn : NewSeq s) :
    ∃ t d, exec (.futw o) s = .next t ∧ t.quay.dock = s.quay.dock ++ [d] ∧ IsIssued s (.futw o) a 0 d
      ∧ t.ctx.futw = some (s.quay.nextSeq, o.func.toNat % 4) ∧ t.ctx.regs = s.ctx.regs := by
  obtain ⟨hdock, -, -, -, -, hregs, -⟩ := commit_enqueueCmd s fun u => u.newEntry (.futw o) a 0
  obtain ⟨hdock', hnote, hregs'⟩ := State.noteFutw_keeps (commit s fun u => u.enqueueCmd (u.newEntry (.futw o) a 0))
    (some (s.quay.nextSeq, o.func.toNat % 4)) (.futw o) lastPos
  exact ⟨_, _, exec_futw_issues hw h hf hb hn, hdock'.trans hdock, isIssued_newEntry s (.futw o) a 0, hnote,
    hregs'.trans hregs⟩

/-- A strand on its way out keeps its quay, the operations on futures, and every context's note of its FUTW. -/
structure State.KeepsFutw (s t : State) : Prop where
  here : t.here = s.here
  futOps : t.futOps = s.futOps
  cctx : t.quay.cctx = s.quay.cctx
  futw : ∀ n, (t.quay.ctx n).futw = (s.quay.ctx n).futw

theorem State.KeepsFutw.trans {s t u : State} (h : s.KeepsFutw t) (g : t.KeepsFutw u) : s.KeepsFutw u :=
  ⟨g.here.trans h.here, g.futOps.trans h.futOps, g.cctx.trans h.cctx, fun n => (g.futw n).trans (h.futw n)⟩

theorem State.KeepsFutw.refl (s : State) : s.KeepsFutw s := ⟨rfl, rfl, rfl, fun _ => rfl⟩

/-- A change of the acting quay that keeps its contexts. -/
theorem State.KeepsFutw.updQuay (s : State) {f : Quay → Quay} (hc : (f s.quay).cctx = s.quay.cctx)
    (hx : (f s.quay).ctxs = s.quay.ctxs) : s.KeepsFutw (s.updQuay f) :=
  ⟨rfl, rfl, by simp [hc], fun n => by simp [Quay.ctx, hx]⟩

/-- A change of a context of the acting quay that keeps its note. -/
theorem State.KeepsFutw.updCtxAt (s : State) (n : Fin 8) {f : Context → Context}
    (hf : ∀ c, (f c).futw = c.futw) : s.KeepsFutw (s.updCtxAt s.here n f) := by
  have hq : (s.updCtxAt s.here n f).quay = s.quay.setCtx n (f (s.quay.ctx n)) := State.quayAt_putQuay_self _ _ _
  refine ⟨rfl, rfl, by simp [hq, Quay.setCtx], fun m => ?_⟩
  rw [hq]
  by_cases h : m = n
  · subst h
    simp [hf]
  · rw [Quay.ctx_setCtx_ne _ _ h]

theorem State.KeepsFutw.updCtx (s : State) {f : Context → Context} (hf : ∀ c, (f c).futw = c.futw) : s.KeepsFutw (s.updCtx f) :=
  .updCtxAt s s.quay.cctx hf

theorem State.KeepsFutw.foldl {α : Type} (f : State → α → State) (hf : ∀ (s : State) a, s.KeepsFutw (f s a)) (l : List α)
    (s : State) : s.KeepsFutw (l.foldl f s) := foldl_chains .refl .trans f hf l s

theorem State.keepsFutw_setJetty (s : State) (j : Jetty) : s.KeepsFutw (s.setJetty j) := ⟨rfl, rfl, rfl, fun _ => rfl⟩

/-! #### The last results land -/

@[simp] theorem Context.futw_writeReg (c : Context) (r : RegId) (v : VWord) : (c.writeReg r v).futw = c.futw := by
  cases r <;> rfl

@[simp] theorem Context.futw_landAll (c : Context) : c.landAll.futw = c.futw := by
  have writes (l : List PendWrite) : (l.foldl (fun c w => c.writeReg w.reg w.val) c).futw = c.futw := by
    induction l generalizing c with
    | nil => rfl
    | cons w t ih => simp [ih]
  exact writes c.pend

theorem keepsFutw_statWrite (num : Nat) (v : Word) (s : State) : s.KeepsFutw (statWrite num v s) := by
  unfold statWrite
  split
  -- ST_DICTWIN writes the quay's window too, ST_JETTY the jetty; a number that is no register's writes nothing.
  case h_7 => exact (State.KeepsFutw.updQuay s rfl rfl).trans (.updCtx _ fun _ => rfl)
  case h_9 => exact s.keepsFutw_setJetty _
  case h_10 => exact .refl s
  all_goals exact .updCtx s fun _ => rfl

theorem keepsFutw_apply (e : Effect) (s : State) : s.KeepsFutw (e.apply s) := by
  unfold Effect.apply
  cases e with
  | push r v c => exact .updQuay s rfl rfl
  | bank b cells => exact .updQuay s rfl rfl
  | bankOld b cells => exact .refl s
  | statw n v => exact keepsFutw_statWrite n v s
  | flags f => exact .updCtx s fun _ => rfl
  | tcq b => exact .updCtx s fun _ => rfl

theorem State.keepsFutw_landRing (s : State) (r lim : Nat) (p : Fin 8 → Bool) : s.KeepsFutw (s.landRing r lim p) := by
  unfold State.landRing
  refine .trans (.trans ?_ (.updQuay _ rfl rfl)) (.foldl _ (fun s e => keepsFutw_apply e s) _ _)
  refine .foldl _ (fun s n => ?_) _ _
  exact .updCtxAt s n fun _ => rfl

theorem State.keepsFutw_landEffect (s : State) (e : Effect) : s.KeepsFutw (s.landEffect e) := by
  unfold State.landEffect
  split
  · exact (s.keepsFutw_landRing _ _ _).trans (keepsFutw_apply _ _)
  · exact keepsFutw_apply _ _

theorem State.keepsFutw_landAll (s : State) : s.KeepsFutw s.landAll := by
  refine .trans (t := s.setCtx { s.ctx.landAll with effects := [] }) ?_
    (.foldl _ (fun s (e : PendEffect) => s.keepsFutw_landEffect e.what) _ _)
  exact .updCtx s (f := fun c => { c.landAll with effects := [] }) fun c => c.futw_landAll

/-! #### The strand leaves its context -/

theorem State.keepsFutw_drain (s : State) : s.KeepsFutw s.drain := by
  unfold State.drain
  refine .trans (.updCtx s ?_) (.updQuay _ rfl rfl)
  exact fun _ => rfl

theorem State.keepsFutw_endLockstep (s : State) : s.KeepsFutw s.endLockstep := by
  unfold State.endLockstep
  split
  · exact s.keepsFutw_setJetty _
  · exact .refl s

/-- What `State.untag` does at each quay: the commands of a strand set no tag any longer. -/
def Quay.untag (born : Nat) (q : Quay) : Quay :=
  { q with dock := q.dock.map fun d => if d.owner == born then { d with untagged := true } else d }

theorem State.keepsFutw_untag (s : State) : s.KeepsFutw s.untag := by
  have hq : s.untag.quay = s.quay.untag s.ctx.born := sparseGet_map ({} : Quay) (Quay.untag s.ctx.born) rfl s.quays s.here
  exact ⟨rfl, rfl, by rw [hq]; rfl, fun n => by rw [hq]; rfl⟩

theorem State.keepsFutw_report (s : State) (code : FaultCode) (q c : Nat) (crew : Option Nat) (va : Word) :
    s.KeepsFutw (s.report code q c crew va) := ⟨rfl, rfl, rfl, fun _ => rfl⟩

theorem State.keepsFutw_orphanFaults (s : State) : s.KeepsFutw s.orphanFaults := by
  unfold State.orphanFaults
  refine .trans ?_ (.updCtx _ fun _ => rfl)
  refine .foldl _ (fun s a => ?_) _ _
  exact s.keepsFutw_report _ _ _ _ _

theorem State.keepsFutw_quitLockstep (s : State) : s.KeepsFutw s.quitLockstep := by
  unfold State.quitLockstep
  split
  · split
    · exact s.keepsFutw_setJetty _
    · exact .refl s
  · exact .refl s

theorem State.keepsFutw_dropRejoin (s : State) : s.KeepsFutw s.dropRejoin := by
  unfold State.dropRejoin
  simp only
  split
  · exact s.keepsFutw_setJetty _
  · exact .refl s

theorem State.keepsFutw_endLeg (s : State) (st : CtxState) : s.KeepsFutw (s.endLeg st) := by
  unfold State.endLeg
  exact .updCtx s fun _ => rfl

theorem State.wakeWaiting_dormant (s : State) (n : Fin 8) (h : (s.quay.ctx n).st = .dormant) :
    s.wakeWaiting.quay.ctx n = s.quay.ctx n := by
  unfold State.wakeWaiting
  split
  · simp only [State.quay_updQuay, Quay.ctx]
    change (Vector.map _ _)[n.val] = s.quay.ctxs[n.val]
    change s.quay.ctxs[n.val].st = _ at h
    simp [h]
  · rfl

/-- The choice of the next ACTIVE context passes over a DORMANT one (R156). -/
theorem State.pickActive_dormant (s : State) (n : Fin 8) (h : (s.quay.ctx n).st = .dormant) :
    s.pickActive.quay.ctx n = s.quay.ctx n := by
  have woken := s.wakeWaiting_dormant n h
  unfold State.pickActive
  extract_lets u
  split
  · exact woken
  · split
    · exact woken
    · rename_i m hm
      have ready : (u.quay.ctx m).st = .ready := by
        have hrun := List.find?_some hm
        simp only [State.mayRun, Bool.and_eq_true, beq_iff_eq] at hrun
        obtain ⟨⟨hst, -⟩, -⟩ := hrun
        exact hst
      have other : n ≠ m := by
        rintro rfl
        rw [woken, h] at ready
        cases ready
      simp only [State.quay_updCtx, State.quay_updQuay]
      rw [Quay.ctx_setCtx_ne _ _ other]
      exact woken

theorem State.pickActive_futOps (s : State) : s.pickActive.futOps = s.futOps ∧ s.pickActive.here = s.here := by
  have woken : s.wakeWaiting.futOps = s.futOps ∧ s.wakeWaiting.here = s.here := by
    unfold State.wakeWaiting
    split <;> exact ⟨rfl, rfl⟩
  unfold State.pickActive
  extract_lets u
  split
  · exact woken
  · split <;> exact woken

/-- The acting context is freed: it is DORMANT, its note of a FUTW stays, and nothing is asked of a future (R154). -/
theorem State.freeCtx_dormant (s : State) :
    s.freeCtx.here = s.here ∧ s.freeCtx.futOps = s.futOps ∧ (s.freeCtx.quay.ctx s.quay.cctx).st = .dormant
      ∧ (s.freeCtx.quay.ctx s.quay.cctx).futw = s.ctx.futw := by
  unfold State.freeCtx
  extract_lets dec s1 s2 s3
  have h1 : s.KeepsFutw s1 := by
    unfold s1
    split
    · exact s.keepsFutw_endLockstep
    · exact .refl s
  have h3 : s.KeepsFutw s3 := by
    refine .trans (t := s2) ?_ (.updCtx s2 fun _ => rfl)
    refine .trans ?_ (State.keepsFutw_dropRejoin _)
    refine .trans ?_ (State.keepsFutw_quitLockstep _)
    refine .trans ?_ (State.keepsFutw_orphanFaults _)
    refine .trans ?_ (State.keepsFutw_untag _)
    refine .trans ?_ (State.keepsFutw_landAll _)
    exact h1.trans s1.keepsFutw_drain
  have left := h3.trans (s3.keepsFutw_endLeg .dormant)
  have dormant : ((s3.endLeg .dormant).quay.ctx s.quay.cctx).st = .dormant := by
    rw [← h3.cctx]
    simp [State.endLeg]
  obtain ⟨hf, hh⟩ := (s3.endLeg .dormant).pickActive_futOps
  rw [hf, hh, State.pickActive_dormant _ _ dormant]
  exact ⟨left.here, left.futOps, dormant, left.futw _⟩

/-- The end of the bundle of a FUTW (R347): the strand's record is on its way to the future of its command, and its context is
free. -/
theorem State.futwSuspend_frees (s : State) (n aff : Nat) (d : DockEntry) (hd : s.cmd? n = some d) :
    (s.futwSuspend n aff).futOps = s.futOps ++ [.wait s.here n d.slice d.pa.toNat (s.suspRecord aff)]
      ∧ ((s.futwSuspend n aff).quay.ctx s.quay.cctx).st = .dormant
      ∧ ((s.futwSuspend n aff).quay.ctx s.quay.cctx).futw = none := by
  obtain ⟨-, hops, hst, hnote⟩ := (s.updCtx fun c => { c with futw := none }).freeCtx_dormant
  replace hops := hops.trans (State.updCtx_futOps s _)
  have hc : (s.updCtx fun c => { c with futw := none }).quay.cctx = s.quay.cctx := State.cctx_setCtx _ _
  rw [hc] at hst hnote
  unfold State.futwSuspend
  simp only [hd]
  generalize (s.updCtx fun c => { c with futw := none }).freeCtx = u at hops hst hnote ⊢
  exact ⟨by rw [hops], hst, hnote.trans (by simp)⟩

theorem futw_suspends {s : State} {n aff : Nat} {d : DockEntry} (o : EOp) (hf : s.ctx.futw = some (n, aff))
    (hd : InDock s n d) (hb : s.ctx.recordBusy = false) :
    ∃ t, exec (.futw o) s = .next t ∧ t.futOps = s.futOps ++ [.wait s.here n d.slice d.pa.toNat (s.suspRecord aff)]
      ∧ (t.quay.ctx s.quay.cctx).st = .dormant ∧ (t.quay.ctx s.quay.cctx).futw = none := by
  obtain ⟨hcmd, -⟩ := hd
  exact ⟨s.futwSuspend n aff, by simp [execFutw, hf, hb], s.futwSuspend_frees n aff d hcmd⟩

theorem futw_waits_for_record {s : State} (o : EOp) (hf : s.ctx.futw.isSome = true) (hb : s.ctx.recordBusy = true) :
    exec (.futw o) s = stall (.futw o) s := by
  obtain ⟨⟨n, aff⟩, hf⟩ := Option.isSome_iff_exists.mp hf
  simp [execFutw, hf, hb]

end Sys2Proof.Machine

/-- Settles O36: what performs before a command enters the dock leaves the dock and the strand's registers alone
(`State.flush_quay`), so that the entry is that of the strand at its issue; and what lands as a FUTW's strand leaves its
context leaves the operations on futures alone (`State.freeCtx_dormant`). -/
theorem commandsEnterTheDock : Obligations.CommandsEnterTheDock := by
  unfold Obligations.CommandsEnterTheDock
  refine ⟨fun s o a b => ⟨fun f hf hw => ⟨?_, ?_⟩, fun _ => ⟨?_, ?_, ?_⟩⟩, fun s o a => ⟨?_, ?_, ?_⟩⟩
  · exact Sys2Proof.Machine.queued_issued hf hw
  · exact Sys2Proof.Machine.queued_waits hf hw
  · exact fun _ _ => Sys2Proof.Machine.cpmm_issued
  · exact Sys2Proof.Machine.cpmm_waits_for_room
  · exact fun _ _ => Sys2Proof.Machine.cpmm_waits_for_flush
  · exact Sys2Proof.Machine.futw_issued
  · exact fun _ _ _ hf hd _ hb => Sys2Proof.Machine.futw_suspends o hf hd hb
  · exact Sys2Proof.Machine.futw_waits_for_record o
end

section
/-! PROOFS. Rounding keeps the values that a format holds (O18): the encoding of a finite value is put together again from
its sign, exponent field and fraction, and no digit is below the last bit that the format keeps. -/

namespace Sys2Proof.Machine

open Sys2Proof

theorem pow2_of_nonpos {e : Int} (h : e ≤ 0) : pow2 e = 1 := by
  rw [pow2, Int.toNat_of_nonpos h, Nat.pow_zero]

theorem floorLog2_one {n : Nat} (h : n ≠ 0) : floorLog2 n 1 = Nat.log2 n := by
  have hle : pow2 (Nat.log2 n) ≤ n := by simpa [pow2] using Nat.log2_self_le h
  have hlog : (Nat.log2 n : Int) - Nat.log2 1 = Nat.log2 n := by simp [Nat.log2_def 1]
  have hneg : ¬ (Nat.log2 n : Int) < 0 := by omega
  simp only [floorLog2, hlog, if_neg hneg, Nat.one_mul, Nat.not_lt.2 hle, decide_false, Bool.false_eq_true, if_false]

/-! ### The floating-point formats -/

/-- The format has an encoding of the magnitude n times two to the power q with its last bit in place: a normal number's
(R53, an exponent field above 0), or a subnormal's or a zero's at the lowest exponent. -/
def FloatSpec.Holds (f : FloatSpec) (n : Nat) (q : Int) : Prop :=
  n < 2 ^ (f.frac + 1) ∧ f.emin - f.frac ≤ q ∧ (n < 2 ^ f.frac → q = f.emin - f.frac)
    ∧ (q < f.maxQ ∨ q = f.maxQ ∧ n ≤ f.maxN)

/-- The top exponent field that encodes numbers is that of the largest finite value (R53): the one below the infinities', or
the last one, where a NaN takes the last fraction from it. -/
def FloatSpec.Regular (f : FloatSpec) : Prop :=
  f.emin - f.frac < f.maxQ ∧ f.maxQ + f.frac + f.bias = 2 ^ f.expBits - (if f.hasInf then 2 else 1)
    ∧ f.maxN = 2 ^ (f.frac + 1) - (if f.hasInf || !f.hasNan then 1 else 2)

theorem Fmt.float_regular {f : Fmt} {sp : FloatSpec} (h : f.float = some sp) :
    sp.Regular ∧ f.bits = sp.frac + sp.expBits + 1 := by
  refine ⟨?_, by cases f <;> cases h <;> rfl⟩
  unfold FloatSpec.Regular FloatSpec.emin
  cases f with
  | i8 | i16 | i32 | s24 => cases h
  | bf16 | fp16 | fp32 | e4m3 | e5m2 | e2m1 => cases h; decide

theorem FloatSpec.pack_subnormal (f : FloatSpec) (neg : Bool) {n : Nat} (q : Int) (h : n < 2 ^ f.frac) :
    f.pack neg n q = n + if neg then 2 ^ (f.frac + f.expBits) else 0 := by
  have : ¬ n ≥ 2 ^ (f.frac + 1) := by rw [Nat.pow_succ]; omega
  simp only [FloatSpec.pack, if_neg this, h, if_true]

theorem FloatSpec.pack_normal (f : FloatSpec) (neg : Bool) {fr : Nat} (ex : Nat) (h : fr < 2 ^ f.frac) :
    f.pack neg (2 ^ f.frac + fr) ((ex : Int) - f.bias - f.frac)
      = ex * 2 ^ f.frac + fr + if neg then 2 ^ (f.frac + f.expBits) else 0 := by
  have hlt : ¬ 2 ^ f.frac + fr ≥ 2 ^ (f.frac + 1) := by rw [Nat.pow_succ]; omega
  have hex : ((ex : Int) - f.bias - f.frac + f.frac + f.bias).toNat = ex := by omega
  have hfr : 2 ^ f.frac + fr - 2 ^ f.frac = fr := by omega
  have hnorm : ¬ 2 ^ f.frac + fr < 2 ^ f.frac := by omega
  simp only [FloatSpec.pack, if_neg hlt, if_neg hnorm, hex, hfr]

/-- An encoding's bits, from its fraction, its exponent field and its sign (R53). -/
theorem FloatSpec.fields_eq (f : FloatSpec) {bits : Nat} (h : bits < 2 ^ (f.frac + f.expBits + 1)) :
    bits / 2 ^ f.frac % 2 ^ f.expBits * 2 ^ f.frac + bits % 2 ^ f.frac
      + (if bits / 2 ^ (f.frac + f.expBits) % 2 == 1 then 2 ^ (f.frac + f.expBits) else 0) = bits := by
  have hsign : (if bits / 2 ^ (f.frac + f.expBits) % 2 == 1 then 2 ^ (f.frac + f.expBits) else 0)
      = 2 ^ (f.frac + f.expBits) * (bits / 2 ^ (f.frac + f.expBits)) := by
    have : bits / 2 ^ (f.frac + f.expBits) < 2 := by
      rw [Nat.div_lt_iff_lt_mul (Nat.two_pow_pos _), ← Nat.pow_succ']; exact h
    generalize bits / 2 ^ (f.frac + f.expBits) = x at this ⊢
    obtain rfl | rfl : x = 0 ∨ x = 1 := by omega
    · simp
    · simp
  calc
    _ = bits % 2 ^ f.frac + 2 ^ f.frac * (bits / 2 ^ f.frac % 2 ^ f.expBits)
          + 2 ^ (f.frac + f.expBits) * (bits / 2 ^ (f.frac + f.expBits)) := by
      rw [hsign, Nat.mul_comm (bits / 2 ^ f.frac % 2 ^ f.expBits), Nat.add_comm (2 ^ f.frac * _)]
    _ = bits % 2 ^ (f.frac + f.expBits) + 2 ^ (f.frac + f.expBits) * (bits / 2 ^ (f.frac + f.expBits)) := by
      rw [Nat.pow_add, Nat.mod_mul]
    _ = bits := Nat.mod_add_div _ _

/-- An exponent field that encodes numbers, and what fraction it may stand with. -/
theorem FloatSpec.holds_normal {f : FloatSpec} (hf : f.Regular) {fr ex : Nat} (hfr : fr < 2 ^ f.frac)
    (hex : ex < 2 ^ f.expBits) (h0 : ex ≠ 0) (hinf : ex = 2 ^ f.expBits - 1 → f.hasInf = false)
    (hnan : ex = 2 ^ f.expBits - 1 → f.hasNan = true → fr ≠ 2 ^ f.frac - 1) :
    f.Holds (2 ^ f.frac + fr) ((ex : Int) - f.bias - f.frac) := by
  obtain ⟨-, hmaxQ, hmaxN⟩ := hf
  have hpow : 2 ^ (f.frac + 1) = 2 * 2 ^ f.frac := Nat.pow_succ'
  have hcast : ((2 ^ f.expBits : Nat) : Int) = 2 ^ f.expBits := by push_cast; rfl
  have hemin : f.emin = 1 - (f.bias : Int) := rfl
  refine ⟨by omega, by omega, by omega, ?_⟩
  rw [← hcast] at hmaxQ
  by_cases hi : f.hasInf
  · have : ex ≠ 2 ^ f.expBits - 1 := fun h => by simp [hinf h] at hi
    simp only [hi, if_true, Bool.true_or] at hmaxQ hmaxN
    omega
  · simp only [hi, Bool.false_or] at hmaxQ hmaxN
    by_cases hn : f.hasNan
    · have := fun h => hnan h hn
      simp [hn] at hmaxQ hmaxN
      omega
    · simp [hn] at hmaxQ hmaxN
      omega

/-- What an encoding of a finite value stands for, and how it is packed again (R53). -/
theorem FloatSpec.decode_finite {f : FloatSpec} (hf : f.Regular) {bits : Nat} (h : bits < 2 ^ (f.frac + f.expBits + 1))
    (hnan : (f.decode bits).isNan = false) (hinf : (f.decode bits).isInf = false) :
    ∃ s n e, f.decode bits = .fin s n e ∧ f.pack s n e = bits ∧ f.Holds n e := by
  have hfields := f.fields_eq h
  have hfr : bits % 2 ^ f.frac < 2 ^ f.frac := Nat.mod_lt _ (Nat.two_pow_pos _)
  have hex : bits / 2 ^ f.frac % 2 ^ f.expBits < 2 ^ f.expBits := Nat.mod_lt _ (Nat.two_pow_pos _)
  unfold FloatSpec.decode at hnan hinf ⊢
  dsimp only at hnan hinf ⊢
  generalize bits % 2 ^ f.frac = fr at *
  generalize bits / 2 ^ f.frac % 2 ^ f.expBits = ex at *
  generalize (bits / 2 ^ (f.frac + f.expBits) % 2 == 1) = s at *
  by_cases hi : (decide (ex = 2 ^ f.expBits - 1) && f.hasInf) = true
  · rw [if_pos hi] at hnan hinf
    split at hnan
    next hz => simp [hz, Val.isInf] at hinf
    next => cases hnan
  rw [if_neg hi] at hnan ⊢
  by_cases hn : (decide (ex = 2 ^ f.expBits - 1) && f.hasNan && fr == 2 ^ f.frac - 1) = true
  · rw [if_pos hn] at hnan
    cases hnan
  rw [if_neg hn]
  by_cases h0 : ex = 0
  · subst h0
    refine ⟨s, fr, f.emin - f.frac, by rw [if_pos rfl], ?_, ?_⟩
    · rw [f.pack_subnormal s _ hfr]
      simpa using hfields
    · obtain ⟨hlow, -⟩ := hf
      exact ⟨by rw [Nat.pow_succ]; omega, Int.le_refl _, fun _ => rfl, .inl hlow⟩
  · refine ⟨s, 2 ^ f.frac + fr, ex - f.bias - f.frac, by rw [if_neg h0], (f.pack_normal s ex hfr).trans hfields, ?_⟩
    exact FloatSpec.holds_normal hf hfr hex h0 (by simpa using hi) (by simpa using hn)

/-- A number that a format holds has no digit below its last bit: Round packs it as it is (R60). -/
theorem FloatSpec.round_of_holds_nonzero {f : FloatSpec} (rm : RMode) (seed : BitVec 32) (src : Option Int) (neg : Bool)
    {n : Nat} {q : Int} (hn : n ≠ 0) (h : f.Holds n q) : f.round rm seed src neg n 1 q = (f.pack neg n q, 0) := by
  obtain ⟨hlt, hmin, hsub, hmax⟩ := h
  have hlog : (if Nat.log2 n + q < f.emin then f.emin else Nat.log2 n + q) - f.frac = q := by
    by_cases hs : n < 2 ^ f.frac
    · have := (Nat.log2_lt hn).2 hs
      have := hsub hs
      split <;> omega
    · have : Nat.log2 n = f.frac := by
        have := (Nat.log2_lt hn).2 hlt
        have := (Nat.le_log2 hn).2 (Nat.le_of_not_lt hs)
        omega
      split <;> omega
  have hbig : (if q ≥ f.maxQ then decide (n * pow2 (q - f.maxQ) > f.maxN) else false) = false := by
    obtain hq | ⟨rfl, hm⟩ := hmax
    · rw [if_neg (by omega)]
    · simp [pow2, hm]
  unfold FloatSpec.round
  simp only [hn, if_false, floorLog2_one hn, hlog, Int.sub_self, Int.neg_zero, pow2_of_nonpos (Int.le_refl 0), Nat.mul_one,
    Nat.div_one, Nat.mod_one, ne_eq, not_true, decide_false, Bool.false_and, if_neg Bool.false_ne_true, hbig]
  rfl

theorem FloatSpec.round_of_holds {f : FloatSpec} (rm : RMode) (seed : BitVec 32) (src : Option Int) (s : Bool) {n : Nat}
    {e : Int} (h : f.Holds n e) : f.round rm seed src s n 1 e = (f.pack s n e, 0) := by
  by_cases hn : n = 0
  · subst hn
    simp [FloatSpec.round, f.pack_subnormal s _ (Nat.two_pow_pos _)]
  · exact FloatSpec.round_of_holds_nonzero rm seed src s hn h

/-! ### The integer formats -/

theorem satInt_toInt {w : Nat} (b : BitVec w) : satInt w b.toInt = b.toInt := by
  have hlo := BitVec.le_toInt b
  have hhi := @BitVec.toInt_lt w b
  unfold satInt
  rw [if_neg (by omega), if_neg (by omega)]

/-- An integer is its own floor, and Sat leaves one that has w bits alone (R55). -/
theorem roundInt_ofNat {w n : Nat} (rm : RMode) (seed : BitVec 32) (src : Option Int) (h : n < 2 ^ w) :
    roundInt w rm seed src (decide ((BitVec.ofNat w n).toInt < 0)) (BitVec.ofNat w n).toInt.natAbs 1 0 = (n, 0) := by
  have hbits : intBits w (BitVec.ofNat w n).toInt = n := by
    simp [intBits, BitVec.ofInt_toInt, Nat.mod_eq_of_lt h]
  generalize (BitVec.ofNat w n) = b at hbits ⊢
  have habs : (if decide (b.toInt < 0) then -(b.toInt.natAbs : Int) else b.toInt.natAbs) = b.toInt := by
    simp only [decide_eq_true_eq]
    split <;> omega
  unfold roundInt
  simp only [Int.neg_zero, pow2_of_nonpos (Int.le_refl 0), Nat.mul_one, Nat.div_one, Nat.mod_one, ne_eq, not_true,
    decide_false, Bool.false_and, if_neg Bool.false_ne_true, habs, satInt_toInt, hbits]
  rfl


/-! ### Every format -/

theorem Fmt.round_value_float {f : Fmt} {sp : FloatSpec} (hsp : f.float = some sp) (rm : RMode) (seed : BitVec 32)
    {n : Nat} (hn : n < 2 ^ f.bits) (hnan : (f.value n).isNan = false) (hinf : (f.value n).isInf = false) :
    f.round rm seed none (f.value n) = (n, 0) := by
  obtain ⟨hreg, hbits⟩ := Fmt.float_regular hsp
  have hval : f.value n = sp.decode n := by simp only [Fmt.value, hsp]
  rw [hval] at hnan hinf ⊢
  obtain ⟨s, m, e, hdec, hpack, hholds⟩ := FloatSpec.decode_finite hreg (hbits ▸ hn) hnan hinf
  calc f.round rm seed none (sp.decode n) = sp.round rm seed none s m 1 e := by
        rw [hdec]; simp only [Fmt.round, Fmt.roundQuot, hsp]
    _ = (n, 0) := by rw [FloatSpec.round_of_holds rm seed none s hholds, hpack]

end Sys2Proof.Machine

/-- Settles O18: a floating-point encoding is taken apart and packed again (`FloatSpec.decode_finite`), with no digit below
its last bit (`FloatSpec.round_of_holds`); an integer is its own floor and within the range of Sat. -/
theorem roundingKeepsExactValues : Obligations.RoundingKeepsExactValues := by
  unfold Obligations.RoundingKeepsExactValues
  intro f rm seed n hf hn hnan hinf
  cases f with
  | s24 => simp at hf
  | i8 | i16 | i32 => exact Sys2Proof.Machine.roundInt_ofNat rm seed none hn
  | bf16 | fp16 | fp32 | e4m3 | e5m2 | e2m1 => exact Sys2Proof.Machine.Fmt.round_value_float rfl rm seed hn hnan hinf
end

section
/-! PROOFS. The sums of a K tile in an INT32 bank (O43): the store of a bank as a list of words and back, the cell of a row
and a column, and one group's exact sum added with Sat. -/

namespace Sys2Proof.Machine

open Sys2Proof Sys2Proof.Claims

/-! ### The bank's store as a list of words -/

theorem denseWords_getElem? {l : Sparse (BitVec 32)} {k : Nat} (n : Nat) (h : sparseWfFrom 0 k l = true) {i : Nat}
    (hi : i < n) : (denseWords k n l)[i]? = some (sparseGet 0 l (k + i)).toNat := by
  induction n generalizing k l i with
  | zero => omega
  | succ n ih =>
    cases l with
    | nil => cases i with
      | zero => rfl
      | succ i => exact ih (k := k + 1) rfl (by omega)
    | cons e t =>
      obtain ⟨j, v⟩ := e
      simp only [sparseWfFrom, Bool.and_eq_true, decide_eq_true_eq] at h
      obtain ⟨⟨hkj, hv⟩, ht⟩ := h
      by_cases hj : j = k
      · subst hj
        cases i with
        | zero => simp [denseWords, sparseGet]
        | succ i =>
          have hne : j + (i + 1) ≠ j := by omega
          have hlt : ¬ j + (i + 1) < j := by omega
          simp only [denseWords, if_true, List.getElem?_cons_succ, sparseGet, hne, hlt, if_false]
          rw [ih ht (by omega), Nat.add_right_comm, Nat.add_assoc]
      · have hwf : sparseWfFrom 0 (k + 1) ((j, v) :: t) = true := by
          have hle : k + 1 ≤ j := by omega
          simp only [sparseWfFrom, hv, ht, hle, ne_eq, not_false_eq_true, decide_true, Bool.and_self]
        simp only [denseWords, hj, if_false]
        cases i with
        | zero => rw [k.add_zero, sparseGet_lt 0 hwf (Nat.lt_succ_self k)]; rfl
        | succ i => rw [List.getElem?_cons_succ, ih hwf (by omega), Nat.add_right_comm, Nat.add_assoc]

/-- The entries that a list of words gives from key `k` on. -/
def wordsFrom (k : Nat) (l : List Nat) : Sparse (BitVec 32) :=
  (l.zipIdx k).filterMap fun p => if p.1 % 2 ^ 32 = 0 then none else some (p.2, BitVec.ofNat 32 p.1)

theorem sparseWords_eq (l : List Nat) : sparseWords l = wordsFrom 0 l := rfl

theorem ofNat_eq_zero_of_mod {x : Nat} (h : x % 2 ^ 32 = 0) : BitVec.ofNat 32 x = 0 :=
  BitVec.eq_of_toNat_eq (by simpa using h)

theorem wordsFrom_cons (k x : Nat) (l : List Nat) :
    wordsFrom k (x :: l) =
      if x % 2 ^ 32 = 0 then wordsFrom (k + 1) l else (k, BitVec.ofNat 32 x) :: wordsFrom (k + 1) l := by
  unfold wordsFrom
  rw [List.zipIdx_cons, List.filterMap_cons]
  by_cases hx : x % 2 ^ 32 = 0
  · simp only [hx, if_true]
  · simp only [hx, if_false]

theorem wordsFrom_wf (k : Nat) (l : List Nat) : sparseWfFrom 0 k (wordsFrom k l) = true := by
  induction l generalizing k with
  | nil => rfl
  | cons x l ih =>
    rw [wordsFrom_cons]
    split
    · exact sparseWfFrom_mono 0 (ih (k + 1)) (Nat.le_succ k)
    next hx =>
      have : BitVec.ofNat 32 x ≠ 0 := fun h => hx (by simpa using congrArg BitVec.toNat h)
      simp only [sparseWfFrom, ih (k + 1), this, ne_eq, not_false_eq_true, Nat.le_refl, decide_true, Bool.and_self]

theorem sparseGet_wordsFrom (k : Nat) (l : List Nat) (i : Nat) :
    sparseGet 0 (wordsFrom k l) (k + i) = BitVec.ofNat 32 (l.getD i 0) := by
  induction l generalizing k i with
  | nil => rfl
  | cons x l ih =>
    have htail (i : Nat) : sparseGet 0 (wordsFrom (k + 1) l) (k + (i + 1)) = BitVec.ofNat 32 (l.getD i 0) := by
      rw [← ih (k + 1), Nat.add_right_comm, Nat.add_assoc]
    rw [wordsFrom_cons]
    cases i with
    | zero =>
      split
      next hx => simpa [ofNat_eq_zero_of_mod hx] using sparseGet_lt 0 (wordsFrom_wf (k + 1) l) (Nat.lt_succ_self k)
      next => simp [sparseGet]
    | succ i =>
      split
      next => exact htail i
      next =>
        have hne : k + (i + 1) ≠ k := by omega
        have hlt : ¬ k + (i + 1) < k := by omega
        simp only [sparseGet, if_neg hne, if_neg hlt]
        exact htail i

/-- A key of the store of a list of words. -/
theorem sparseGet_sparseWords (l : List Nat) (i : Nat) : sparseGet 0 (sparseWords l) i = BitVec.ofNat 32 (l.getD i 0) := by
  simpa [sparseWords_eq] using sparseGet_wordsFrom 0 l i

/-! ### The cell of a row and a column -/

/-- Rows by columns, row after row: cell n of row m stands at place w * m + n, where w is the number of columns. -/
theorem flatMap_pair_getElem? {α β : Type} (as : List α) (bs : List β) {m n : Nat} {a : α} {b : β}
    (ha : as[m]? = some a) (hb : bs[n]? = some b) : (as.flatMap fun x => bs.map fun y => (x, y))[bs.length * m + n]? = some (a, b) := by
  have hn : n < bs.length := (List.getElem?_eq_some_iff.1 hb).1
  induction as generalizing m with
  | nil => simp at ha
  | cons x as ih =>
    rw [List.flatMap_cons]
    cases m with
    | zero =>
      obtain rfl : x = a := by simpa using ha
      rw [List.getElem?_append_left (by simpa using hn)]
      simp [hb]
    | succ m =>
      have hle : bs.length ≤ bs.length * (m + 1) + n := by rw [Nat.mul_succ]; omega
      have hsub : bs.length * (m + 1) + n - bs.length = bs.length * m + n := by rw [Nat.mul_succ]; omega
      rw [List.getElem?_append_right (by simpa using hle), List.length_map, hsub, ih (by simpa using ha)]

/-- Word (m, n) of the bank after a fed K tile: the groups of row m and column n on the word before. -/
theorem Bank.addTile_word (k : Bank) (int : Bool) (g : Nat) {as bs : List FedRow} (hb : bs.length = 96)
    (hk : sparseWf 0 k.words = true) {m n : Nat} (hm : m < 128) {a b : FedRow} (ha : as[m]? = some a)
    (hn : bs[n]? = some b) :
    sparseGet 0 (k.addTile int g as bs).1.words (96 * m + n) =
      BitVec.ofNat 32 (groupSums int g 4 a.1 a.2.1 b.1 b.2.1 (sparseGet 0 k.words (96 * m + n)).toNat).1 := by
  have hlt : 96 * m + n < 12288 := by
    have := (List.getElem?_eq_some_iff.1 hn).1
    omega
  have hcell := flatMap_pair_getElem? as bs ha hn
  rw [hb] at hcell
  have hword := denseWords_getElem? 12288 hk hlt
  rw [Nat.zero_add] at hword
  simp only [Bank.addTile]
  rw [sparseGet_sparseWords]
  simp [List.getD_eq_getElem?_getD, List.zip, List.getElem?_zipWith, hcell, hword]

/-! ### One group -/

/-- An integer as a value of the array. -/
def intVal (x : Int) : Val := .fin (decide (x < 0)) x.natAbs 0

theorem rowOf_eq (xs : List Int) : rowOf xs = (xs.map intVal, xs.map intVal, 0) := rfl

theorem scaled_intVal (x : Int) : (intVal x).scaled 0 = x := by
  simp only [intVal, Val.scaled, pow2, Int.sub_self, Int.toNat_zero, Nat.pow_zero, Nat.mul_one, decide_eq_true_eq]
  split <;> omega

theorem scaled_intVal_mul (x y : Int) : ((intVal x).mul (intVal y)).scaled 0 = x * y := by
  have hmag : (x.natAbs : Int) = (if x < 0 then -x else x) ∧ (y.natAbs : Int) = if y < 0 then -y else y := by
    constructor <;> split <;> omega
  simp only [intVal, Val.mul, Val.scaled, pow2, Int.add_zero, Int.sub_self, Int.toNat_zero, Nat.pow_zero, Nat.mul_one,
    Int.natCast_mul, hmag]
  by_cases hx : x < 0 <;> by_cases hy : y < 0 <;>
    simp only [hx, hy, if_true, if_false, decide_true, decide_false, bne_self_eq_false, Bool.bne_false, Bool.false_bne,
      Bool.false_eq_true, Int.neg_mul, Int.mul_neg, Int.neg_neg]

theorem scaled_of_isZero {v : Val} (e : Int) (h : v.isZero = true) : v.scaled e = 0 := by
  unfold Val.isZero at h
  split at h
  next => simp [Val.scaled]
  next => cases h

theorem sumScaled_eq (e : Int) (ts : List Val) : sumScaled e ts = (ts.map fun v => v.scaled e).sum := by
  induction ts with
  | nil => rfl
  | cons v t ih =>
    rw [sumScaled, ih, List.map_cons, List.sum_cons]
    split
    next hz => rw [scaled_of_isZero e hz]
    next => rfl

/-- A value that is an integer: no special value, and no digit below the units. -/
def Val.Whole (v : Val) : Prop := ∃ s n, v = .fin s n 0

theorem intVal_mul_whole (x y : Int) : ((intVal x).mul (intVal y)).Whole := ⟨_, _, rfl⟩

/-- The lowest exponent of whole terms is 0, or every one of them is a zero. -/
theorem lowExp_whole {ts : List Val} (h : ∀ v ∈ ts, v.Whole) :
    lowExp ts = some 0 ∨ lowExp ts = none ∧ (ts.map fun v => v.scaled 0).sum = 0 := by
  induction ts with
  | nil => exact .inr ⟨rfl, rfl⟩
  | cons v t ih =>
    obtain ⟨s, n, rfl⟩ := h v List.mem_cons_self
    have ht := ih fun w hw => h w (List.mem_cons_of_mem _ hw)
    by_cases hn : n = 0
    · subst hn
      simpa [lowExp, Val.scaled] using ht
    · obtain ht | ⟨ht, -⟩ := ht <;> simp [lowExp, hn, ht]

/-- The exact sum of whole terms is the sum of their integers (R73, R74). -/
theorem scaled_sum_whole (rm : RMode) {ts : List Val} (h : ∀ v ∈ ts, v.Whole) :
    (Val.sum rm ts).scaled 0 = (ts.map fun v => v.scaled 0).sum := by
  have hnan : ts.any Val.isNan = false := List.any_eq_false.2 fun v hv => by
    obtain ⟨s, n, rfl⟩ := h v hv
    exact Bool.false_ne_true
  have hinf (i : Bool) : ts.any (fun v => v == .inf i) = false := List.any_eq_false.2 fun v hv => by
    obtain ⟨s, n, rfl⟩ := h v hv
    simp
  unfold Val.sum
  simp only [hnan, hinf, Bool.false_eq_true, if_false]
  obtain hlow | ⟨hlow, hz⟩ := lowExp_whole h
  · simp only [hlow, sumScaled_eq]
    generalize (ts.map fun v => v.scaled 0).sum = z
    by_cases hz : z = 0
    · rw [if_pos hz, hz]
      exact scaled_of_isZero 0 rfl
    · rw [if_neg hz]
      exact scaled_intVal z
  · simp only [hlow, hz]
    refine scaled_of_isZero 0 ?_
    repeat' split
    all_goals rfl

/-- The sum of the products of two rows. -/
def intDot (a b : List Int) : Int := (List.zipWith (fun x y => x * y) a b).sum

theorem scaled_sum_products (rm : RMode) (a b : List Int) :
    (Val.sum rm (List.zipWith Val.mul (a.map intVal) (b.map intVal))).scaled 0 = intDot a b := by
  rw [List.zipWith_map, scaled_sum_whole, List.map_zipWith]
  · simp only [scaled_intVal_mul, intDot]
  · intro v hv
    obtain ⟨i, hi, rfl⟩ := List.getElem_of_mem hv
    rw [List.getElem_zipWith]
    exact intVal_mul_whole _ _

/-- Sat into 32 bits (R55), read back from the word. -/
theorem signedField_wrapInt_satInt (t : Int) : signedField 32 (wrapInt 32 (satInt 32 t)) = clamp32 t := by
  have hsat : satInt 32 t = clamp32 t := by
    unfold satInt clamp32
    omega
  have hlo : -2 ^ 31 ≤ clamp32 t := by unfold clamp32; omega
  have hhi : clamp32 t < 2 ^ 31 := by unfold clamp32; omega
  have hbits : BitVec.ofNat 32 (wrapInt 32 (clamp32 t)) = BitVec.ofInt 32 (clamp32 t) :=
    BitVec.eq_of_toNat_eq (by simp only [wrapInt, BitVec.toNat_ofNat, BitVec.toNat_ofInt]; omega)
  rw [hsat, signedField, hbits, BitVec.toInt_ofInt_eq_self (by decide) hlo hhi]

/-- The sums of a K tile in one word: group by group, each exact and each added with Sat (R73, R271). -/
def intGroups (g : Nat) : Nat → List Int → List Int → Int → Int
  | 0, _, _, acc => acc
  | n + 1, a, b, acc => intGroups g n (a.drop g) (b.drop g) (clamp32 (acc + intDot (a.take g) (b.take g)))

/-- The four groups of a K tile, each from its place in the rows (R269). -/
theorem intGroups_four (g : Nat) (a b : List Int) (acc : Int) :
    let part := fun j => intDot ((a.drop (j * g)).take g) ((b.drop (j * g)).take g)
    intGroups g 4 a b acc = clamp32 (clamp32 (clamp32 (clamp32 (acc + part 0) + part 1) + part 2) + part 3) := by
  have h2 : 2 * g = g + g := Nat.two_mul g
  have h3 : 3 * g = g + g + g := by omega
  simp only [intGroups, List.drop_drop, Nat.zero_mul, Nat.one_mul, List.drop_zero, h2, h3]

theorem groupSums_int (g n : Nat) (a b : List Int) (acc : Nat) :
    signedField 32 (groupSums true g n (a.map intVal) (a.map intVal) (b.map intVal) (b.map intVal) acc).1
      = intGroups g n a b (signedField 32 acc) := by
  induction n generalizing a b acc with
  | zero => rfl
  | succ n ih =>
    simp only [groupSums, if_true, ← List.map_take, ← List.map_drop, scaled_sum_products]
    rw [ih, signedField_wrapInt_satInt]
    rfl

/-- Word (m, n) of an INT32 bank after a fed K tile of integers. -/
theorem Bank.addTile_int_word (k : Bank) (g : Nat) {as bs : List (List Int)} (hA : as.length = 128) (hB : bs.length = 96)
    (hk : sparseWf 0 k.words = true) {m n : Nat} (hm : m < 128) (hn : n < 96) :
    (sparseGet (0 : BitVec 32) (k.addTile true g (as.map rowOf) (bs.map rowOf)).1.words (96 * m + n)).toInt =
      intGroups g 4 (as.getD m []) (bs.getD n []) (sparseGet 0 k.words (96 * m + n)).toInt := by
  have hrow {l : List (List Int)} {i : Nat} (h : i < l.length) : (l.map rowOf)[i]? = some (rowOf (l.getD i [])) := by
    simp [h]
  have hword (v : BitVec 32) : signedField 32 v.toNat = v.toInt := by simp [signedField]
  have hcell := k.addTile_word true g (by rw [List.length_map, hB]) hk hm (hrow (by rwa [hA])) (hrow (by rwa [hB]))
  rw [hcell, ← signedField, rowOf_eq, rowOf_eq, groupSums_int, hword]

end Sys2Proof.Machine

/-- Settles O43: each word is the fold of its groups (`Bank.addTile_word`), a group of integers is summed exactly
(`scaled_sum_products`), and the word written is the sum clamped into 32 bits (`signedField_wrapInt_satInt`). -/
theorem integerTileSums : Obligations.IntegerTileSums := by
  unfold Obligations.IntegerTileSums
  intro k g as bs hA hB _ _ hk m n hm hn
  exact (k.addTile_int_word g hA hB hk hm hn).trans (Sys2Proof.Machine.intGroups_four g _ _ _)
end
